-- ==== Sys2Proof/Word.lean ====
section
/-! DEFINITION. The word types of the machine (R3, R125): what the manual treats as bits is a bit vector; a register
number or a slot is a bounded number. -/
namespace Sys2Proof

/-- A scalar register's 64 bits. -/
abbrev W64 := BitVec 64
/-- One byte of memory. -/
abbrev Byte := BitVec 8
/-- x0-x31 (R128). -/
abbrev XReg := Fin 32
/-- v0-v15 (R129). -/
abbrev VRegNo := Fin 16
/-- k0-k7 (R129). -/
abbrev KRegNo := Fin 8
/-- b0-b3 (R129). -/
abbrev BRegNo := Fin 4
/-- lc0-lc2 (R166). -/
abbrev LoopNo := Fin 3
/-- A format tag code (R61): 0x0-0xC assigned, 0xD-0xF reserved. -/
abbrev Tag := BitVec 4

end Sys2Proof
end

