-- ==== Sys2Proof/Syntax.lean ====
section
/-! DEFINITION. The syntax: one constructor per row of spec/opcode_table.json. The rows with an encoding are the
instructions of classes C, V, M, G and X (R144-R149), their operands decoded; the S bit of a group stands beside the
instruction in `Group`. The rows without an encoding are the other indivisible steps of the part (events), with the
operands that say where they take place. -/
namespace Sys2Proof

/-- The modifier prefix of R131, its fields as the word holds them. -/
structure Prefix where
  rnd : BitVec 3
  sat : BitVec 3
  neg : Bool
  abs : Bool
  scale : BitVec 6
  deriving DecidableEq, Repr

/-- The unit that executes a word (R144). -/
inductive UnitClass where
  | m | v | g | seq
  deriving DecidableEq, Repr

/-- The members of class X (R148). -/
inductive XOp where
  | copy | copyc | csum | fill | publish | prefetch | migr | cred | crs | cag | cbc | ca2a
  | viewRd | viewAck | viewJoin | viewAdm | xstat
  deriving DecidableEq, Repr

/-- An X word in the second word of `enq` (R149): its member and its three register fields. -/
structure XWord where
  op : XOp
  d : XReg
  a : XReg
  b : XReg
  deriving DecidableEq, Repr

/-- The states of a package's clock servo (R283). -/
inductive ClockState where
  | free | acquiring | locked | holdover
  deriving DecidableEq, Repr

/-- The data set of a clock, in the order in which the best master clock algorithm of IEEE 1588-2019 compares it (R284), with the
default values of its profile (PRESUMED, notes/assumptions/82.md). -/
structure ClockSet where
  priority1 : Nat := 128
  quality : Nat := 248
  accuracy : Nat := 254
  variance : Nat := 65535
  priority2 : Nat := 128
  ident : Nat := 0
  deriving DecidableEq, Repr

/-- What an Announce tells: the grandmaster's data set, and the steps by which its sender is removed from it (R284). -/
structure Announced where
  gm : ClockSet := {}
  steps : Nat := 0
  deriving DecidableEq, Repr

/-- The operations of the scratchpad and global atomics (R173, R176). -/
inductive AtomOp where
  | add | swp | and | or | xor | min | max | minu | maxu | cas
  deriving DecidableEq, Repr

/-- What a forwarded line request asks of its owner: an atomic's data are its operand and then the value compared (R388). -/
inductive LineOp where
  | read | write | atomic (op : AtomOp)
  deriving DecidableEq, Repr

/-- The power modes (R424). -/
inductive PowerMode where
  | full | efficient | guarded
  deriving DecidableEq, Repr

/-- The windows of a logical device that the host reaches (R393): the register BAR, the SRAM window, the HBM4E window
of an NB die, and the CXL.mem range of an FB die. -/
inductive HostWindow where
  | config | regs | sram | hbm | far
  deriving DecidableEq, Repr

/-- One constructor per row of the opcode table. Field names follow the encodings: d, a, b, c are the registers of
fields D, A, B, C; t a format tag; pfx the bound prefix of a modifiable instruction. -/
inductive Instr where
  /-- Issues a group with no effect. (R193) -/
  | nop
  /-- Enters the supervisor synchronously with number n and returns to the next group. (R193) -/
  | trap (n : BitVec 15)
  /-- Supervisor call, or a partition freeze when SDBG.BKEN is set. (R376) -/
  | brk (n : BitVec 15)
  /-- Returns from a trap to kernel mode, applying EMU and RFL first. (R360) -/
  | sret
  /-- Invalidates every entry of the die's walker caches at t+1. (R387) -/
  | wcinv
  /-- Writes xa + xb mod 2^64, or the saturated sum under a prefix. (R154) -/
  | add (d : XReg) (a : XReg) (b : XReg) (pfx : Option Prefix)
  /-- Writes xa - xb mod 2^64, or the saturated difference under a prefix. (R154) -/
  | sub (d : XReg) (a : XReg) (b : XReg) (pfx : Option Prefix)
  /-- Writes xa and xb. (R154) -/
  | and (d : XReg) (a : XReg) (b : XReg)
  /-- Writes xa or xb. (R154) -/
  | or (d : XReg) (a : XReg) (b : XReg)
  /-- Writes xa xor xb. (R154) -/
  | xor (d : XReg) (a : XReg) (b : XReg)
  /-- Writes xa and not xb. (R154) -/
  | andn (d : XReg) (a : XReg) (b : XReg)
  /-- Shifts xa left by xb[5:0]. (R154) -/
  | sll (d : XReg) (a : XReg) (b : XReg)
  /-- Shifts xa logically right by xb[5:0]. (R154) -/
  | srl (d : XReg) (a : XReg) (b : XReg)
  /-- Shifts xa arithmetically right by xb[5:0]. (R154) -/
  | sra (d : XReg) (a : XReg) (b : XReg)
  /-- Writes 1 if signed xa < signed xb. (R154) -/
  | slt (d : XReg) (a : XReg) (b : XReg)
  /-- Writes 1 if xa < xb unsigned. (R154) -/
  | sltu (d : XReg) (a : XReg) (b : XReg)
  /-- Writes the signed minimum. (R154) -/
  | min (d : XReg) (a : XReg) (b : XReg)
  /-- Writes the signed maximum. (R154) -/
  | max (d : XReg) (a : XReg) (b : XReg)
  /-- Writes the unsigned minimum. (R154) -/
  | minu (d : XReg) (a : XReg) (b : XReg)
  /-- Writes the unsigned maximum. (R154) -/
  | maxu (d : XReg) (a : XReg) (b : XReg)
  /-- Writes xa × xb mod 2^64 after 3 ticks, saturating under a prefix. (R154) -/
  | mul (d : XReg) (a : XReg) (b : XReg) (pfx : Option Prefix)
  /-- Writes the high half of the signed product. (R154) -/
  | mulh (d : XReg) (a : XReg) (b : XReg)
  /-- Writes the high half of the unsigned product. (R154) -/
  | mulhu (d : XReg) (a : XReg) (b : XReg)
  /-- Signed division truncating to zero, landing at t+18; divide by zero writes all ones and sets DZ. (R157) -/
  | div (d : XReg) (a : XReg) (b : XReg)
  /-- Unsigned division on the divider. (R157) -/
  | divu (d : XReg) (a : XReg) (b : XReg)
  /-- Signed remainder on the divider. (R157) -/
  | rem (d : XReg) (a : XReg) (b : XReg)
  /-- Unsigned remainder on the divider. (R157) -/
  | remu (d : XReg) (a : XReg) (b : XReg)
  /-- Writes xa plus the sign-extended immediate, saturating under a prefix. (R156) -/
  | addi (d : XReg) (a : XReg) (i : BitVec 10) (pfx : Option Prefix)
  /-- Writes xa and the sign-extended immediate. (R156) -/
  | andi (d : XReg) (a : XReg) (i : BitVec 10)
  /-- Writes xa or the sign-extended immediate. (R156) -/
  | ori (d : XReg) (a : XReg) (i : BitVec 10)
  /-- Writes xa xor the sign-extended immediate. (R156) -/
  | xori (d : XReg) (a : XReg) (i : BitVec 10)
  /-- Signed compare with the immediate. (R156) -/
  | slti (d : XReg) (a : XReg) (i : BitVec 10)
  /-- Unsigned compare with the immediate. (R156) -/
  | sltiu (d : XReg) (a : XReg) (i : BitVec 10)
  /-- Shifts left by an immediate count 0-63. (R156) -/
  | slli (d : XReg) (a : XReg) (i : BitVec 10)
  /-- Shifts logically right by an immediate count 0-63. (R156) -/
  | srli (d : XReg) (a : XReg) (i : BitVec 10)
  /-- Shifts arithmetically right by an immediate count 0-63. (R156) -/
  | srai (d : XReg) (a : XReg) (i : BitVec 10)
  /-- Writes the sign-extended IMM15 times 2^10. (R158) -/
  | lui (d : XReg) (i : BitVec 15)
  /-- Writes the sign-extended 32-bit immediate of its second word. (R158) -/
  | li (d : XReg) (imm : BitVec 32)
  /-- Writes IMM32 into the upper half of xd, keeping the lower half. (R158) -/
  | lih (d : XReg) (imm : BitVec 32)
  /-- Writes the code address of the word plus a word offset. (R158) -/
  | adpc (d : XReg) (i : BitVec 15)
  /-- Extracts a zero-extended bit field with offset and width from xb. (R159) -/
  | bextZ (d : XReg) (a : XReg) (b : XReg)
  /-- Extracts a sign-extended bit field with offset and width from xb. (R159) -/
  | bextS (d : XReg) (a : XReg) (b : XReg)
  /-- Inserts the low bits of xa into a field of xd. (R159) -/
  | bins (d : XReg) (a : XReg) (b : XReg)
  /-- Extracts a zero-extended field with immediate offset and width. (R160) -/
  | bextiZ (d : XReg) (a : XReg) (wc : BitVec 6) (off : BitVec 6)
  /-- Extracts a sign-extended field with immediate offset and width. (R160) -/
  | bextiS (d : XReg) (a : XReg) (wc : BitVec 6) (off : BitVec 6)
  /-- Inserts a field with immediate offset and width. (R160) -/
  | binsi (d : XReg) (a : XReg) (wc : BitVec 6) (off : BitVec 6)
  /-- Counts leading zeros. (R161) -/
  | clz (d : XReg) (a : XReg)
  /-- Counts trailing zeros. (R161) -/
  | ctz (d : XReg) (a : XReg)
  /-- Counts set bits. (R161) -/
  | popc (d : XReg) (a : XReg)
  /-- Reverses the bit order. (R161) -/
  | brev (d : XReg) (a : XReg)
  /-- Writes xa × 2 + xb. (R161) -/
  | shadd1 (d : XReg) (a : XReg) (b : XReg)
  /-- Writes xa × 4 + xb. (R161) -/
  | shadd2 (d : XReg) (a : XReg) (b : XReg)
  /-- Writes xa × 8 + xb. (R161) -/
  | shadd3 (d : XReg) (a : XReg) (b : XReg)
  /-- Branches when xd = xa. (R162) -/
  | beq (d : XReg) (a : XReg) (i : BitVec 10)
  /-- Branches when xd ≠ xa. (R162) -/
  | bne (d : XReg) (a : XReg) (i : BitVec 10)
  /-- Branches when signed xd < xa. (R162) -/
  | blt (d : XReg) (a : XReg) (i : BitVec 10)
  /-- Branches when signed xd ≥ xa. (R162) -/
  | bge (d : XReg) (a : XReg) (i : BitVec 10)
  /-- Branches when unsigned xd < xa. (R162) -/
  | bltu (d : XReg) (a : XReg) (i : BitVec 10)
  /-- Branches when unsigned xd ≥ xa. (R162) -/
  | bgeu (d : XReg) (a : XReg) (i : BitVec 10)
  /-- Transfers to a word offset. (R163) -/
  | jmp (i : BitVec 20)
  /-- Pushes the return address and transfers to a word offset. (R163) -/
  | call (i : BitVec 20)
  /-- Transfers to the address in xa. (R164) -/
  | jr (a : XReg)
  /-- Pushes the return address and transfers to xa. (R164) -/
  | callr (a : XReg)
  /-- Pops the return-address store and transfers there. (R164) -/
  | ret
  /-- Activates a hardware loop with count from xa. (R166) -/
  | loop (n : LoopNo) (a : XReg) (ofs : BitVec 32)
  /-- Activates a hardware loop with an immediate count. (R166) -/
  | loopi (n : LoopNo) (count : BitVec 15) (ofs : BitVec 32)
  /-- Loads a sign-extended byte from the scratchpad. (R171) -/
  | ldS8 (d : XReg) (a : XReg) (i : BitVec 10)
  /-- Loads a zero-extended byte. (R171) -/
  | ldZ8 (d : XReg) (a : XReg) (i : BitVec 10)
  /-- Loads a sign-extended half-word. (R171) -/
  | ldS16 (d : XReg) (a : XReg) (i : BitVec 10)
  /-- Loads a zero-extended half-word. (R171) -/
  | ldZ16 (d : XReg) (a : XReg) (i : BitVec 10)
  /-- Loads a sign-extended word. (R171) -/
  | ldS32 (d : XReg) (a : XReg) (i : BitVec 10)
  /-- Loads a zero-extended word. (R171) -/
  | ldZ32 (d : XReg) (a : XReg) (i : BitVec 10)
  /-- Loads a double word. (R171) -/
  | ld64 (d : XReg) (a : XReg) (i : BitVec 10)
  /-- Stores a byte to the scratchpad. (R172) -/
  | st8 (d : XReg) (a : XReg) (i : BitVec 10)
  /-- Stores a half-word. (R172) -/
  | st16 (d : XReg) (a : XReg) (i : BitVec 10)
  /-- Stores a word. (R172) -/
  | st32 (d : XReg) (a : XReg) (i : BitVec 10)
  /-- Stores a double word. (R172) -/
  | st64 (d : XReg) (a : XReg) (i : BitVec 10)
  /-- Scratchpad atomic add on a byte. (R173) -/
  | aadd8 (d : XReg) (a : XReg) (b : XReg)
  /-- Scratchpad atomic swap on a byte. (R173) -/
  | aswp8 (d : XReg) (a : XReg) (b : XReg)
  /-- Scratchpad atomic and on a byte. (R173) -/
  | aand8 (d : XReg) (a : XReg) (b : XReg)
  /-- Scratchpad atomic or on a byte. (R173) -/
  | aor8 (d : XReg) (a : XReg) (b : XReg)
  /-- Scratchpad atomic xor on a byte. (R173) -/
  | axor8 (d : XReg) (a : XReg) (b : XReg)
  /-- Scratchpad atomic signed minimum on a byte. (R173) -/
  | amin8 (d : XReg) (a : XReg) (b : XReg)
  /-- Scratchpad atomic signed maximum on a byte. (R173) -/
  | amax8 (d : XReg) (a : XReg) (b : XReg)
  /-- Scratchpad atomic unsigned minimum on a byte. (R173) -/
  | aminu8 (d : XReg) (a : XReg) (b : XReg)
  /-- Scratchpad atomic unsigned maximum on a byte. (R173) -/
  | amaxu8 (d : XReg) (a : XReg) (b : XReg)
  /-- Scratchpad atomic compare-and-swap on a byte. (R173) -/
  | acas8 (d : XReg) (a : XReg) (b : XReg)
  /-- Scratchpad atomic add on a half-word. (R173) -/
  | aadd16 (d : XReg) (a : XReg) (b : XReg)
  /-- Scratchpad atomic swap on a half-word. (R173) -/
  | aswp16 (d : XReg) (a : XReg) (b : XReg)
  /-- Scratchpad atomic and on a half-word. (R173) -/
  | aand16 (d : XReg) (a : XReg) (b : XReg)
  /-- Scratchpad atomic or on a half-word. (R173) -/
  | aor16 (d : XReg) (a : XReg) (b : XReg)
  /-- Scratchpad atomic xor on a half-word. (R173) -/
  | axor16 (d : XReg) (a : XReg) (b : XReg)
  /-- Scratchpad atomic signed minimum on a half-word. (R173) -/
  | amin16 (d : XReg) (a : XReg) (b : XReg)
  /-- Scratchpad atomic signed maximum on a half-word. (R173) -/
  | amax16 (d : XReg) (a : XReg) (b : XReg)
  /-- Scratchpad atomic unsigned minimum on a half-word. (R173) -/
  | aminu16 (d : XReg) (a : XReg) (b : XReg)
  /-- Scratchpad atomic unsigned maximum on a half-word. (R173) -/
  | amaxu16 (d : XReg) (a : XReg) (b : XReg)
  /-- Scratchpad atomic compare-and-swap on a half-word. (R173) -/
  | acas16 (d : XReg) (a : XReg) (b : XReg)
  /-- Scratchpad atomic add on a word. (R173) -/
  | aadd32 (d : XReg) (a : XReg) (b : XReg)
  /-- Scratchpad atomic swap on a word. (R173) -/
  | aswp32 (d : XReg) (a : XReg) (b : XReg)
  /-- Scratchpad atomic and on a word. (R173) -/
  | aand32 (d : XReg) (a : XReg) (b : XReg)
  /-- Scratchpad atomic or on a word. (R173) -/
  | aor32 (d : XReg) (a : XReg) (b : XReg)
  /-- Scratchpad atomic xor on a word. (R173) -/
  | axor32 (d : XReg) (a : XReg) (b : XReg)
  /-- Scratchpad atomic signed minimum on a word. (R173) -/
  | amin32 (d : XReg) (a : XReg) (b : XReg)
  /-- Scratchpad atomic signed maximum on a word. (R173) -/
  | amax32 (d : XReg) (a : XReg) (b : XReg)
  /-- Scratchpad atomic unsigned minimum on a word. (R173) -/
  | aminu32 (d : XReg) (a : XReg) (b : XReg)
  /-- Scratchpad atomic unsigned maximum on a word. (R173) -/
  | amaxu32 (d : XReg) (a : XReg) (b : XReg)
  /-- Scratchpad atomic compare-and-swap on a word. (R173) -/
  | acas32 (d : XReg) (a : XReg) (b : XReg)
  /-- Scratchpad atomic add on a double word. (R173) -/
  | aadd64 (d : XReg) (a : XReg) (b : XReg)
  /-- Scratchpad atomic swap on a double word. (R173) -/
  | aswp64 (d : XReg) (a : XReg) (b : XReg)
  /-- Scratchpad atomic and on a double word. (R173) -/
  | aand64 (d : XReg) (a : XReg) (b : XReg)
  /-- Scratchpad atomic or on a double word. (R173) -/
  | aor64 (d : XReg) (a : XReg) (b : XReg)
  /-- Scratchpad atomic xor on a double word. (R173) -/
  | axor64 (d : XReg) (a : XReg) (b : XReg)
  /-- Scratchpad atomic signed minimum on a double word. (R173) -/
  | amin64 (d : XReg) (a : XReg) (b : XReg)
  /-- Scratchpad atomic signed maximum on a double word. (R173) -/
  | amax64 (d : XReg) (a : XReg) (b : XReg)
  /-- Scratchpad atomic unsigned minimum on a double word. (R173) -/
  | aminu64 (d : XReg) (a : XReg) (b : XReg)
  /-- Scratchpad atomic unsigned maximum on a double word. (R173) -/
  | amaxu64 (d : XReg) (a : XReg) (b : XReg)
  /-- Scratchpad atomic compare-and-swap on a double word. (R173) -/
  | acas64 (d : XReg) (a : XReg) (b : XReg)
  /-- Untimed global load of a sign-extended byte under a token. (R175) -/
  | ldgS8 (d : XReg) (a : XReg) (disp : BitVec 24) (tok : BitVec 3)
  /-- Untimed global load of a zero-extended byte. (R175) -/
  | ldgZ8 (d : XReg) (a : XReg) (disp : BitVec 24) (tok : BitVec 3)
  /-- Untimed global load of a sign-extended half-word. (R175) -/
  | ldgS16 (d : XReg) (a : XReg) (disp : BitVec 24) (tok : BitVec 3)
  /-- Untimed global load of a zero-extended half-word. (R175) -/
  | ldgZ16 (d : XReg) (a : XReg) (disp : BitVec 24) (tok : BitVec 3)
  /-- Untimed global load of a sign-extended word. (R175) -/
  | ldgS32 (d : XReg) (a : XReg) (disp : BitVec 24) (tok : BitVec 3)
  /-- Untimed global load of a zero-extended word. (R175) -/
  | ldgZ32 (d : XReg) (a : XReg) (disp : BitVec 24) (tok : BitVec 3)
  /-- Untimed global load of a double word. (R175) -/
  | ldg64 (d : XReg) (a : XReg) (disp : BitVec 24) (tok : BitVec 3)
  /-- Untimed global store of a byte under a token. (R175) -/
  | stg8 (d : XReg) (a : XReg) (disp : BitVec 24) (tok : BitVec 3)
  /-- Untimed global store of a half-word. (R175) -/
  | stg16 (d : XReg) (a : XReg) (disp : BitVec 24) (tok : BitVec 3)
  /-- Untimed global store of a word. (R175) -/
  | stg32 (d : XReg) (a : XReg) (disp : BitVec 24) (tok : BitVec 3)
  /-- Untimed global store of a double word. (R175) -/
  | stg64 (d : XReg) (a : XReg) (disp : BitVec 24) (tok : BitVec 3)
  /-- Global atomic add on a word. (R176) -/
  | aaddG32 (d : XReg) (a : XReg) (b : XReg) (disp : BitVec 24) (tok : BitVec 3)
  /-- Global atomic swap on a word. (R176) -/
  | aswpG32 (d : XReg) (a : XReg) (b : XReg) (disp : BitVec 24) (tok : BitVec 3)
  /-- Global atomic and on a word. (R176) -/
  | aandG32 (d : XReg) (a : XReg) (b : XReg) (disp : BitVec 24) (tok : BitVec 3)
  /-- Global atomic or on a word. (R176) -/
  | aorG32 (d : XReg) (a : XReg) (b : XReg) (disp : BitVec 24) (tok : BitVec 3)
  /-- Global atomic xor on a word. (R176) -/
  | axorG32 (d : XReg) (a : XReg) (b : XReg) (disp : BitVec 24) (tok : BitVec 3)
  /-- Global atomic signed minimum on a word. (R176) -/
  | aminG32 (d : XReg) (a : XReg) (b : XReg) (disp : BitVec 24) (tok : BitVec 3)
  /-- Global atomic signed maximum on a word. (R176) -/
  | amaxG32 (d : XReg) (a : XReg) (b : XReg) (disp : BitVec 24) (tok : BitVec 3)
  /-- Global atomic unsigned minimum on a word. (R176) -/
  | aminuG32 (d : XReg) (a : XReg) (b : XReg) (disp : BitVec 24) (tok : BitVec 3)
  /-- Global atomic unsigned maximum on a word. (R176) -/
  | amaxuG32 (d : XReg) (a : XReg) (b : XReg) (disp : BitVec 24) (tok : BitVec 3)
  /-- Global atomic compare-and-swap on a word. (R176) -/
  | acasG32 (d : XReg) (a : XReg) (b : XReg) (disp : BitVec 24) (tok : BitVec 3)
  /-- Global atomic add on a double word. (R176) -/
  | aaddG64 (d : XReg) (a : XReg) (b : XReg) (disp : BitVec 24) (tok : BitVec 3)
  /-- Global atomic swap on a double word. (R176) -/
  | aswpG64 (d : XReg) (a : XReg) (b : XReg) (disp : BitVec 24) (tok : BitVec 3)
  /-- Global atomic and on a double word. (R176) -/
  | aandG64 (d : XReg) (a : XReg) (b : XReg) (disp : BitVec 24) (tok : BitVec 3)
  /-- Global atomic or on a double word. (R176) -/
  | aorG64 (d : XReg) (a : XReg) (b : XReg) (disp : BitVec 24) (tok : BitVec 3)
  /-- Global atomic xor on a double word. (R176) -/
  | axorG64 (d : XReg) (a : XReg) (b : XReg) (disp : BitVec 24) (tok : BitVec 3)
  /-- Global atomic signed minimum on a double word. (R176) -/
  | aminG64 (d : XReg) (a : XReg) (b : XReg) (disp : BitVec 24) (tok : BitVec 3)
  /-- Global atomic signed maximum on a double word. (R176) -/
  | amaxG64 (d : XReg) (a : XReg) (b : XReg) (disp : BitVec 24) (tok : BitVec 3)
  /-- Global atomic unsigned minimum on a double word. (R176) -/
  | aminuG64 (d : XReg) (a : XReg) (b : XReg) (disp : BitVec 24) (tok : BitVec 3)
  /-- Global atomic unsigned maximum on a double word. (R176) -/
  | amaxuG64 (d : XReg) (a : XReg) (b : XReg) (disp : BitVec 24) (tok : BitVec 3)
  /-- Global atomic compare-and-swap on a double word. (R176) -/
  | acasG64 (d : XReg) (a : XReg) (b : XReg) (disp : BitVec 24) (tok : BitVec 3)
  /-- Arms a sync word with a new TARGET, clearing COUNT and status. (R99) -/
  | swset (a : XReg) (b : XReg)
  /-- Waits until token k's PEND is 0, trapping on its error. (R94) -/
  | waitK (k : BitVec 5)
  /-- Waits until a sync word reaches the expected generation. (R179) -/
  | waitG (a : XReg) (b : XReg)
  /-- Orders the strand's accesses at a scope by kind rel, acq or full. (R106) -/
  | fence (c : BitVec 3) (k : BitVec 2)
  /-- Sends a promotion request to a die slot, counted on a token. (R116) -/
  | afence (t : BitVec 3) (l : BitVec 6)
  /-- Makes the team's barrier arrival for a group. (R183) -/
  | barr (g : BitVec 8)
  /-- Waits until the team's pending arrival is released and writes its status. (R184) -/
  | barw (g : BitVec 8) (d : XReg)
  /-- Arrives at a barrier and waits for its release in one group. (R184) -/
  | barrw (g : BitVec 8) (d : XReg)
  /-- Closes a segment in strict mode, checking its stamp against STICK. (R30) -/
  | anchor (i : BitVec 20)
  /-- Checkpoint; diverts to the drain stub when a pre-emption request is pending, or closes a stub. (R186) -/
  | chkpt (n : BitVec 20)
  /-- Enqueues the X command of its second word on a die queue. (R187) -/
  | enq (a : XReg) (x : XWord)
  /-- Waits until the team's queues and untimed work are empty. (R46) -/
  | drain
  /-- Drains and then ends the strand. (R46) -/
  | retire
  /-- Waits until FTIME reaches xa. (R189) -/
  | twait (a : XReg)
  /-- Waits until WTICK reaches xa. (R189) -/
  | waitw (a : XReg)
  /-- Reads a special register into xd at t+1. (R190) -/
  | csrr (d : XReg) (r : BitVec 12)
  /-- Writes xd to a special register, effective at t+1. (R190) -/
  | csrw (d : XReg) (r : BitVec 12)
  /-- Loads rows of a vector register from the scratchpad and sets its tag. (R201) -/
  | vld (v : VRegNo) (a : XReg) (t : Tag) (disp : BitVec 20) (nr : BitVec 4)
  /-- Stores rows of a vector register to the scratchpad. (R201) -/
  | vst (v : VRegNo) (a : XReg) (disp : BitVec 20) (nr : BitVec 4)
  /-- Loads a mask register. (R202) -/
  | kld (k : KRegNo) (a : XReg) (disp : BitVec 20)
  /-- Stores a mask register. (R202) -/
  | kst (k : KRegNo) (a : XReg) (disp : BitVec 20)
  /-- Loads a block-scale register. (R202) -/
  | bld (c : BRegNo) (a : XReg) (disp : BitVec 20)
  /-- Stores a block-scale register. (R202) -/
  | bst (c : BRegNo) (a : XReg) (disp : BitVec 20)
  /-- Untimed global load of a whole vector register under a token. (R203) -/
  | vldg (v : VRegNo) (a : XReg) (t : Tag) (disp : BitVec 24) (tok : BitVec 3)
  /-- Untimed global store of a whole vector register under a token. (R203) -/
  | vstg (v : VRegNo) (a : XReg) (disp : BitVec 24) (tok : BitVec 3)
  /-- Copies a vector register under a mask. (R204) -/
  | vmov (d : VRegNo) (a : VRegNo) (c : Option KRegNo)
  /-- Selects slots from two registers by a mask selector. (R204) -/
  | vsel (d : VRegNo) (a : VRegNo) (b : VRegNo) (k : Option KRegNo)
  /-- Replicates a scalar into every slot and sets the tag. (R204) -/
  | vsplat (v : VRegNo) (a : XReg) (t : Tag)
  /-- Inserts a scalar into one slot or element. (R204) -/
  | vins (v : VRegNo) (a : XReg) (b : XReg)
  /-- Extracts one slot or element to a scalar register. (R204) -/
  | vext (v : VRegNo) (a : XReg) (b : XReg)
  /-- Bitwise and of slots. (R205) -/
  | vand (d : VRegNo) (a : VRegNo) (b : VRegNo) (c : Option KRegNo)
  /-- Bitwise or of slots. (R205) -/
  | vor (d : VRegNo) (a : VRegNo) (b : VRegNo) (c : Option KRegNo)
  /-- Bitwise xor of slots. (R205) -/
  | vxor (d : VRegNo) (a : VRegNo) (b : VRegNo) (c : Option KRegNo)
  /-- Bitwise not of slots. (R205) -/
  | vnot (d : VRegNo) (a : VRegNo) (c : Option KRegNo)
  /-- Per-element left shift. (R205) -/
  | vsll (d : VRegNo) (a : VRegNo) (b : VRegNo) (c : Option KRegNo)
  /-- Per-element logical right shift. (R205) -/
  | vsrl (d : VRegNo) (a : VRegNo) (b : VRegNo) (c : Option KRegNo)
  /-- Per-element arithmetic right shift. (R205) -/
  | vsra (d : VRegNo) (a : VRegNo) (b : VRegNo) (c : Option KRegNo)
  /-- Floating-point elementwise addition rounded once. (R206) -/
  | vadd (d : VRegNo) (a : VRegNo) (b : VRegNo) (c : Option KRegNo) (pfx : Option Prefix)
  /-- Floating-point elementwise subtraction. (R206) -/
  | vsub (d : VRegNo) (a : VRegNo) (b : VRegNo) (c : Option KRegNo) (pfx : Option Prefix)
  /-- Floating-point elementwise multiplication. (R206) -/
  | vmul (d : VRegNo) (a : VRegNo) (b : VRegNo) (c : Option KRegNo) (pfx : Option Prefix)
  /-- Fused multiply-add va × vb + vd. (R206) -/
  | vfma (d : VRegNo) (a : VRegNo) (b : VRegNo) (c : Option KRegNo) (pfx : Option Prefix)
  /-- Fused vd − va × vb. (R206) -/
  | vfms (d : VRegNo) (a : VRegNo) (b : VRegNo) (c : Option KRegNo) (pfx : Option Prefix)
  /-- Elementwise minimumNumber. (R206) -/
  | vmin (d : VRegNo) (a : VRegNo) (b : VRegNo) (c : Option KRegNo) (pfx : Option Prefix)
  /-- Elementwise maximumNumber. (R206) -/
  | vmax (d : VRegNo) (a : VRegNo) (b : VRegNo) (c : Option KRegNo) (pfx : Option Prefix)
  /-- Elementwise division. (R206) -/
  | vdiv (d : VRegNo) (a : VRegNo) (b : VRegNo) (c : Option KRegNo) (pfx : Option Prefix)
  /-- Elementwise square root. (R206) -/
  | vsqrt (d : VRegNo) (a : VRegNo) (c : Option KRegNo) (pfx : Option Prefix)
  /-- Elementwise reciprocal square root rounded once. (R206) -/
  | vrsqrt (d : VRegNo) (a : VRegNo) (c : Option KRegNo) (pfx : Option Prefix)
  /-- Integer elementwise addition. (R208) -/
  | viadd (d : VRegNo) (a : VRegNo) (b : VRegNo) (c : Option KRegNo) (pfx : Option Prefix)
  /-- Integer elementwise subtraction. (R208) -/
  | visub (d : VRegNo) (a : VRegNo) (b : VRegNo) (c : Option KRegNo) (pfx : Option Prefix)
  /-- Integer elementwise multiplication, low bits. (R208) -/
  | vimul (d : VRegNo) (a : VRegNo) (b : VRegNo) (c : Option KRegNo) (pfx : Option Prefix)
  /-- Integer multiply-add va × vb + vd. (R208) -/
  | vimad (d : VRegNo) (a : VRegNo) (b : VRegNo) (c : Option KRegNo) (pfx : Option Prefix)
  /-- Signed elementwise minimum. (R208) -/
  | vimin (d : VRegNo) (a : VRegNo) (b : VRegNo) (c : Option KRegNo) (pfx : Option Prefix)
  /-- Signed elementwise maximum. (R208) -/
  | vimax (d : VRegNo) (a : VRegNo) (b : VRegNo) (c : Option KRegNo) (pfx : Option Prefix)
  /-- Unsigned elementwise minimum. (R208) -/
  | viminu (d : VRegNo) (a : VRegNo) (b : VRegNo) (c : Option KRegNo) (pfx : Option Prefix)
  /-- Unsigned elementwise maximum. (R208) -/
  | vimaxu (d : VRegNo) (a : VRegNo) (b : VRegNo) (c : Option KRegNo) (pfx : Option Prefix)
  /-- Elementwise absolute value. (R208) -/
  | viabs (d : VRegNo) (a : VRegNo) (c : Option KRegNo) (pfx : Option Prefix)
  /-- Compares for equality into a mask register. (R209) -/
  | vceq (k : KRegNo) (a : VRegNo) (b : VRegNo) (c : Option KRegNo)
  /-- Compares for inequality into a mask register. (R209) -/
  | vcne (k : KRegNo) (a : VRegNo) (b : VRegNo) (c : Option KRegNo)
  /-- Compares less-than into a mask register. (R209) -/
  | vclt (k : KRegNo) (a : VRegNo) (b : VRegNo) (c : Option KRegNo)
  /-- Compares less-or-equal into a mask register. (R209) -/
  | vcle (k : KRegNo) (a : VRegNo) (b : VRegNo) (c : Option KRegNo)
  /-- Compares greater-than into a mask register. (R209) -/
  | vcgt (k : KRegNo) (a : VRegNo) (b : VRegNo) (c : Option KRegNo)
  /-- Compares greater-or-equal into a mask register. (R209) -/
  | vcge (k : KRegNo) (a : VRegNo) (b : VRegNo) (c : Option KRegNo)
  /-- And of two mask registers. (R210) -/
  | kand (d : KRegNo) (a : KRegNo) (b : KRegNo)
  /-- Or of two mask registers. (R210) -/
  | kor (d : KRegNo) (a : KRegNo) (b : KRegNo)
  /-- Xor of two mask registers. (R210) -/
  | kxor (d : KRegNo) (a : KRegNo) (b : KRegNo)
  /-- Not of a mask register. (R210) -/
  | knot (d : KRegNo) (a : KRegNo)
  /-- Counts the set bits of a mask into a scalar. (R210) -/
  | kpop (k : KRegNo) (d : XReg)
  /-- Writes the index of the lowest set mask bit. (R210) -/
  | kffs (k : KRegNo) (d : XReg)
  /-- Converts part of each row to another tag. (R211) -/
  | vcvt (d : VRegNo) (a : VRegNo) (t : Tag) (o : Bool) (g : Bool) (h : BitVec 4) (pfx : Option Prefix)
  /-- Quantises to FP4 blocks with scales and elects outliers into a tile's thimble. (R216) -/
  | vqnt (d : VRegNo) (a : VRegNo) (b : VRegNo) (c : BRegNo) (pfx : Option Prefix)
  /-- Dequantises FP4 blocks with scales and thimble to F32. (R218) -/
  | vdqnt (d : VRegNo) (a : VRegNo) (b : VRegNo) (c : BRegNo) (pfx : Option Prefix)
  /-- Converts floating-point elements to LNS32. (R223) -/
  | vtolns (d : VRegNo) (a : VRegNo) (h : Bool) (pfx : Option Prefix)
  /-- Converts LNS32 to a floating-point tag. (R224) -/
  | vfromlns (d : VRegNo) (a : VRegNo) (t : Tag) (h : Bool) (pfx : Option Prefix)
  /-- LNS32 multiplication by adding logarithms. (R225) -/
  | vlmul (d : VRegNo) (a : VRegNo) (b : VRegNo) (pfx : Option Prefix)
  /-- LNS32 division. (R225) -/
  | vldiv (d : VRegNo) (a : VRegNo) (b : VRegNo) (pfx : Option Prefix)
  /-- LNS32 square root. (R225) -/
  | vlsqrt (d : VRegNo) (a : VRegNo) (pfx : Option Prefix)
  /-- LNS32 reciprocal square root. (R225) -/
  | vlrsqrt (d : VRegNo) (a : VRegNo) (pfx : Option Prefix)
  /-- Raises an LNS32 base to a binary32 power. (R226) -/
  | vlpow (d : VRegNo) (a : VRegNo) (b : VRegNo) (pfx : Option Prefix)
  /-- Rotates slots along each row. (R227) -/
  | vrotr (d : VRegNo) (a : VRegNo) (n : BitVec 8)
  /-- Broadcasts one column along each row. (R227) -/
  | vbcr (d : VRegNo) (a : VRegNo) (n : BitVec 8)
  /-- Row-axis pairwise sum written to every slot of the row. (R228) -/
  | vsumr (d : VRegNo) (a : VRegNo) (c : Option KRegNo) (pfx : Option Prefix)
  /-- Row-axis maximum. (R228) -/
  | vmaxr (d : VRegNo) (a : VRegNo) (c : Option KRegNo) (pfx : Option Prefix)
  /-- Row-axis minimum. (R228) -/
  | vminr (d : VRegNo) (a : VRegNo) (c : Option KRegNo) (pfx : Option Prefix)
  /-- Rotates rows down each column. (R227) -/
  | vrotc (d : VRegNo) (a : VRegNo) (n : BitVec 8)
  /-- Broadcasts one row down each column. (R227) -/
  | vbcc (d : VRegNo) (a : VRegNo) (n : BitVec 8)
  /-- Column-axis pairwise sum. (R228) -/
  | vsumc (d : VRegNo) (a : VRegNo) (c : Option KRegNo) (pfx : Option Prefix)
  /-- Column-axis maximum. (R228) -/
  | vmaxc (d : VRegNo) (a : VRegNo) (c : Option KRegNo) (pfx : Option Prefix)
  /-- Column-axis minimum. (R228) -/
  | vminc (d : VRegNo) (a : VRegNo) (c : Option KRegNo) (pfx : Option Prefix)
  /-- Selects bytes from a table of registers by 16-bit indices. (R229) -/
  | vtbl (d : VRegNo) (a : VRegNo) (b : VRegNo) (n : BitVec 3) (h : Bool) (f : BitVec 4)
  /-- Lists set and clear mask slots and writes their counts. (R230) -/
  | vpart (d : VRegNo) (x : XReg) (e : XReg) (k : KRegNo)
  /-- Packs selected units towards element 0 and fills the rest. (R232) -/
  | vcomp (d : VRegNo) (a : VRegNo) (f : BitVec 4) (c : Option KRegNo)
  /-- Spreads packed units back to selected positions. (R232) -/
  | vexpd (d : VRegNo) (a : VRegNo) (f : BitVec 4) (c : Option KRegNo)
  /-- Gathers slots by an index list. (R231) -/
  | vgath (d : VRegNo) (a : VRegNo) (b : VRegNo) (h : Bool)
  /-- Scatters slots by an index list. (R231) -/
  | vscat (d : VRegNo) (a : VRegNo) (b : VRegNo) (h : Bool)
  /-- Configures a stream-operator slot as a kind with parameters. (R235) -/
  | soCfg (v : VRegNo) (a : XReg)
  /-- Creates or removes a route between stream nodes. (R239) -/
  | soRte (a : XReg) (b : XReg)
  /-- Sets an operator slot's throttle. (R240) -/
  | soThr (a : XReg) (b : XReg)
  /-- Sends rows from a register along the endpoint's route. (R242) -/
  | soSend (v : VRegNo) (a : XReg)
  /-- Pops up to 16 rows from the receive queue. (R243) -/
  | soRecv (v : VRegNo) (d : XReg)
  /-- Reads, and optionally clears, an operator slot's status. (R244) -/
  | soStat (d : XReg) (b : XReg)
  /-- Requests the core's array lease. (R252) -/
  | lease (d : XReg)
  /-- Releases or withdraws the array lease. (R252) -/
  | lrel
  /-- Fills a B slot from scratchpad, weight store or global memory. (R253) -/
  | mbld (a : XReg) (b : XReg) (src : BitVec 2) (bs : Bool) (lt : Bool) (t : Tag) (tok : BitVec 3) (grp : BitVec 8) (ge : Bool)
  /-- Streams A rows through a B slot into accumulator rows. (R256) -/
  | mmma (a : XReg) (r : XReg) (bs : Bool) (clr : Bool) (t : Tag) (lat : BitVec 3) (nh : Bool) (ge : Bool) (grp : BitVec 8) (hd : BitVec 8) (pfx : Option Prefix)
  /-- Loads a latent descriptor into the latent register. (R255) -/
  | mlat (a : XReg) (disp : BitVec 32)
  /-- Zeroes accumulator rows and sets their tag. (R260) -/
  | mzero (r : XReg) (t : Tag)
  /-- Converts accumulator rows and writes them to the scratchpad. (R261) -/
  | mread (a : XReg) (r : XReg) (t : Tag) (o : Bool) (g : Bool) (pfx : Option Prefix)
  /-- Copies scratchpad rows into accumulator rows bit for bit. (R260) -/
  | mwrite (a : XReg) (r : XReg) (t : Tag)
  /-- Scales accumulator rows by per-column binary32 scales. (R260) -/
  | mscale (a : XReg) (r : XReg) (pfx : Option Prefix)
  /-- Marks the array's current tile for the cuff. (R262) -/
  | mtile (r : XReg) (f : Bool)
  /-- Reads the progress record of the core's last mmma. (R263) -/
  | mprog (d : XReg)
  /-- Sends a base-die GEMV to the NB die holding B. (R266) -/
  | mgemv (b : XReg) (x : XReg) (y : XReg) (sw : XReg) (t : Tag) (kc : BitVec 12) (mm : BitVec 16) (pfx : Option Prefix)
  /-- Reads, and optionally clears, the core's array status. (R264) -/
  | mstat (d : XReg) (c : Bool)
  /-- Enqueues an embedding gather with optional pooling. (R298) -/
  | gemb (d : XReg) (a : XReg) (b : XReg) (et : BitVec 3) (pool : BitVec 2) (zm1 : BitVec 11) (nm1 : BitVec 16)
  /-- Ands two bitmaps and counts the set bits. (R290) -/
  | gbmand (d : XReg) (a : XReg) (b : XReg)
  /-- Writes prefix popcounts of a bitmap. (R290) -/
  | gpopx (d : XReg) (a : XReg) (b : XReg)
  /-- Enqueues a dot product of two bitmap-compressed vectors on the intersect unit. (R291) -/
  | gisect (d : XReg) (a : XReg) (b : XReg) (c : XReg)
  /-- Scatter-adds binary32 values into a scratchpad table. (R293) -/
  | gscadd (v : VRegNo) (w : VRegNo) (a : XReg) (b : XReg)
  /-- Counts indices into scratchpad bins. (R294) -/
  | ghist (w : VRegNo) (a : XReg) (b : XReg)
  /-- Selects the k largest values and their slots. (R295) -/
  | gtopk (v : VRegNo) (w : VRegNo) (b : XReg)
  /-- Stable sort of 1,024 keys with their slot numbers. (R296) -/
  | gsortk (v : VRegNo) (w : VRegNo) (g : Bool)
  /-- Writes an embedding table register. (R297) -/
  | gcfg (a : XReg) (b : XReg)
  /-- Reads, and optionally clears, the core's G status. (R299) -/
  | gstat (d : XReg) (c : Bool)
  /-- Copies bytes between engine addresses, timed in class 00. (R306) -/
  | copy (d : XReg) (a : XReg) (b : XReg)
  /-- One link of a chained copy with fold checksum. (R309) -/
  | copyc (d : XReg) (a : XReg) (b : XReg)
  /-- Writes the fold checksum of a region. (R308) -/
  | csum (d : XReg) (a : XReg) (b : XReg)
  /-- Fills bytes with a repeated 8-byte pattern. (R306) -/
  | fill (d : XReg) (a : XReg) (b : XReg)
  /-- Flips the pair bits of listed brim entries at a broadcast tick. (R310) -/
  | publish (d : XReg) (a : XReg) (b : XReg)
  /-- Touches lines of a virtual range as a hint. (R311) -/
  | prefetch (a : XReg) (b : XReg)
  /-- Records a migration request in the FB log. (R312) -/
  | migr (d : XReg) (a : XReg) (b : XReg)
  /-- Collective reduction to a root or every member. (R314) -/
  | cred (d : XReg) (a : XReg) (b : XReg)
  /-- Collective reduce-scatter. (R314) -/
  | crs (d : XReg) (a : XReg) (b : XReg)
  /-- Collective all-gather. (R314) -/
  | cag (d : XReg) (a : XReg) (b : XReg)
  /-- Collective broadcast from a root. (R314) -/
  | cbc (d : XReg) (a : XReg) (b : XReg)
  /-- Collective all-to-all. (R314) -/
  | ca2a (d : XReg) (a : XReg) (b : XReg)
  /-- Writes a fabric group's view record and member bitmap. (R316) -/
  | viewRd (d : XReg) (a : XReg) (b : XReg)
  /-- Sends the joiner's acknowledgement of a new view. (R317) -/
  | viewAck (a : XReg) (b : XReg)
  /-- Sends a JOIN request for the group. (R317) -/
  | viewJoin (a : XReg) (b : XReg)
  /-- Admits a rank with a pending JOIN at the coordinator. (R317) -/
  | viewAdm (d : XReg) (a : XReg) (b : XReg)
  /-- Writes a queue's 32-byte status. (R318) -/
  | xstat (d : XReg) (a : XReg) (b : XReg)
  /-- Write of SYNCMASK, effective for all four strands at t+1, lowest cluster winning. (R26) -/
  | syncmaskWrite (strand : Nat) (val : BitVec 64)
  /-- Write of FLAGS, replacing earlier bits and ORing bits raised at t+1. (R68) -/
  | flagsWrite (strand : Nat) (val : BitVec 64)
  /-- Write of the default rounding mode, with 000 and 111 stored as 001. (R65) -/
  | rndmWrite (strand : Nat) (val : BitVec 64)
  /-- Write of the stochastic-rounding state, with 0 stored as 1. (R65) -/
  | srseedWrite (strand : Nat) (val : BitVec 64)
  /-- Write of LCn, LSn or LEn, checked for loop nesting. (R170) -/
  | loopRegisterWrite (strand : Nat) (num : BitVec 12) (val : BitVec 64)
  /-- Supervisor write of the kernel register selected by KXSEL, landing at t+1. (R358) -/
  | kxvalWrite (strand : Nat) (n : XReg) (val : BitVec 64)
  /-- KEND write with bit 0 clear ends the partition's kernel with KERNEL_ENDED. (R367) -/
  | kernelEnd (part : Nat)
  /-- KEND write with bit 0 set restarts from the last stop or ends with KERNEL_LINING. (R410) -/
  | kernelRestart (part : Nat)
  /-- Write of 1 to SDBG.RES ends a partition freeze and enters the brk trap. (R376) -/
  | sdbgResume (part : Nat)
  /-- Write of GWCTL.GO starts a graph context at NODE. (R353) -/
  | graphContextStart (ctx : Nat)
  /-- Write of any register without a row of its own, ignored for RO fields and clearing W1C bits. (R190) -/
  | registerWrite (strand : Nat) (num : BitVec 12) (val : BitVec 64)
  /-- An 8-byte doorbell write submits a launch packet into the queue of its priority. (R342) -/
  | launchSubmit (part : Nat) (addr : BitVec 64) (ctx : Option Nat)
  /-- An idle partition selects a launch among the queue heads by age and priority. (R344) -/
  | launchSelect (part : Nat)
  /-- The partition master broadcasts go once every die has completed the launch steps. (R348) -/
  | goBroadcast (part : Nat)
  /-- T0 falls 64 wall ticks after go and every strand begins its schedule. (R30) -/
  | kernelT0 (part : Nat)
  /-- A die sends its anchor ready report once its strands issued the anchor and due work completed. (R33) -/
  | readyReport (part : Nat) (slot : Nat)
  /-- At t_a + 48 the partition master judges whether the anchor needs a hold. (R33) -/
  | anchorDeadline (part : Nat)
  /-- A hold ends and schedule-tick counters resume. (R34) -/
  | holdEnd (part : Nat)
  /-- The lock-step bundle issues once every member has an S = 1 group ready. (R28) -/
  | syncRendezvous (core : Nat)
  /-- A waiting token reaches PEND 0 and the strand proceeds or traps on ERR. (R94) -/
  | tokenWaitSatisfied (strand : Nat)
  /-- A watched sync word reaches the expected generation. (R100) -/
  | syncWaitSatisfied (strand : Nat)
  /-- A drain or retire finds the team's queues and untimed work empty; retire ends the strand. (R46) -/
  | drainSatisfied (strand : Nat)
  /-- FTIME or WTICK reaches the waited value. (R189) -/
  | timeWaitSatisfied (strand : Nat)
  /-- An untimed access completes, landing its data and decrementing its token, in error if it failed. (R92) -/
  | untimedCompletion (id : Nat)
  /-- A freed queue entry or credit is given to a blocked requester. (R350) -/
  | spaceBlockRelease (strand : Nat)
  /-- A team's arrival reaches the barrier and may complete the phase. (R44) -/
  | barrierArrival (part : Nat) (grp : Nat) (team : Nat) (phase : Nat)
  /-- An engine fault tied to a group completes its barrier in the error phase. (R45) -/
  | barrierErrorCompletion (part : Nat) (grp : Nat) (code : Nat)
  /-- A release reaches a member die, setting local phase, status and PENDING. (R183) -/
  | barrierRelease (part : Nat) (grp : Nat) (team : Nat) (phase : Nat) (err : Bool) (code : Nat)
  /-- A die's counter reaches 0, writing its event and decrementing the crown. (R47) -/
  | dieCompletion (slot : Nat)
  /-- A free array grants its lease to the first pending core in lease order. (R349) -/
  | leaseGrant (slot : Nat) (arr : Nat)
  /-- A lease expires after 32 commands or 8,192 ticks, or is renewed in queued mode. (R252) -/
  | leaseExpiry (core : Nat)
  /-- An array command starts on its channel at its start tick and lands its effects. (R250) -/
  | arrayCommandStart (slot : Nat) (arr : Nat) (load : Bool)
  /-- In queued mode a deferred weight-store read resumes when its refresh window closes. (R254) -/
  | refreshWaitEnd (slot : Nat) (arr : Nat) (load : Bool)
  /-- The intersect unit starts the next gisect of its queues. (R292) -/
  | intersectStart (slot : Nat) (iunit : Nat)
  /-- An engine begins the next command of its queue. (R305) -/
  | engineCommandStart (slot : Nat) (queue : Nat)
  /-- An engine command's effects are visible and its report made; it leaves the queue. (R305) -/
  | engineCommandComplete (slot : Nat) (queue : Nat)
  /-- An arrival of bytes is applied to a sync word, advancing generations. (R99) -/
  | syncWordArrival (core : Nat) (off : Nat) (bytes : Nat) (err : Bool) (code : Nat)
  /-- A stream row arrives at an operator port or receive queue 2 ticks after leaving. (R241) -/
  | streamRowAccept (slot : Nat) (node : Nat) (port : Nat) (tag : Tag) (row : BitVec 2048)
  /-- An operator instance emits its output rows after its latency, returning credits. (R236) -/
  | operatorEmit (slot : Nat) (node : Nat)
  /-- A publish request reaches the partition master, which fixes its broadcast tick. (R118) -/
  | publishRequest (part : Nat) (slot : Nat) (queue : Nat) (vas : List Nat)
  /-- At the broadcast tick the pair bits of the listed entries flip on every die. (R118) -/
  | publishFlip (part : Nat) (slot : Nat) (queue : Nat) (vas : List Nat)
  /-- An afence request reaches its die and promotes earlier die-scope releases. (R116) -/
  | afencePromotion (strand : Nat) (tok : Nat) (slot : Nat)
  /-- A pre-emption request becomes pending at an anchor's release tick or 48 ticks after broadcast. (R370) -/
  | preemptPending (part : Nat)
  /-- A stub's closing chkpt finishes its drain and parks the strand. (R372) -/
  | strandPark (strand : Nat)
  /-- Every strand has parked or retired; each die saves its context. (R374) -/
  | stopComplete (part : Nat)
  /-- When every restore stub has parked, the master broadcasts go and resume addresses issue 64 ticks later. (R375) -/
  | resumeGo (part : Nat)
  /-- After a commit, strands of the group take the view-change trap at an anchor or explicit wait. (R280) -/
  | viewChangeTrap (strand : Nat) (grp : Nat)
  /-- Every 2 µs each link sends a heartbeat flit with identity and clock state. (R273) -/
  | heartbeatSend (slot : Nat)
  /-- A heartbeat arrives, refreshing the peer and checking its clock state. (R273) -/
  | heartbeatReceive (pkg : Nat) (clock : ClockState)
  /-- No heartbeat for 20 µs marks the peer package suspect. (R273) -/
  | heartbeatTimeout (pkg : Nat)
  /-- A collective packet is discarded, matched or held by view number. (R270) -/
  | collectivePacket (part : Nat) (grp : Nat) (sender : Nat) (view : BitVec 32) (seq : BitVec 32) (data : List (BitVec 8))
  /-- A peer's NAK for a collective packet marks it suspect. (R273) -/
  | collectiveNak (part : Nat) (grp : Nat) (pkg : Nat)
  /-- At TSTART the engine begins sending a collective's data. (R314) -/
  | collectiveStart (slot : Nat) (queue : Nat)
  /-- A time-triggered delivery not complete by τ + FLAT + 2σ makes the sender suspect. (R285) -/
  | ttDeliveryDeadline (part : Nat) (grp : Nat) (seq : BitVec 32) (sender : Nat)
  /-- A SUSPECT message reaches the coordinator, which proposes a new view. (R274) -/
  | suspect (part : Nat) (grp : Nat) (view : BitVec 32) (ranks : List Nat)
  /-- A PROPOSE reaches a rank, which holds collectives and sends ACCEPT. (R275) -/
  | propose (part : Nat) (grp : Nat) (view : BitVec 32) (members : List Nat) (proposer : Nat)
  /-- An ACCEPT reaches the proposer, which commits on a quorum. (R275) -/
  | accept (part : Nat) (grp : Nat) (view : BitVec 32) (rank : Nat) (cfront : BitVec 32) (afront : BitVec 32)
  /-- A COMMIT reaches a rank, which commits or enters LOST. (R275) -/
  | commit (part : Nat) (grp : Nat) (view : BitVec 32) (members : List Nat) (cfront : BitVec 32) (afront : BitVec 32)
  /-- A JOIN request reaches the coordinator and stays pending. (R282) -/
  | join (part : Nat) (grp : Nat) (rank : Nat) (pkg : Nat)
  /-- A joiner's acknowledgement arrives, releasing held collectives of the new view. (R282) -/
  | joinAck (part : Nat) (grp : Nat) (rank : Nat)
  /-- 100 µs without a quorum marks non-responders suspect and re-proposes or enters LOST. (R275) -/
  | proposeTimeout (part : Nat) (grp : Nat)
  /-- 200 µs in CHANGING without COMMIT marks the proposer suspect. (R275) -/
  | commitTimeout (part : Nat) (grp : Nat)
  /-- One-step PTP Sync message on a fabric port. (R284) -/
  | ptpSync (port : Nat) (origin : BitVec 64)
  /-- PTP peer-delay request on a fabric port. (R284) -/
  | ptpPdelayReq (port : Nat)
  /-- PTP peer-delay response on a fabric port. (R284) -/
  | ptpPdelayResp (port : Nat) (delay : Nat)
  /-- PTP Announce message for best master clock selection. (R284) -/
  | ptpAnnounce (port : Nat) (gm : ClockSet) (steps : Nat)
  /-- A package loses its time source and its servo enters HOLDOVER. (R283) -/
  | timeSourceLoss
  /-- After 1 ms in HOLDOVER the servo reports FREE. (R283) -/
  | holdoverExpiry
  /-- A forwarded line request reaches the owner, which walks and serves it. (R388) -/
  | lineRequest (part : Nat) (va : Nat) (kind : LineOp) (data : List (BitVec 8)) (len : Nat) (ident : Nat)
  /-- No response 100 µs after a line request fails it with 0x0404. (R389) -/
  | lineRequestTimeout (id : Nat)
  /-- A host CXL.io or CXL.mem access to an LD window or register BAR. (R393) -/
  | hostAccess (slot : Nat) (win : HostWindow) (off : Nat) (write : Bool) (data : List (BitVec 8)) (len : Nat)
  /-- A table rewrite not drained in 2^20 ticks raises the table-drain machine check. (R395) -/
  | tableDrainTimeout (part : Nat)
  /-- The runtime directs the FB migration engine to move paired pages between tiers. (R396) -/
  | migrationDirect (slot : Nat) (part : Nat) (va : Nat) (desc : BitVec 64)
  /-- The migration request log is cleared through the FB register BAR. (R396) -/
  | migrationLogClear (slot : Nat)
  /-- The host binds a die's LD to a virtual hierarchy, binding it to a partition. (R390) -/
  | bindLd (slot : Nat) (part : Nat)
  /-- The host unbinds a die's LD. (R390) -/
  | unbindLd (slot : Nat)
  /-- A deferred SW die reset takes effect at the next anchor or kernel end, recomputing routes. (R398) -/
  | swResetApply (slot : Nat)
  /-- The 2^24-tick limit forces the reset and raises route-lost machine checks. (R398) -/
  | swResetLimit (slot : Nat)
  /-- Background scrub reads a coded word and corrects, rebuilds or poisons it. (R404) -/
  | scrubStep (slot : Nat)
  /-- A corrected or rebuilt word is written back in the bank's next idle cycle. (R402) -/
  | writebackRetire (slot : Nat)
  /-- A seam beat fails its CRC and is resent; eight in a row mark the seam failed. (R405) -/
  | seamCrcFailure (a : Nat) (b : Nat)
  /-- A bound die stops responding and reads failed in the mix register. (R413) -/
  | dieLost (slot : Nat)
  /-- A write of the current SEQ to the acknowledge word clears the error bank. (R411) -/
  | errorBankAck (slot : Nat) (seq : Nat)
  /-- Package reset runs boot from ROM verification to host-port release. (R417) -/
  | packageReset
  /-- Management command returning boot step, bank, recovery, mode and freeze state. (R421) -/
  | status
  /-- Management command with argument 0 resetting the package. (R421) -/
  | reset
  /-- Management RESET with argument 0x100 + slot resetting one die, deferred for SW dies. (R421) -/
  | dieReset (slot : Nat)
  /-- Stops every clock of the package at one wall tick. (R422) -/
  | freeze
  /-- Resumes every clock and restarts the servo in ACQUIRING. (R422) -/
  | thaw
  /-- Reads 4 KiB of frozen state. (R422) -/
  | readout (key : Nat)
  /-- Debugger write to frozen state. (R421) -/
  | write (key : Nat) (data : List (BitVec 8))
  /-- Sets an unbound die's health to withdrawn. (R419) -/
  | withdraw (slot : Nat)
  /-- Sets an unbound die's health to good. (R419) -/
  | restore (slot : Nat)
  /-- Requests a power mode switch. (R424) -/
  | setmode (mode : PowerMode)
  /-- The requested mode switch takes place once no partition runs a kernel. (R424) -/
  | modeSwitch
  /-- Returns a die's ageing record. (R423) -/
  | ageing (slot : Nat)
  /-- Each die updates its ageing record every 2^32 wall ticks. (R423) -/
  | ageingUpdate (slot : Nat)
  /-- Management command ending a partition breakpoint freeze. (R421) -/
  | resume (part : Nat)
  /-- Writes 4 KiB of flash. (R421) -/
  | flashwr (off : Nat) (data : List (BitVec 8))
  /-- Reads 4 KiB of flash. (R421) -/
  | flashrd (off : Nat)
  /-- An MCTP control message on the management port. (R421) -/
  | mctpControl (cmd : Nat)
  /-- SPDM request for supported versions. (R420) -/
  | getVersion (doe : Bool)
  /-- SPDM request for capabilities. (R420) -/
  | getCapabilities (doe : Bool)
  /-- SPDM algorithm negotiation, Ed25519 and SHA-384. (R420) -/
  | negotiateAlgorithms (doe : Bool)
  /-- SPDM request for certificate digests. (R420) -/
  | getDigests (doe : Bool)
  /-- SPDM request for the certificate chain of slot 0. (R420) -/
  | getCertificate (doe : Bool) (certSlot : Nat) (off : Nat) (len : Nat)
  /-- SPDM challenge signed with SW0's die key. (R420) -/
  | challenge (doe : Bool) (nonce : List (BitVec 8))
  /-- SPDM request for the numbered measurements. (R420) -/
  | getMeasurements (doe : Bool) (index : Nat)
  /-- An FB die enters LPDDR6 self-refresh after 2^20 idle wall ticks. (R394) -/
  | selfRefreshEntry (slot : Nat)
  /-- Graph END node stops the context and raises ENDV. (R354) -/
  | endNode (ctx : Nat)
  /-- Graph LAUNCH node submits a packet and optionally waits for completion. (R354) -/
  | launchNode (ctx : Nat)
  /-- Graph WAITV node waits for a masked comparison to hold. (R354) -/
  | waitvNode (ctx : Nat)
  /-- A WAITV node's timeout expires and the context goes to ALT. (R354) -/
  | waitvTimeout (ctx : Nat)
  /-- Graph COND node branches on a masked word. (R354) -/
  | condNode (ctx : Nat)
  /-- Graph WHILE node repeats its body up to LIMIT. (R354) -/
  | whileNode (ctx : Nat)
  /-- Graph SIGNAL node stores a value. (R354) -/
  | signalNode (ctx : Nat)
  /-- Graph XFER node enqueues an X command and optionally waits. (R354) -/
  | xferNode (ctx : Nat)
  /-- Graph HOST node raises a host vector. (R354) -/
  | hostNode (ctx : Nat)
  /-- A timed write issued earlier lands at its issue tick plus its stated latency, or a scratchpad write becomes visible, applied in the order of R83. (R137) -/
  | timedWriteLanding (part : Nat)
  /-- After copying a paired page, the FB migration engine flips its P bit on every die at one broadcast tick and admits the requests that waited on the page. (R396) -/
  | migrationPageFlip (slot : Nat)
  deriving DecidableEq, Repr

end Sys2Proof
end

