-- ==== Sys2Proof/WellFormed.lean ====
section
/-! DEFINITION. Well-formedness: the values that the encoding chapters reserve (order 7 of R136) and that the operand
types of `Instr` do not already shut out. `Instr.wf` is what decoding checks of an instruction after its fields are
pulled out; an ill-formed instruction raises the reserved-encoding trap. -/
namespace Sys2Proof

/-- The classes of R144, with the stream operators apart (they decode only on V-cores, R233). -/
inductive InstrClass where
  | control | vector | stream | matrix | gather | transfer | event
  deriving DecidableEq, Repr

/-- The class of a row (R144-R148); `event` for the rows that no word encodes. -/
def Instr.cls : Instr → InstrClass
  | .nop | .trap _ | .brk _ | .sret | .wcinv | .add _ _ _ _ | .sub _ _ _ _ | .and _ _ _ | .or _ _ _ | .xor _ _ _
  | .andn _ _ _ | .sll _ _ _ | .srl _ _ _ | .sra _ _ _ | .slt _ _ _ | .sltu _ _ _ | .min _ _ _ | .max _ _ _
  | .minu _ _ _ | .maxu _ _ _ | .mul _ _ _ _ | .mulh _ _ _ | .mulhu _ _ _ | .div _ _ _ | .divu _ _ _ | .rem _ _ _
  | .remu _ _ _ | .addi _ _ _ _ | .andi _ _ _ | .ori _ _ _ | .xori _ _ _ | .slti _ _ _ | .sltiu _ _ _ | .slli _ _ _
  | .srli _ _ _ | .srai _ _ _ | .lui _ _ | .li _ _ | .lih _ _ | .adpc _ _ | .bextZ _ _ _ | .bextS _ _ _
  | .bins _ _ _ | .bextiZ _ _ _ _ | .bextiS _ _ _ _ | .binsi _ _ _ _ | .clz _ _ | .ctz _ _ | .popc _ _ | .brev _ _
  | .shadd1 _ _ _ | .shadd2 _ _ _ | .shadd3 _ _ _ | .beq _ _ _ | .bne _ _ _ | .blt _ _ _ | .bge _ _ _ | .bltu _ _ _
  | .bgeu _ _ _ | .jmp _ | .call _ | .jr _ | .callr _ | .ret | .loop _ _ _ | .loopi _ _ _ | .ldS8 _ _ _
  | .ldZ8 _ _ _ | .ldS16 _ _ _ | .ldZ16 _ _ _ | .ldS32 _ _ _ | .ldZ32 _ _ _ | .ld64 _ _ _ | .st8 _ _ _
  | .st16 _ _ _ | .st32 _ _ _ | .st64 _ _ _ | .aadd8 _ _ _ | .aswp8 _ _ _ | .aand8 _ _ _ | .aor8 _ _ _
  | .axor8 _ _ _ | .amin8 _ _ _ | .amax8 _ _ _ | .aminu8 _ _ _ | .amaxu8 _ _ _ | .acas8 _ _ _ | .aadd16 _ _ _
  | .aswp16 _ _ _ | .aand16 _ _ _ | .aor16 _ _ _ | .axor16 _ _ _ | .amin16 _ _ _ | .amax16 _ _ _ | .aminu16 _ _ _
  | .amaxu16 _ _ _ | .acas16 _ _ _ | .aadd32 _ _ _ | .aswp32 _ _ _ | .aand32 _ _ _ | .aor32 _ _ _ | .axor32 _ _ _
  | .amin32 _ _ _ | .amax32 _ _ _ | .aminu32 _ _ _ | .amaxu32 _ _ _ | .acas32 _ _ _ | .aadd64 _ _ _ | .aswp64 _ _ _
  | .aand64 _ _ _ | .aor64 _ _ _ | .axor64 _ _ _ | .amin64 _ _ _ | .amax64 _ _ _ | .aminu64 _ _ _ | .amaxu64 _ _ _
  | .acas64 _ _ _ | .ldgS8 _ _ _ _ | .ldgZ8 _ _ _ _ | .ldgS16 _ _ _ _ | .ldgZ16 _ _ _ _ | .ldgS32 _ _ _ _
  | .ldgZ32 _ _ _ _ | .ldg64 _ _ _ _ | .stg8 _ _ _ _ | .stg16 _ _ _ _ | .stg32 _ _ _ _ | .stg64 _ _ _ _
  | .aaddG32 _ _ _ _ _ | .aswpG32 _ _ _ _ _ | .aandG32 _ _ _ _ _ | .aorG32 _ _ _ _ _ | .axorG32 _ _ _ _ _
  | .aminG32 _ _ _ _ _ | .amaxG32 _ _ _ _ _ | .aminuG32 _ _ _ _ _ | .amaxuG32 _ _ _ _ _ | .acasG32 _ _ _ _ _
  | .aaddG64 _ _ _ _ _ | .aswpG64 _ _ _ _ _ | .aandG64 _ _ _ _ _ | .aorG64 _ _ _ _ _ | .axorG64 _ _ _ _ _
  | .aminG64 _ _ _ _ _ | .amaxG64 _ _ _ _ _ | .aminuG64 _ _ _ _ _ | .amaxuG64 _ _ _ _ _ | .acasG64 _ _ _ _ _
  | .swset _ _ | .waitK _ | .waitG _ _ | .fence _ _ | .afence _ _ | .barr _ | .barw _ _ | .barrw _ _ | .anchor _
  | .chkpt _ | .enq _ _ | .drain | .retire | .twait _ | .waitw _ | .csrr _ _ | .csrw _ _ => .control
  | .vld _ _ _ _ _ | .vst _ _ _ _ | .kld _ _ _ | .kst _ _ _ | .bld _ _ _ | .bst _ _ _ | .vldg _ _ _ _ _
  | .vstg _ _ _ _ | .vmov _ _ _ | .vsel _ _ _ _ | .vsplat _ _ _ | .vins _ _ _ | .vext _ _ _ | .vand _ _ _ _
  | .vor _ _ _ _ | .vxor _ _ _ _ | .vnot _ _ _ | .vsll _ _ _ _ | .vsrl _ _ _ _ | .vsra _ _ _ _ | .vadd _ _ _ _ _
  | .vsub _ _ _ _ _ | .vmul _ _ _ _ _ | .vfma _ _ _ _ _ | .vfms _ _ _ _ _ | .vmin _ _ _ _ _ | .vmax _ _ _ _ _
  | .vdiv _ _ _ _ _ | .vsqrt _ _ _ _ | .vrsqrt _ _ _ _ | .viadd _ _ _ _ _ | .visub _ _ _ _ _ | .vimul _ _ _ _ _
  | .vimad _ _ _ _ _ | .vimin _ _ _ _ _ | .vimax _ _ _ _ _ | .viminu _ _ _ _ _ | .vimaxu _ _ _ _ _ | .viabs _ _ _ _
  | .vceq _ _ _ _ | .vcne _ _ _ _ | .vclt _ _ _ _ | .vcle _ _ _ _ | .vcgt _ _ _ _ | .vcge _ _ _ _ | .kand _ _ _
  | .kor _ _ _ | .kxor _ _ _ | .knot _ _ | .kpop _ _ | .kffs _ _ | .vcvt _ _ _ _ _ _ _ | .vqnt _ _ _ _ _
  | .vdqnt _ _ _ _ _ | .vtolns _ _ _ _ | .vfromlns _ _ _ _ _ | .vlmul _ _ _ _ | .vldiv _ _ _ _ | .vlsqrt _ _ _
  | .vlrsqrt _ _ _ | .vlpow _ _ _ _ | .vrotr _ _ _ | .vbcr _ _ _ | .vsumr _ _ _ _ | .vmaxr _ _ _ _ | .vminr _ _ _ _
  | .vrotc _ _ _ | .vbcc _ _ _ | .vsumc _ _ _ _ | .vmaxc _ _ _ _ | .vminc _ _ _ _ | .vtbl _ _ _ _ _ _
  | .vpart _ _ _ _ | .vcomp _ _ _ _ | .vexpd _ _ _ _ | .vgath _ _ _ _ | .vscat _ _ _ _ => .vector
  | .soCfg _ _ | .soRte _ _ | .soThr _ _ | .soSend _ _ | .soRecv _ _ | .soStat _ _ => .stream
  | .lease _ | .lrel | .mbld _ _ _ _ _ _ _ _ _ | .mmma _ _ _ _ _ _ _ _ _ _ _ | .mlat _ _ | .mzero _ _
  | .mread _ _ _ _ _ _ | .mwrite _ _ _ | .mscale _ _ _ | .mtile _ _ | .mprog _ | .mgemv _ _ _ _ _ _ _ _
  | .mstat _ _ => .matrix
  | .gemb _ _ _ _ _ _ _ | .gbmand _ _ _ | .gpopx _ _ _ | .gisect _ _ _ _ | .gscadd _ _ _ _ | .ghist _ _ _
  | .gtopk _ _ _ | .gsortk _ _ _ | .gcfg _ _ | .gstat _ _ => .gather
  | .copy _ _ _ | .copyc _ _ _ | .csum _ _ _ | .fill _ _ _ | .publish _ _ _ | .prefetch _ _ | .migr _ _ _
  | .cred _ _ _ | .crs _ _ _ | .cag _ _ _ | .cbc _ _ _ | .ca2a _ _ _ | .viewRd _ _ _ | .viewAck _ _ | .viewJoin _ _
  | .viewAdm _ _ _ | .xstat _ _ _ => .transfer
  | .syncmaskWrite _ _ | .flagsWrite _ _ | .rndmWrite _ _ | .srseedWrite _ _ | .loopRegisterWrite _ _ _
  | .kxvalWrite _ _ _ | .kernelEnd _ | .kernelRestart _ | .sdbgResume _ | .graphContextStart _
  | .registerWrite _ _ _ | .launchSubmit _ _ _ | .launchSelect _ | .goBroadcast _ | .kernelT0 _ | .readyReport _ _
  | .anchorDeadline _ | .holdEnd _ | .syncRendezvous _ | .tokenWaitSatisfied _ | .syncWaitSatisfied _
  | .drainSatisfied _ | .timeWaitSatisfied _ | .untimedCompletion _ | .spaceBlockRelease _
  | .barrierArrival _ _ _ _ | .barrierErrorCompletion _ _ _ | .barrierRelease _ _ _ _ _ _ | .dieCompletion _
  | .leaseGrant _ _ | .leaseExpiry _ | .arrayCommandStart _ _ _ | .refreshWaitEnd _ _ _ | .intersectStart _ _
  | .engineCommandStart _ _ | .engineCommandComplete _ _ | .syncWordArrival _ _ _ _ _ | .streamRowAccept _ _ _ _ _
  | .operatorEmit _ _ | .publishRequest _ _ _ _ | .publishFlip _ _ _ _ | .afencePromotion _ _ _ | .preemptPending _
  | .strandPark _ | .stopComplete _ | .resumeGo _ | .viewChangeTrap _ _ | .heartbeatSend _ | .heartbeatReceive _ _
  | .heartbeatTimeout _ | .collectivePacket _ _ _ _ _ _ | .collectiveNak _ _ _ | .collectiveStart _ _
  | .ttDeliveryDeadline _ _ _ _ | .suspect _ _ _ _ | .propose _ _ _ _ _ | .accept _ _ _ _ _ _ | .commit _ _ _ _ _ _
  | .join _ _ _ _ | .joinAck _ _ _ | .proposeTimeout _ _ | .commitTimeout _ _ | .ptpSync _ _ | .ptpPdelayReq _
  | .ptpPdelayResp _ _ | .ptpAnnounce _ _ _ | .timeSourceLoss | .holdoverExpiry | .lineRequest _ _ _ _ _ _
  | .lineRequestTimeout _ | .hostAccess _ _ _ _ _ _ | .tableDrainTimeout _ | .migrationDirect _ _ _ _
  | .migrationLogClear _ | .bindLd _ _ | .unbindLd _ | .swResetApply _ | .swResetLimit _ | .scrubStep _
  | .writebackRetire _ | .seamCrcFailure _ _ | .dieLost _ | .errorBankAck _ _ | .packageReset | .status | .reset
  | .dieReset _ | .freeze | .thaw | .readout _ | .write _ _ | .withdraw _ | .restore _ | .setmode _ | .modeSwitch
  | .ageing _ | .ageingUpdate _ | .resume _ | .flashwr _ _ | .flashrd _ | .mctpControl _ | .getVersion _
  | .getCapabilities _ | .negotiateAlgorithms _ | .getDigests _ | .getCertificate _ _ _ _ | .challenge _ _
  | .getMeasurements _ _ | .selfRefreshEntry _ | .endNode _ | .launchNode _ | .waitvNode _ | .waitvTimeout _
  | .condNode _ | .whileNode _ | .signalNode _ | .xferNode _ | .hostNode _ | .timedWriteLanding _
  | .migrationPageFlip _ => .event

/-- Where a class has a meaning (R144): class C everywhere, V on cores, the stream operators on V-cores, M on M-cores,
G on G-cores, X on die sequencers. -/
def InstrClass.runsOn : InstrClass → UnitClass → Bool
  | .control, _ => true
  | .vector, u => u != .seq
  | .stream, u => u == .v
  | .matrix, u => u == .m
  | .gather, u => u == .g
  | .transfer, u => u == .seq
  | .event, _ => false

/-- The words an instruction's LEN must give it (R126, R145-R148): 2 for the majors whose Words column says 2. -/
def Instr.wordCount : Instr → Nat
  | .li _ _ | .lih _ _ | .bextiZ _ _ _ _ | .bextiS _ _ _ _ | .binsi _ _ _ _ | .loop _ _ _ | .loopi _ _ _
  | .ldgS8 _ _ _ _ | .ldgZ8 _ _ _ _ | .ldgS16 _ _ _ _ | .ldgZ16 _ _ _ _ | .ldgS32 _ _ _ _ | .ldgZ32 _ _ _ _
  | .ldg64 _ _ _ _ | .stg8 _ _ _ _ | .stg16 _ _ _ _ | .stg32 _ _ _ _ | .stg64 _ _ _ _ | .aaddG32 _ _ _ _ _
  | .aswpG32 _ _ _ _ _ | .aandG32 _ _ _ _ _ | .aorG32 _ _ _ _ _ | .axorG32 _ _ _ _ _ | .aminG32 _ _ _ _ _
  | .amaxG32 _ _ _ _ _ | .aminuG32 _ _ _ _ _ | .amaxuG32 _ _ _ _ _ | .acasG32 _ _ _ _ _ | .aaddG64 _ _ _ _ _
  | .aswpG64 _ _ _ _ _ | .aandG64 _ _ _ _ _ | .aorG64 _ _ _ _ _ | .axorG64 _ _ _ _ _ | .aminG64 _ _ _ _ _
  | .amaxG64 _ _ _ _ _ | .aminuG64 _ _ _ _ _ | .amaxuG64 _ _ _ _ _ | .acasG64 _ _ _ _ _ | .enq _ _ | .vld _ _ _ _ _
  | .vst _ _ _ _ | .kld _ _ _ | .kst _ _ _ | .bld _ _ _ | .bst _ _ _ | .vldg _ _ _ _ _ | .vstg _ _ _ _
  | .mbld _ _ _ _ _ _ _ _ _ | .mmma _ _ _ _ _ _ _ _ _ _ _ | .mlat _ _ | .mgemv _ _ _ _ _ _ _ _
  | .gemb _ _ _ _ _ _ _ => 2
  | _ => 1

/-- The prefix fields an instruction accepts (R152, R199, R221, R261). -/
structure PfxSet where
  rnd : Bool
  sat : Bool
  neg : Bool
  abs : Bool
  scale : Bool
  deriving DecidableEq, Repr

def PfxSet.all : PfxSet := ⟨true, true, true, true, true⟩
def PfxSet.satOnly : PfxSet := ⟨false, true, false, false, false⟩
def PfxSet.noSat : PfxSet := ⟨true, false, true, true, true⟩
def PfxSet.lns : PfxSet := ⟨false, false, true, true, true⟩
def PfxSet.intRead : PfxSet := ⟨false, true, true, true, false⟩
def PfxSet.nothing : PfxSet := ⟨false, false, false, false, false⟩

/-- A bound prefix is legal when its RND is not 111, its SAT is at most 100, and every field outside the accepted set
is zero (R131, R132). -/
def Prefix.fits (p : Prefix) (a : PfxSet) : Bool :=
  decide (p.rnd ≠ 7) && decide (p.sat ≤ 4) && (a.rnd || p.rnd == 0) && (a.sat || p.sat == 0) && (a.neg || !p.neg) &&
    (a.abs || !p.abs) && (a.scale || p.scale == 0)

def pfxFits (o : Option Prefix) (a : PfxSet) : Bool :=
  match o with
  | none => true
  | some p => p.fits a

/-- The prefix of `mmma` and `mgemv`: only with FMT I8x4, and then SAT 000 or 001 alone (R256, R266). -/
def pfxI8 (o : Option Prefix) (t : Tag) : Bool :=
  match o with
  | none => true
  | some p => t == 0x8 && p.fits .satOnly && decide (p.sat ≤ 1)

/-- An assigned tag code (R62). -/
def tagOk (t : Tag) : Bool := decide (t ≤ 0xC)

/-- The prefix set that `mread` accepts for its TAG (R261). -/
def mreadPfx (t : Tag) : PfxSet :=
  if t = 0xB then .nothing else if t = 0x1 ∨ t = 0x9 ∨ t = 0x8 then .intRead else .all

/-- The fields of an X word that its member leaves unused are zero (R300, R311, R317). -/
def XWord.ok (x : XWord) : Bool :=
  match x.op with
  | .prefetch | .viewAck | .viewJoin => x.d == 0
  | _ => true

/-- Well-formedness of an instruction. Each line cites the rule that reserves the value it refuses. -/
def Instr.wf : Instr → Bool
  -- majors 0x01, 0x03: SAT alone (R152)
  | .add _ _ _ p | .sub _ _ _ p | .mul _ _ _ p | .addi _ _ _ p => pfxFits p .satOnly
  -- shift counts of 64 and above are reserved (R156)
  | .slli _ _ i | .srli _ _ i | .srai _ _ i => decide (i < 64)
  -- token numbers 8-31 (R178)
  | .waitK k => decide (k < 8)
  -- fence kind 00 and scopes 101-111 (R106)
  | .fence c k => decide (k ≠ 0) && decide (c < 5)
  -- enq: the second word is a valid X word (R149)
  | .enq _ x => x.ok
  -- class V tag fields (R62, R195)
  | .vsplat _ _ t | .vld _ _ t _ _ | .vldg _ _ t _ _ => tagOk t
  | .vadd _ _ _ _ p | .vsub _ _ _ _ p | .vmul _ _ _ _ p | .vfma _ _ _ _ p | .vfms _ _ _ _ p | .vmin _ _ _ _ p
  | .vmax _ _ _ _ p | .vdiv _ _ _ _ p | .vsqrt _ _ _ p | .vrsqrt _ _ _ p => pfxFits p .all
  | .viadd _ _ _ _ p | .visub _ _ _ _ p | .vimul _ _ _ _ p | .vimad _ _ _ _ p | .vimin _ _ _ _ p
  | .vimax _ _ _ _ p | .viminu _ _ _ _ p | .vimaxu _ _ _ _ p | .viabs _ _ _ p => pfxFits p .satOnly
  -- vcvt: TAG 0x0, 0x7, 0xA and 0xD-0xF; OVF outside FP8 (R62, R211)
  | .vcvt _ _ t o _ _ p =>
    tagOk t && t != 0x0 && t != 0x7 && t != 0xA && (!o || t == 0x5 || t == 0x6) && pfxFits p .all
  | .vqnt _ _ _ _ p => pfxFits p .noSat
  | .vdqnt _ _ _ _ p => pfxFits p .all
  | .vtolns _ _ _ p | .vlmul _ _ _ p | .vldiv _ _ _ p | .vlsqrt _ _ p | .vlrsqrt _ _ p | .vlpow _ _ _ p =>
    pfxFits p .lns
  -- vfromlns: TAG F32, B16x2 or H16x2; HALF 0 with F32 (R224)
  | .vfromlns _ _ t h p => (t == 0x2 || t == 0x3 || t == 0x4) && !(h && t == 0x2) && pfxFits p .all
  | .vsumr _ _ _ p | .vmaxr _ _ _ p | .vminr _ _ _ p | .vsumc _ _ _ p | .vmaxc _ _ _ p | .vminc _ _ _ p =>
    pfxFits p .all
  -- axis amounts (R227)
  | .vrotr _ _ n | .vbcr _ _ n => decide (n < 64)
  | .vrotc _ _ n | .vbcc _ _ n => decide (n < 16)
  -- a table that runs past v15 (R229)
  | .vtbl _ a _ n _ _ => decide (a.val + n.toNat < 16)
  -- class M (R253, R256, R260, R261, R266)
  | .mzero _ t | .mwrite _ _ t => t == 0x1 || t == 0x2 || t == 0xB
  | .mread _ _ t o g p =>
    (t == 0x1 || t == 0x2 || t == 0x3 || t == 0x4 || t == 0x5 || t == 0x6 || t == 0x8 || t == 0x9 || t == 0xB) &&
      (!o || t == 0x5 || t == 0x6) && (!g || t == 0x1 || t == 0x8 || t == 0x9) && pfxFits p (mreadPfx t)
  | .mscale _ _ p => pfxFits p .all
  | .mbld _ b src _ lt t tok _ _ =>
    (t == 0x2 || t == 0x3 || t == 0x4 || t == 0x5 || t == 0x6 || t == 0x7 || t == 0x8 || t == 0xB) &&
      (!lt || t == 0x5 || t == 0x7) && src != 3 && (src == 2 || tok == 0) && (lt || b == 0)
  | .mmma _ _ _ _ t lat nh _ _ hd p =>
    (t == 0x2 || t == 0x3 || t == 0x4 || t == 0x5 || t == 0x6 || t == 0x7 || t == 0x8 || t == 0xB) &&
      decide (lat ≤ 4) && (!nh || t == 0xB) && (lat != 0 || hd == 0) && pfxI8 p t
  | .mgemv _ _ _ _ t kc _ p => (t == 0x3 || t == 0x5 || t == 0x6 || t == 0x8) && kc != 0 && pfxI8 p t
  -- class G: V1 even (R295, R296); pools and bags of gemb (R298)
  | .gtopk v _ _ | .gsortk v _ _ => v.val % 2 == 0
  | .gemb _ _ _ _ pool zm1 nm1 =>
    pool != 3 && (pool != 0 || zm1 == 0) && (nm1.toNat + 1) % (zm1.toNat + 1) == 0
  -- class X issued by a die sequencer: a sequencer's own X words carry only registers
  | _ => true

end Sys2Proof
end

