-- ==== Sys2Proof/Decode.lean ====
section
/-! DEFINITION. The decoder, total on any words, and after it the encoder. A group is decoded in the order of R136; each
fault of that table has its name in `DecodeFault`. Words are numbers below 2^32 (bit 0 the least significant, R3).
What builds an instruction is marked noncomputable for one reason: Lean's code generator has no constructor tags above
244, and `Instr` has 408 constructors; the kernel evaluates every definition here. -/
namespace Sys2Proof

/-- Bits [lo+n-1 : lo] of a word (R3). -/
def fld (w lo n : Nat) : Nat := w / 2 ^ lo % 2 ^ n
def xr (w lo : Nat) : XReg := Fin.ofNat 32 (w / 2 ^ lo)
def vr (w lo : Nat) : VRegNo := Fin.ofNat 16 (w / 2 ^ lo)
def kr (w lo : Nat) : KRegNo := Fin.ofNat 8 (w / 2 ^ lo)
def br (w lo : Nat) : BRegNo := Fin.ofNat 4 (w / 2 ^ lo)
def lr (w lo : Nat) : LoopNo := Fin.ofNat 3 (fld w lo 5)
def bv (n w lo : Nat) : BitVec n := BitVec.ofNat n (w / 2 ^ lo)
def bt (w lo : Nat) : Bool := fld w lo 1 == 1

/-- The mask field VC of a maskable instruction (R129): 0 unmasked, 0b1kkk mask k, else reserved. -/
def maskOf (f : Nat) : Option (Option KRegNo) :=
  if f = 0 then some none else if 8 ≤ f then some (some (Fin.ofNat 8 f)) else none

def maskCode : Option KRegNo → Nat
  | none => 0
  | some k => 8 + k.val

/-- The X members by major (R148), and back. -/
def XOp.ofMajor : Nat → Option XOp
  | 0x00 => some .copy | 0x01 => some .copyc | 0x02 => some .csum | 0x03 => some .fill | 0x04 => some .publish
  | 0x05 => some .prefetch | 0x06 => some .migr | 0x08 => some .cred | 0x09 => some .crs | 0x0A => some .cag
  | 0x0B => some .cbc | 0x0C => some .ca2a | 0x10 => some .viewRd | 0x11 => some .viewAck | 0x12 => some .viewJoin
  | 0x13 => some .viewAdm | 0x18 => some .xstat | _ => none

def XOp.major : XOp → Nat
  | .copy => 0x00 | .copyc => 0x01 | .csum => 0x02 | .fill => 0x03 | .publish => 0x04 | .prefetch => 0x05
  | .migr => 0x06 | .cred => 0x08 | .crs => 0x09 | .cag => 0x0A | .cbc => 0x0B | .ca2a => 0x0C | .viewRd => 0x10
  | .viewAck => 0x11 | .viewJoin => 0x12 | .viewAdm => 0x13 | .xstat => 0x18

/-- An X word as the second word of `enq` (R149): H = 1, LEN = 00, M = S = 0, FN = 0, a listed major, unused fields 0. -/
def xword (w : Nat) : Option XWord :=
  if fld w 31 1 = 1 ∧ fld w 0 4 = 0 ∧ fld w 4 5 = 0 then
    match XOp.ofMajor (fld w 24 7) with
    | some op =>
      let x : XWord := ⟨op, xr w 19, xr w 14, xr w 9⟩
      if x.ok then some x else none
    | none => none
  else none

def XWord.encode (x : XWord) : Nat :=
  0x80000000 + x.op.major * 16777216 + x.d.val * 524288 + x.a.val * 16384 + x.b.val * 512

/-- An X word as the instruction that a die sequencer issues directly (R300). -/
noncomputable def XWord.toInstr (x : XWord) : Instr :=
  match x.op with
  | .copy => .copy x.d x.a x.b | .copyc => .copyc x.d x.a x.b | .csum => .csum x.d x.a x.b
  | .fill => .fill x.d x.a x.b | .publish => .publish x.d x.a x.b | .prefetch => .prefetch x.a x.b
  | .migr => .migr x.d x.a x.b | .cred => .cred x.d x.a x.b | .crs => .crs x.d x.a x.b | .cag => .cag x.d x.a x.b
  | .cbc => .cbc x.d x.a x.b | .ca2a => .ca2a x.d x.a x.b | .viewRd => .viewRd x.d x.a x.b
  | .viewAck => .viewAck x.a x.b | .viewJoin => .viewJoin x.a x.b | .viewAdm => .viewAdm x.d x.a x.b
  | .xstat => .xstat x.d x.a x.b

/-- What the fields of an instruction word give: an unassigned major, a reserved encoding, or an instruction. -/
inductive DecRes where
  | illegal
  | reserved
  | ok (i : Instr)
  deriving DecidableEq, Repr

/-- Major 0x00: nop, trap, brk, sret, wcinv. R193 excepts S from nop's zero fields by name and R194 does not from those of sret and wcinv;
the S bit, which only marks a bundle (R140), is not counted among the fields of either (DESIGN CHOICE, notes/assumptions/97.md). -/
def decodeC00 (w : Nat) : DecRes :=
  match fld w 4 5 with
  | 0 => if fld w 9 15 = 0 then .ok .nop else .reserved
  | 1 => .ok (.trap (bv 15 w 9))
  | 2 => .ok (.brk (bv 15 w 9))
  | 3 => if fld w 9 15 = 0 then .ok .sret else .reserved
  | 4 => if fld w 9 15 = 0 then .ok .wcinv else .reserved
  | _ => .reserved

/-- Major 0x01: add, sub, and, or, xor, andn, sll, srl, sra, slt, sltu, min, max, minu, maxu, mul, mulh, mulhu. -/
def decodeC01 (w : Nat) : DecRes :=
  match fld w 4 5 with
  | 0 => .ok (.add (xr w 19) (xr w 14) (xr w 9) none)
  | 1 => .ok (.sub (xr w 19) (xr w 14) (xr w 9) none)
  | 2 => .ok (.and (xr w 19) (xr w 14) (xr w 9))
  | 3 => .ok (.or (xr w 19) (xr w 14) (xr w 9))
  | 4 => .ok (.xor (xr w 19) (xr w 14) (xr w 9))
  | 5 => .ok (.andn (xr w 19) (xr w 14) (xr w 9))
  | 6 => .ok (.sll (xr w 19) (xr w 14) (xr w 9))
  | 7 => .ok (.srl (xr w 19) (xr w 14) (xr w 9))
  | 8 => .ok (.sra (xr w 19) (xr w 14) (xr w 9))
  | 9 => .ok (.slt (xr w 19) (xr w 14) (xr w 9))
  | 10 => .ok (.sltu (xr w 19) (xr w 14) (xr w 9))
  | 11 => .ok (.min (xr w 19) (xr w 14) (xr w 9))
  | 12 => .ok (.max (xr w 19) (xr w 14) (xr w 9))
  | 13 => .ok (.minu (xr w 19) (xr w 14) (xr w 9))
  | 14 => .ok (.maxu (xr w 19) (xr w 14) (xr w 9))
  | 15 => .ok (.mul (xr w 19) (xr w 14) (xr w 9) none)
  | 16 => .ok (.mulh (xr w 19) (xr w 14) (xr w 9))
  | 17 => .ok (.mulhu (xr w 19) (xr w 14) (xr w 9))
  | _ => .reserved

/-- Major 0x02: div, divu, rem, remu. -/
def decodeC02 (w : Nat) : DecRes :=
  match fld w 4 5 with
  | 0 => .ok (.div (xr w 19) (xr w 14) (xr w 9))
  | 1 => .ok (.divu (xr w 19) (xr w 14) (xr w 9))
  | 2 => .ok (.rem (xr w 19) (xr w 14) (xr w 9))
  | 3 => .ok (.remu (xr w 19) (xr w 14) (xr w 9))
  | _ => .reserved

/-- Major 0x10: bext_z, bext_s, bins. -/
def decodeC10 (w : Nat) : DecRes :=
  match fld w 4 5 with
  | 0 => .ok (.bextZ (xr w 19) (xr w 14) (xr w 9))
  | 1 => .ok (.bextS (xr w 19) (xr w 14) (xr w 9))
  | 2 => .ok (.bins (xr w 19) (xr w 14) (xr w 9))
  | _ => .reserved

/-- Major 0x11: bexti_z, bexti_s, binsi. -/
def decodeC11 (w w2 : Nat) : DecRes :=
  match fld w 4 5 with
  | 0 => if fld w 9 5 = 0 ∧ fld w2 12 20 = 0 then .ok (.bextiZ (xr w 19) (xr w 14) (bv 6 w2 6) (bv 6 w2 0)) else .reserved
  | 1 => if fld w 9 5 = 0 ∧ fld w2 12 20 = 0 then .ok (.bextiS (xr w 19) (xr w 14) (bv 6 w2 6) (bv 6 w2 0)) else .reserved
  | 2 => if fld w 9 5 = 0 ∧ fld w2 12 20 = 0 then .ok (.binsi (xr w 19) (xr w 14) (bv 6 w2 6) (bv 6 w2 0)) else .reserved
  | _ => .reserved

/-- Major 0x12: clz, ctz, popc, brev. -/
def decodeC12 (w : Nat) : DecRes :=
  match fld w 4 5 with
  | 0 => if fld w 9 5 = 0 then .ok (.clz (xr w 19) (xr w 14)) else .reserved
  | 1 => if fld w 9 5 = 0 then .ok (.ctz (xr w 19) (xr w 14)) else .reserved
  | 2 => if fld w 9 5 = 0 then .ok (.popc (xr w 19) (xr w 14)) else .reserved
  | 3 => if fld w 9 5 = 0 then .ok (.brev (xr w 19) (xr w 14)) else .reserved
  | _ => .reserved

/-- Major 0x13: shadd1, shadd2, shadd3. -/
def decodeC13 (w : Nat) : DecRes :=
  match fld w 4 5 with
  | 0 => .ok (.shadd1 (xr w 19) (xr w 14) (xr w 9))
  | 1 => .ok (.shadd2 (xr w 19) (xr w 14) (xr w 9))
  | 2 => .ok (.shadd3 (xr w 19) (xr w 14) (xr w 9))
  | _ => .reserved

/-- Major 0x20: jr, callr, ret. -/
def decodeC20 (w : Nat) : DecRes :=
  match fld w 4 5 with
  | 0 => if fld w 9 5 = 0 ∧ fld w 19 5 = 0 then .ok (.jr (xr w 14)) else .reserved
  | 1 => if fld w 9 5 = 0 ∧ fld w 19 5 = 0 then .ok (.callr (xr w 14)) else .reserved
  | 2 => if fld w 9 15 = 0 then .ok .ret else .reserved
  | _ => .reserved

/-- Major 0x21: loop. -/
def decodeC21 (w w2 : Nat) : DecRes :=
  match fld w 4 5 with
  | 0 => if fld w 9 5 = 0 ∧ fld w 19 5 < 3 then .ok (.loop (lr w 19) (xr w 14) (bv 32 w2 0)) else .reserved
  | _ => .reserved

/-- Major 0x33: ldg_s8, ldg_z8, ldg_s16, ldg_z16, ldg_s32, ldg_z32, ldg_64. -/
def decodeC33 (w w2 : Nat) : DecRes :=
  match fld w 4 5 with
  | 0 => if fld w 9 5 = 0 ∧ fld w2 3 5 = 0 then .ok (.ldgS8 (xr w 19) (xr w 14) (bv 24 w2 8) (bv 3 w2 0)) else .reserved
  | 1 => if fld w 9 5 = 0 ∧ fld w2 3 5 = 0 then .ok (.ldgZ8 (xr w 19) (xr w 14) (bv 24 w2 8) (bv 3 w2 0)) else .reserved
  | 2 => if fld w 9 5 = 0 ∧ fld w2 3 5 = 0 then .ok (.ldgS16 (xr w 19) (xr w 14) (bv 24 w2 8) (bv 3 w2 0)) else .reserved
  | 3 => if fld w 9 5 = 0 ∧ fld w2 3 5 = 0 then .ok (.ldgZ16 (xr w 19) (xr w 14) (bv 24 w2 8) (bv 3 w2 0)) else .reserved
  | 4 => if fld w 9 5 = 0 ∧ fld w2 3 5 = 0 then .ok (.ldgS32 (xr w 19) (xr w 14) (bv 24 w2 8) (bv 3 w2 0)) else .reserved
  | 5 => if fld w 9 5 = 0 ∧ fld w2 3 5 = 0 then .ok (.ldgZ32 (xr w 19) (xr w 14) (bv 24 w2 8) (bv 3 w2 0)) else .reserved
  | 6 => if fld w 9 5 = 0 ∧ fld w2 3 5 = 0 then .ok (.ldg64 (xr w 19) (xr w 14) (bv 24 w2 8) (bv 3 w2 0)) else .reserved
  | _ => .reserved

/-- Major 0x34: stg_8, stg_16, stg_32, stg_64. -/
def decodeC34 (w w2 : Nat) : DecRes :=
  match fld w 4 5 with
  | 0 => if fld w 9 5 = 0 ∧ fld w2 3 5 = 0 then .ok (.stg8 (xr w 19) (xr w 14) (bv 24 w2 8) (bv 3 w2 0)) else .reserved
  | 1 => if fld w 9 5 = 0 ∧ fld w2 3 5 = 0 then .ok (.stg16 (xr w 19) (xr w 14) (bv 24 w2 8) (bv 3 w2 0)) else .reserved
  | 2 => if fld w 9 5 = 0 ∧ fld w2 3 5 = 0 then .ok (.stg32 (xr w 19) (xr w 14) (bv 24 w2 8) (bv 3 w2 0)) else .reserved
  | 3 => if fld w 9 5 = 0 ∧ fld w2 3 5 = 0 then .ok (.stg64 (xr w 19) (xr w 14) (bv 24 w2 8) (bv 3 w2 0)) else .reserved
  | _ => .reserved

/-- Major 0x35: aadd_8, aswp_8, aand_8, aor_8, axor_8, amin_8, amax_8, aminu_8, amaxu_8, acas_8. -/
def decodeC35 (w : Nat) : DecRes :=
  match fld w 4 5 with
  | 0 => .ok (.aadd8 (xr w 19) (xr w 14) (xr w 9))
  | 1 => .ok (.aswp8 (xr w 19) (xr w 14) (xr w 9))
  | 2 => .ok (.aand8 (xr w 19) (xr w 14) (xr w 9))
  | 3 => .ok (.aor8 (xr w 19) (xr w 14) (xr w 9))
  | 4 => .ok (.axor8 (xr w 19) (xr w 14) (xr w 9))
  | 5 => .ok (.amin8 (xr w 19) (xr w 14) (xr w 9))
  | 6 => .ok (.amax8 (xr w 19) (xr w 14) (xr w 9))
  | 7 => .ok (.aminu8 (xr w 19) (xr w 14) (xr w 9))
  | 8 => .ok (.amaxu8 (xr w 19) (xr w 14) (xr w 9))
  | 9 => .ok (.acas8 (xr w 19) (xr w 14) (xr w 9))
  | _ => .reserved

/-- Major 0x36: aadd_16, aswp_16, aand_16, aor_16, axor_16, amin_16, amax_16, aminu_16, amaxu_16, acas_16. -/
def decodeC36 (w : Nat) : DecRes :=
  match fld w 4 5 with
  | 0 => .ok (.aadd16 (xr w 19) (xr w 14) (xr w 9))
  | 1 => .ok (.aswp16 (xr w 19) (xr w 14) (xr w 9))
  | 2 => .ok (.aand16 (xr w 19) (xr w 14) (xr w 9))
  | 3 => .ok (.aor16 (xr w 19) (xr w 14) (xr w 9))
  | 4 => .ok (.axor16 (xr w 19) (xr w 14) (xr w 9))
  | 5 => .ok (.amin16 (xr w 19) (xr w 14) (xr w 9))
  | 6 => .ok (.amax16 (xr w 19) (xr w 14) (xr w 9))
  | 7 => .ok (.aminu16 (xr w 19) (xr w 14) (xr w 9))
  | 8 => .ok (.amaxu16 (xr w 19) (xr w 14) (xr w 9))
  | 9 => .ok (.acas16 (xr w 19) (xr w 14) (xr w 9))
  | _ => .reserved

/-- Major 0x37: aadd_32, aswp_32, aand_32, aor_32, axor_32, amin_32, amax_32, aminu_32, amaxu_32, acas_32. -/
def decodeC37 (w : Nat) : DecRes :=
  match fld w 4 5 with
  | 0 => .ok (.aadd32 (xr w 19) (xr w 14) (xr w 9))
  | 1 => .ok (.aswp32 (xr w 19) (xr w 14) (xr w 9))
  | 2 => .ok (.aand32 (xr w 19) (xr w 14) (xr w 9))
  | 3 => .ok (.aor32 (xr w 19) (xr w 14) (xr w 9))
  | 4 => .ok (.axor32 (xr w 19) (xr w 14) (xr w 9))
  | 5 => .ok (.amin32 (xr w 19) (xr w 14) (xr w 9))
  | 6 => .ok (.amax32 (xr w 19) (xr w 14) (xr w 9))
  | 7 => .ok (.aminu32 (xr w 19) (xr w 14) (xr w 9))
  | 8 => .ok (.amaxu32 (xr w 19) (xr w 14) (xr w 9))
  | 9 => .ok (.acas32 (xr w 19) (xr w 14) (xr w 9))
  | _ => .reserved

/-- Major 0x38: aadd_64, aswp_64, aand_64, aor_64, axor_64, amin_64, amax_64, aminu_64, amaxu_64, acas_64. -/
def decodeC38 (w : Nat) : DecRes :=
  match fld w 4 5 with
  | 0 => .ok (.aadd64 (xr w 19) (xr w 14) (xr w 9))
  | 1 => .ok (.aswp64 (xr w 19) (xr w 14) (xr w 9))
  | 2 => .ok (.aand64 (xr w 19) (xr w 14) (xr w 9))
  | 3 => .ok (.aor64 (xr w 19) (xr w 14) (xr w 9))
  | 4 => .ok (.axor64 (xr w 19) (xr w 14) (xr w 9))
  | 5 => .ok (.amin64 (xr w 19) (xr w 14) (xr w 9))
  | 6 => .ok (.amax64 (xr w 19) (xr w 14) (xr w 9))
  | 7 => .ok (.aminu64 (xr w 19) (xr w 14) (xr w 9))
  | 8 => .ok (.amaxu64 (xr w 19) (xr w 14) (xr w 9))
  | 9 => .ok (.acas64 (xr w 19) (xr w 14) (xr w 9))
  | _ => .reserved

/-- Major 0x39: aadd_g32, aswp_g32, aand_g32, aor_g32, axor_g32, amin_g32, amax_g32, aminu_g32, amaxu_g32, acas_g32. -/
def decodeC39 (w w2 : Nat) : DecRes :=
  match fld w 4 5 with
  | 0 => if fld w2 3 5 = 0 then .ok (.aaddG32 (xr w 19) (xr w 14) (xr w 9) (bv 24 w2 8) (bv 3 w2 0)) else .reserved
  | 1 => if fld w2 3 5 = 0 then .ok (.aswpG32 (xr w 19) (xr w 14) (xr w 9) (bv 24 w2 8) (bv 3 w2 0)) else .reserved
  | 2 => if fld w2 3 5 = 0 then .ok (.aandG32 (xr w 19) (xr w 14) (xr w 9) (bv 24 w2 8) (bv 3 w2 0)) else .reserved
  | 3 => if fld w2 3 5 = 0 then .ok (.aorG32 (xr w 19) (xr w 14) (xr w 9) (bv 24 w2 8) (bv 3 w2 0)) else .reserved
  | 4 => if fld w2 3 5 = 0 then .ok (.axorG32 (xr w 19) (xr w 14) (xr w 9) (bv 24 w2 8) (bv 3 w2 0)) else .reserved
  | 5 => if fld w2 3 5 = 0 then .ok (.aminG32 (xr w 19) (xr w 14) (xr w 9) (bv 24 w2 8) (bv 3 w2 0)) else .reserved
  | 6 => if fld w2 3 5 = 0 then .ok (.amaxG32 (xr w 19) (xr w 14) (xr w 9) (bv 24 w2 8) (bv 3 w2 0)) else .reserved
  | 7 => if fld w2 3 5 = 0 then .ok (.aminuG32 (xr w 19) (xr w 14) (xr w 9) (bv 24 w2 8) (bv 3 w2 0)) else .reserved
  | 8 => if fld w2 3 5 = 0 then .ok (.amaxuG32 (xr w 19) (xr w 14) (xr w 9) (bv 24 w2 8) (bv 3 w2 0)) else .reserved
  | 9 => if fld w2 3 5 = 0 then .ok (.acasG32 (xr w 19) (xr w 14) (xr w 9) (bv 24 w2 8) (bv 3 w2 0)) else .reserved
  | _ => .reserved

/-- Major 0x3A: aadd_g64, aswp_g64, aand_g64, aor_g64, axor_g64, amin_g64, amax_g64, aminu_g64, amaxu_g64, acas_g64. -/
def decodeC3A (w w2 : Nat) : DecRes :=
  match fld w 4 5 with
  | 0 => if fld w2 3 5 = 0 then .ok (.aaddG64 (xr w 19) (xr w 14) (xr w 9) (bv 24 w2 8) (bv 3 w2 0)) else .reserved
  | 1 => if fld w2 3 5 = 0 then .ok (.aswpG64 (xr w 19) (xr w 14) (xr w 9) (bv 24 w2 8) (bv 3 w2 0)) else .reserved
  | 2 => if fld w2 3 5 = 0 then .ok (.aandG64 (xr w 19) (xr w 14) (xr w 9) (bv 24 w2 8) (bv 3 w2 0)) else .reserved
  | 3 => if fld w2 3 5 = 0 then .ok (.aorG64 (xr w 19) (xr w 14) (xr w 9) (bv 24 w2 8) (bv 3 w2 0)) else .reserved
  | 4 => if fld w2 3 5 = 0 then .ok (.axorG64 (xr w 19) (xr w 14) (xr w 9) (bv 24 w2 8) (bv 3 w2 0)) else .reserved
  | 5 => if fld w2 3 5 = 0 then .ok (.aminG64 (xr w 19) (xr w 14) (xr w 9) (bv 24 w2 8) (bv 3 w2 0)) else .reserved
  | 6 => if fld w2 3 5 = 0 then .ok (.amaxG64 (xr w 19) (xr w 14) (xr w 9) (bv 24 w2 8) (bv 3 w2 0)) else .reserved
  | 7 => if fld w2 3 5 = 0 then .ok (.aminuG64 (xr w 19) (xr w 14) (xr w 9) (bv 24 w2 8) (bv 3 w2 0)) else .reserved
  | 8 => if fld w2 3 5 = 0 then .ok (.amaxuG64 (xr w 19) (xr w 14) (xr w 9) (bv 24 w2 8) (bv 3 w2 0)) else .reserved
  | 9 => if fld w2 3 5 = 0 then .ok (.acasG64 (xr w 19) (xr w 14) (xr w 9) (bv 24 w2 8) (bv 3 w2 0)) else .reserved
  | _ => .reserved

/-- Major 0x3C: swset. -/
def decodeC3C (w : Nat) : DecRes :=
  match fld w 4 5 with
  | 0 => if fld w 19 5 = 0 then .ok (.swset (xr w 14) (xr w 9)) else .reserved
  | _ => .reserved

/-- Major 0x3D: wait_k, wait_g. -/
def decodeC3D (w : Nat) : DecRes :=
  match fld w 4 5 with
  | 0 => if fld w 9 5 = 0 ∧ fld w 19 5 = 0 then .ok (.waitK (bv 5 w 14)) else .reserved
  | 1 => if fld w 19 5 = 0 then .ok (.waitG (xr w 14) (xr w 9)) else .reserved
  | _ => .reserved

/-- Major 0x40: barr, barw, barrw. -/
def decodeC40 (w : Nat) : DecRes :=
  match fld w 4 5 with
  | 0 => if fld w 9 5 = 0 ∧ fld w 22 2 = 0 then .ok (.barr (bv 8 w 14)) else .reserved
  | 1 => if fld w 22 2 = 0 then .ok (.barw (bv 8 w 14) (xr w 9)) else .reserved
  | 2 => if fld w 22 2 = 0 then .ok (.barrw (bv 8 w 14) (xr w 9)) else .reserved
  | _ => .reserved

/-- Major 0x43: enq. -/
def decodeC43 (w w2 : Nat) : DecRes :=
  match fld w 4 5 with
  | 0 => if fld w 9 5 = 0 ∧ fld w 19 5 = 0 then match xword w2 with | some x => .ok (.enq (xr w 14) x) | none => .reserved else .reserved
  | _ => .reserved

/-- Major 0x44: drain, retire. -/
def decodeC44 (w : Nat) : DecRes :=
  match fld w 4 5 with
  | 0 => if fld w 9 15 = 0 then .ok .drain else .reserved
  | 1 => if fld w 9 15 = 0 then .ok .retire else .reserved
  | _ => .reserved

/-- Major 0x45: twait, waitw. -/
def decodeC45 (w : Nat) : DecRes :=
  match fld w 4 5 with
  | 0 => if fld w 9 5 = 0 ∧ fld w 19 5 = 0 then .ok (.twait (xr w 14)) else .reserved
  | 1 => if fld w 9 5 = 0 ∧ fld w 19 5 = 0 then .ok (.waitw (xr w 14)) else .reserved
  | _ => .reserved

/-- Class C, by major and FN (R128, R145). A major that is not listed is illegal on every unit. -/
def decodeC (maj w w2 : Nat) : DecRes :=
  match maj with
  | 0x00 => decodeC00 w
  | 0x01 => decodeC01 w
  | 0x02 => decodeC02 w
  | 0x03 => .ok (.addi (xr w 19) (xr w 14) (bv 10 w 4) none)
  | 0x04 => .ok (.andi (xr w 19) (xr w 14) (bv 10 w 4))
  | 0x05 => .ok (.ori (xr w 19) (xr w 14) (bv 10 w 4))
  | 0x06 => .ok (.xori (xr w 19) (xr w 14) (bv 10 w 4))
  | 0x07 => .ok (.slti (xr w 19) (xr w 14) (bv 10 w 4))
  | 0x08 => .ok (.sltiu (xr w 19) (xr w 14) (bv 10 w 4))
  | 0x09 => .ok (.slli (xr w 19) (xr w 14) (bv 10 w 4))
  | 0x0A => .ok (.srli (xr w 19) (xr w 14) (bv 10 w 4))
  | 0x0B => .ok (.srai (xr w 19) (xr w 14) (bv 10 w 4))
  | 0x0C => .ok (.lui (xr w 19) (bv 15 w 4))
  | 0x0D => if fld w 4 15 = 0 then .ok (.li (xr w 19) (bv 32 w2 0)) else .reserved
  | 0x0E => if fld w 4 15 = 0 then .ok (.lih (xr w 19) (bv 32 w2 0)) else .reserved
  | 0x0F => .ok (.adpc (xr w 19) (bv 15 w 4))
  | 0x10 => decodeC10 w
  | 0x11 => decodeC11 w w2
  | 0x12 => decodeC12 w
  | 0x13 => decodeC13 w
  | 0x18 => .ok (.beq (xr w 19) (xr w 14) (bv 10 w 4))
  | 0x19 => .ok (.bne (xr w 19) (xr w 14) (bv 10 w 4))
  | 0x1A => .ok (.blt (xr w 19) (xr w 14) (bv 10 w 4))
  | 0x1B => .ok (.bge (xr w 19) (xr w 14) (bv 10 w 4))
  | 0x1C => .ok (.bltu (xr w 19) (xr w 14) (bv 10 w 4))
  | 0x1D => .ok (.bgeu (xr w 19) (xr w 14) (bv 10 w 4))
  | 0x1E => .ok (.jmp (bv 20 w 4))
  | 0x1F => .ok (.call (bv 20 w 4))
  | 0x20 => decodeC20 w
  | 0x21 => decodeC21 w w2
  | 0x22 => if fld w 19 5 < 3 then .ok (.loopi (lr w 19) (bv 15 w 4) (bv 32 w2 0)) else .reserved
  | 0x28 => .ok (.ldS8 (xr w 19) (xr w 14) (bv 10 w 4))
  | 0x29 => .ok (.ldZ8 (xr w 19) (xr w 14) (bv 10 w 4))
  | 0x2A => .ok (.ldS16 (xr w 19) (xr w 14) (bv 10 w 4))
  | 0x2B => .ok (.ldZ16 (xr w 19) (xr w 14) (bv 10 w 4))
  | 0x2C => .ok (.ldS32 (xr w 19) (xr w 14) (bv 10 w 4))
  | 0x2D => .ok (.ldZ32 (xr w 19) (xr w 14) (bv 10 w 4))
  | 0x2E => .ok (.ld64 (xr w 19) (xr w 14) (bv 10 w 4))
  | 0x2F => .ok (.st8 (xr w 19) (xr w 14) (bv 10 w 4))
  | 0x30 => .ok (.st16 (xr w 19) (xr w 14) (bv 10 w 4))
  | 0x31 => .ok (.st32 (xr w 19) (xr w 14) (bv 10 w 4))
  | 0x32 => .ok (.st64 (xr w 19) (xr w 14) (bv 10 w 4))
  | 0x33 => decodeC33 w w2
  | 0x34 => decodeC34 w w2
  | 0x35 => decodeC35 w
  | 0x36 => decodeC36 w
  | 0x37 => decodeC37 w
  | 0x38 => decodeC38 w
  | 0x39 => decodeC39 w w2
  | 0x3A => decodeC3A w w2
  | 0x3C => decodeC3C w
  | 0x3D => decodeC3D w
  | 0x3E => if fld w 9 15 = 0 then .ok (.fence (bv 3 w 6) (bv 2 w 4)) else .reserved
  | 0x3F => if fld w 13 11 = 0 then .ok (.afence (bv 3 w 10) (bv 6 w 4)) else .reserved
  | 0x40 => decodeC40 w
  | 0x41 => .ok (.anchor (bv 20 w 4))
  | 0x42 => .ok (.chkpt (bv 20 w 4))
  | 0x43 => decodeC43 w w2
  | 0x44 => decodeC44 w
  | 0x45 => decodeC45 w
  | 0x46 => if fld w 16 3 = 0 then .ok (.csrr (xr w 19) (bv 12 w 4)) else .reserved
  | 0x47 => if fld w 16 3 = 0 then .ok (.csrw (xr w 19) (bv 12 w 4)) else .reserved
  | _ => .illegal

/-- Major 0x00: vld. -/
noncomputable def decodeV00 (w w2 : Nat) : DecRes :=
  match fld w 4 4 with
  | 0 => if fld w 8 3 = 0 ∧ fld w2 0 8 = 0 then .ok (.vld (vr w 20) (xr w 15) (bv 4 w 11) (bv 20 w2 12) (bv 4 w2 8)) else .reserved
  | _ => .reserved

/-- Major 0x01: vst. -/
noncomputable def decodeV01 (w w2 : Nat) : DecRes :=
  match fld w 4 4 with
  | 0 => if fld w 8 7 = 0 ∧ fld w2 0 8 = 0 then .ok (.vst (vr w 20) (xr w 15) (bv 20 w2 12) (bv 4 w2 8)) else .reserved
  | _ => .reserved

/-- Major 0x02: kld, kst. -/
noncomputable def decodeV02 (w w2 : Nat) : DecRes :=
  match fld w 4 4 with
  | 0 => if fld w 8 7 = 0 ∧ fld w 23 1 = 0 ∧ fld w2 0 12 = 0 then .ok (.kld (kr w 20) (xr w 15) (bv 20 w2 12)) else .reserved
  | 1 => if fld w 8 7 = 0 ∧ fld w 23 1 = 0 ∧ fld w2 0 12 = 0 then .ok (.kst (kr w 20) (xr w 15) (bv 20 w2 12)) else .reserved
  | _ => .reserved

/-- Major 0x03: bld, bst. -/
noncomputable def decodeV03 (w w2 : Nat) : DecRes :=
  match fld w 4 4 with
  | 0 => if fld w 8 7 = 0 ∧ fld w 22 2 = 0 ∧ fld w2 0 12 = 0 then .ok (.bld (br w 20) (xr w 15) (bv 20 w2 12)) else .reserved
  | 1 => if fld w 8 7 = 0 ∧ fld w 22 2 = 0 ∧ fld w2 0 12 = 0 then .ok (.bst (br w 20) (xr w 15) (bv 20 w2 12)) else .reserved
  | _ => .reserved

/-- Major 0x04: vldg. -/
noncomputable def decodeV04 (w w2 : Nat) : DecRes :=
  match fld w 4 4 with
  | 0 => if fld w 8 3 = 0 ∧ fld w2 3 5 = 0 then .ok (.vldg (vr w 20) (xr w 15) (bv 4 w 11) (bv 24 w2 8) (bv 3 w2 0)) else .reserved
  | _ => .reserved

/-- Major 0x05: vstg. -/
noncomputable def decodeV05 (w w2 : Nat) : DecRes :=
  match fld w 4 4 with
  | 0 => if fld w 8 7 = 0 ∧ fld w2 3 5 = 0 then .ok (.vstg (vr w 20) (xr w 15) (bv 24 w2 8) (bv 3 w2 0)) else .reserved
  | _ => .reserved

/-- Major 0x06: vmov, vsel, vsplat, vins, vext. VC of vsel, which is no mask (R196), names its selector as a mask is named, 0b1kkk, with
0b0001 to 0b0111 reserved; R129 says so for maskable instructions only (DESIGN CHOICE, notes/assumptions/97.md). -/
noncomputable def decodeV06 (w : Nat) : DecRes :=
  match fld w 4 4 with
  | 0 => if fld w 12 4 = 0 then match maskOf (fld w 8 4) with | some k? => .ok (.vmov (vr w 20) (vr w 16) k?) | none => .reserved else .reserved
  | 1 => match maskOf (fld w 8 4) with | some k? => .ok (.vsel (vr w 20) (vr w 16) (vr w 12) k?) | none => .reserved
  | 2 => if fld w 8 2 = 0 ∧ fld w 14 1 = 0 then .ok (.vsplat (vr w 20) (xr w 15) (bv 4 w 10)) else .reserved
  | 3 => if fld w 8 2 = 0 then .ok (.vins (vr w 20) (xr w 15) (xr w 10)) else .reserved
  | 4 => if fld w 8 2 = 0 then .ok (.vext (vr w 20) (xr w 15) (xr w 10)) else .reserved
  | _ => .reserved

/-- Major 0x07: vand, vor, vxor, vnot, vsll, vsrl, vsra. -/
noncomputable def decodeV07 (w : Nat) : DecRes :=
  match fld w 4 4 with
  | 0 => match maskOf (fld w 8 4) with | some k? => .ok (.vand (vr w 20) (vr w 16) (vr w 12) k?) | none => .reserved
  | 1 => match maskOf (fld w 8 4) with | some k? => .ok (.vor (vr w 20) (vr w 16) (vr w 12) k?) | none => .reserved
  | 2 => match maskOf (fld w 8 4) with | some k? => .ok (.vxor (vr w 20) (vr w 16) (vr w 12) k?) | none => .reserved
  | 3 => if fld w 12 4 = 0 then match maskOf (fld w 8 4) with | some k? => .ok (.vnot (vr w 20) (vr w 16) k?) | none => .reserved else .reserved
  | 4 => match maskOf (fld w 8 4) with | some k? => .ok (.vsll (vr w 20) (vr w 16) (vr w 12) k?) | none => .reserved
  | 5 => match maskOf (fld w 8 4) with | some k? => .ok (.vsrl (vr w 20) (vr w 16) (vr w 12) k?) | none => .reserved
  | 6 => match maskOf (fld w 8 4) with | some k? => .ok (.vsra (vr w 20) (vr w 16) (vr w 12) k?) | none => .reserved
  | _ => .reserved

/-- Major 0x08: vadd, vsub, vmul, vfma, vfms, vmin, vmax, vdiv, vsqrt, vrsqrt. -/
noncomputable def decodeV08 (w : Nat) : DecRes :=
  match fld w 4 4 with
  | 0 => match maskOf (fld w 8 4) with | some k? => .ok (.vadd (vr w 20) (vr w 16) (vr w 12) k? none) | none => .reserved
  | 1 => match maskOf (fld w 8 4) with | some k? => .ok (.vsub (vr w 20) (vr w 16) (vr w 12) k? none) | none => .reserved
  | 2 => match maskOf (fld w 8 4) with | some k? => .ok (.vmul (vr w 20) (vr w 16) (vr w 12) k? none) | none => .reserved
  | 3 => match maskOf (fld w 8 4) with | some k? => .ok (.vfma (vr w 20) (vr w 16) (vr w 12) k? none) | none => .reserved
  | 4 => match maskOf (fld w 8 4) with | some k? => .ok (.vfms (vr w 20) (vr w 16) (vr w 12) k? none) | none => .reserved
  | 5 => match maskOf (fld w 8 4) with | some k? => .ok (.vmin (vr w 20) (vr w 16) (vr w 12) k? none) | none => .reserved
  | 6 => match maskOf (fld w 8 4) with | some k? => .ok (.vmax (vr w 20) (vr w 16) (vr w 12) k? none) | none => .reserved
  | 7 => match maskOf (fld w 8 4) with | some k? => .ok (.vdiv (vr w 20) (vr w 16) (vr w 12) k? none) | none => .reserved
  | 8 => if fld w 12 4 = 0 then match maskOf (fld w 8 4) with | some k? => .ok (.vsqrt (vr w 20) (vr w 16) k? none) | none => .reserved else .reserved
  | 9 => if fld w 12 4 = 0 then match maskOf (fld w 8 4) with | some k? => .ok (.vrsqrt (vr w 20) (vr w 16) k? none) | none => .reserved else .reserved
  | _ => .reserved

/-- Major 0x09: viadd, visub, vimul, vimad, vimin, vimax, viminu, vimaxu, viabs. -/
noncomputable def decodeV09 (w : Nat) : DecRes :=
  match fld w 4 4 with
  | 0 => match maskOf (fld w 8 4) with | some k? => .ok (.viadd (vr w 20) (vr w 16) (vr w 12) k? none) | none => .reserved
  | 1 => match maskOf (fld w 8 4) with | some k? => .ok (.visub (vr w 20) (vr w 16) (vr w 12) k? none) | none => .reserved
  | 2 => match maskOf (fld w 8 4) with | some k? => .ok (.vimul (vr w 20) (vr w 16) (vr w 12) k? none) | none => .reserved
  | 3 => match maskOf (fld w 8 4) with | some k? => .ok (.vimad (vr w 20) (vr w 16) (vr w 12) k? none) | none => .reserved
  | 4 => match maskOf (fld w 8 4) with | some k? => .ok (.vimin (vr w 20) (vr w 16) (vr w 12) k? none) | none => .reserved
  | 5 => match maskOf (fld w 8 4) with | some k? => .ok (.vimax (vr w 20) (vr w 16) (vr w 12) k? none) | none => .reserved
  | 6 => match maskOf (fld w 8 4) with | some k? => .ok (.viminu (vr w 20) (vr w 16) (vr w 12) k? none) | none => .reserved
  | 7 => match maskOf (fld w 8 4) with | some k? => .ok (.vimaxu (vr w 20) (vr w 16) (vr w 12) k? none) | none => .reserved
  | 8 => if fld w 12 4 = 0 then match maskOf (fld w 8 4) with | some k? => .ok (.viabs (vr w 20) (vr w 16) k? none) | none => .reserved else .reserved
  | _ => .reserved

/-- Major 0x0A: vceq, vcne, vclt, vcle, vcgt, vcge. -/
noncomputable def decodeV0A (w : Nat) : DecRes :=
  match fld w 4 4 with
  | 0 => if fld w 23 1 = 0 then match maskOf (fld w 8 4) with | some k? => .ok (.vceq (kr w 20) (vr w 16) (vr w 12) k?) | none => .reserved else .reserved
  | 1 => if fld w 23 1 = 0 then match maskOf (fld w 8 4) with | some k? => .ok (.vcne (kr w 20) (vr w 16) (vr w 12) k?) | none => .reserved else .reserved
  | 2 => if fld w 23 1 = 0 then match maskOf (fld w 8 4) with | some k? => .ok (.vclt (kr w 20) (vr w 16) (vr w 12) k?) | none => .reserved else .reserved
  | 3 => if fld w 23 1 = 0 then match maskOf (fld w 8 4) with | some k? => .ok (.vcle (kr w 20) (vr w 16) (vr w 12) k?) | none => .reserved else .reserved
  | 4 => if fld w 23 1 = 0 then match maskOf (fld w 8 4) with | some k? => .ok (.vcgt (kr w 20) (vr w 16) (vr w 12) k?) | none => .reserved else .reserved
  | 5 => if fld w 23 1 = 0 then match maskOf (fld w 8 4) with | some k? => .ok (.vcge (kr w 20) (vr w 16) (vr w 12) k?) | none => .reserved else .reserved
  | _ => .reserved

/-- Major 0x0B: kand, kor, kxor, knot, kpop, kffs. -/
noncomputable def decodeV0B (w : Nat) : DecRes :=
  match fld w 4 4 with
  | 0 => if fld w 8 4 = 0 ∧ fld w 15 1 = 0 ∧ fld w 19 1 = 0 ∧ fld w 23 1 = 0 then .ok (.kand (kr w 20) (kr w 16) (kr w 12)) else .reserved
  | 1 => if fld w 8 4 = 0 ∧ fld w 15 1 = 0 ∧ fld w 19 1 = 0 ∧ fld w 23 1 = 0 then .ok (.kor (kr w 20) (kr w 16) (kr w 12)) else .reserved
  | 2 => if fld w 8 4 = 0 ∧ fld w 15 1 = 0 ∧ fld w 19 1 = 0 ∧ fld w 23 1 = 0 then .ok (.kxor (kr w 20) (kr w 16) (kr w 12)) else .reserved
  | 3 => if fld w 8 8 = 0 ∧ fld w 19 1 = 0 ∧ fld w 23 1 = 0 then .ok (.knot (kr w 20) (kr w 16)) else .reserved
  | 4 => if fld w 8 7 = 0 ∧ fld w 23 1 = 0 then .ok (.kpop (kr w 20) (xr w 15)) else .reserved
  | 5 => if fld w 8 7 = 0 ∧ fld w 23 1 = 0 then .ok (.kffs (kr w 20) (xr w 15)) else .reserved
  | _ => .reserved

/-- Major 0x0D: vqnt, vdqnt. -/
noncomputable def decodeV0D (w : Nat) : DecRes :=
  match fld w 4 4 with
  | 0 => if fld w 10 2 = 0 then .ok (.vqnt (vr w 20) (vr w 16) (vr w 12) (br w 8) none) else .reserved
  | 1 => if fld w 10 2 = 0 then .ok (.vdqnt (vr w 20) (vr w 16) (vr w 12) (br w 8) none) else .reserved
  | _ => .reserved

/-- Major 0x0E: vtolns, vfromlns, vlmul, vldiv, vlsqrt, vlrsqrt, vlpow. -/
noncomputable def decodeV0E (w : Nat) : DecRes :=
  match fld w 4 4 with
  | 0 => if fld w 9 7 = 0 then .ok (.vtolns (vr w 20) (vr w 16) (bt w 8) none) else .reserved
  | 1 => if fld w 9 3 = 0 then .ok (.vfromlns (vr w 20) (vr w 16) (bv 4 w 12) (bt w 8) none) else .reserved
  | 2 => if fld w 8 4 = 0 then .ok (.vlmul (vr w 20) (vr w 16) (vr w 12) none) else .reserved
  | 3 => if fld w 8 4 = 0 then .ok (.vldiv (vr w 20) (vr w 16) (vr w 12) none) else .reserved
  | 4 => if fld w 8 8 = 0 then .ok (.vlsqrt (vr w 20) (vr w 16) none) else .reserved
  | 5 => if fld w 8 8 = 0 then .ok (.vlrsqrt (vr w 20) (vr w 16) none) else .reserved
  | 6 => if fld w 8 4 = 0 then .ok (.vlpow (vr w 20) (vr w 16) (vr w 12) none) else .reserved
  | _ => .reserved

/-- Major 0x0F: vrotr, vbcr, vsumr, vmaxr, vminr. -/
noncomputable def decodeV0F (w : Nat) : DecRes :=
  match fld w 4 4 with
  | 0 => .ok (.vrotr (vr w 20) (vr w 16) (bv 8 w 8))
  | 1 => .ok (.vbcr (vr w 20) (vr w 16) (bv 8 w 8))
  | 2 => if fld w 12 4 = 0 then match maskOf (fld w 8 4) with | some k? => .ok (.vsumr (vr w 20) (vr w 16) k? none) | none => .reserved else .reserved
  | 3 => if fld w 12 4 = 0 then match maskOf (fld w 8 4) with | some k? => .ok (.vmaxr (vr w 20) (vr w 16) k? none) | none => .reserved else .reserved
  | 4 => if fld w 12 4 = 0 then match maskOf (fld w 8 4) with | some k? => .ok (.vminr (vr w 20) (vr w 16) k? none) | none => .reserved else .reserved
  | _ => .reserved

/-- Major 0x10: vrotc, vbcc, vsumc, vmaxc, vminc. -/
noncomputable def decodeV10 (w : Nat) : DecRes :=
  match fld w 4 4 with
  | 0 => .ok (.vrotc (vr w 20) (vr w 16) (bv 8 w 8))
  | 1 => .ok (.vbcc (vr w 20) (vr w 16) (bv 8 w 8))
  | 2 => if fld w 12 4 = 0 then match maskOf (fld w 8 4) with | some k? => .ok (.vsumc (vr w 20) (vr w 16) k? none) | none => .reserved else .reserved
  | 3 => if fld w 12 4 = 0 then match maskOf (fld w 8 4) with | some k? => .ok (.vmaxc (vr w 20) (vr w 16) k? none) | none => .reserved else .reserved
  | 4 => if fld w 12 4 = 0 then match maskOf (fld w 8 4) with | some k? => .ok (.vminc (vr w 20) (vr w 16) k? none) | none => .reserved else .reserved
  | _ => .reserved

/-- Major 0x13: vcomp, vexpd. -/
noncomputable def decodeV13 (w : Nat) : DecRes :=
  match fld w 4 4 with
  | 0 => match maskOf (fld w 8 4) with | some k? => .ok (.vcomp (vr w 20) (vr w 16) (bv 4 w 12) k?) | none => .reserved
  | 1 => match maskOf (fld w 8 4) with | some k? => .ok (.vexpd (vr w 20) (vr w 16) (bv 4 w 12) k?) | none => .reserved
  | _ => .reserved

/-- Major 0x14: vgath, vscat. -/
noncomputable def decodeV14 (w : Nat) : DecRes :=
  match fld w 4 4 with
  | 0 => if fld w 9 3 = 0 then .ok (.vgath (vr w 20) (vr w 16) (vr w 12) (bt w 8)) else .reserved
  | 1 => if fld w 9 3 = 0 then .ok (.vscat (vr w 20) (vr w 16) (vr w 12) (bt w 8)) else .reserved
  | _ => .reserved

/-- Major 0x15: so_cfg, so_rte, so_thr, so_send, so_recv, so_stat. -/
noncomputable def decodeV15 (w : Nat) : DecRes :=
  match fld w 4 4 with
  | 0 => if fld w 8 7 = 0 then .ok (.soCfg (vr w 20) (xr w 15)) else .reserved
  | 1 => if fld w 8 2 = 0 ∧ fld w 20 4 = 0 then .ok (.soRte (xr w 15) (xr w 10)) else .reserved
  | 2 => if fld w 8 2 = 0 ∧ fld w 20 4 = 0 then .ok (.soThr (xr w 15) (xr w 10)) else .reserved
  | 3 => if fld w 8 7 = 0 then .ok (.soSend (vr w 20) (xr w 15)) else .reserved
  | 4 => if fld w 8 7 = 0 then .ok (.soRecv (vr w 20) (xr w 15)) else .reserved
  | 5 => if fld w 8 2 = 0 ∧ fld w 20 4 = 0 then .ok (.soStat (xr w 15) (xr w 10)) else .reserved
  | _ => .reserved

/-- Class V (R146, R195, R219). -/
noncomputable def decodeV (maj w w2 : Nat) : DecRes :=
  match maj with
  | 0x00 => decodeV00 w w2
  | 0x01 => decodeV01 w w2
  | 0x02 => decodeV02 w w2
  | 0x03 => decodeV03 w w2
  | 0x04 => decodeV04 w w2
  | 0x05 => decodeV05 w w2
  | 0x06 => decodeV06 w
  | 0x07 => decodeV07 w
  | 0x08 => decodeV08 w
  | 0x09 => decodeV09 w
  | 0x0A => decodeV0A w
  | 0x0B => decodeV0B w
  | 0x0C => if fld w 8 2 = 0 then .ok (.vcvt (vr w 20) (vr w 16) (bv 4 w 12) (bt w 11) (bt w 10) (bv 4 w 4) none) else .reserved
  | 0x0D => decodeV0D w
  | 0x0E => decodeV0E w
  | 0x0F => decodeV0F w
  | 0x10 => decodeV10 w
  | 0x11 => .ok (.vtbl (vr w 20) (vr w 16) (vr w 12) (bv 3 w 9) (bt w 8) (bv 4 w 4))
  | 0x12 => if fld w 4 3 = 0 then .ok (.vpart (vr w 20) (xr w 15) (xr w 10) (kr w 7)) else .reserved
  | 0x13 => decodeV13 w
  | 0x14 => decodeV14 w
  | 0x15 => decodeV15 w
  | _ => .illegal

/-- Major 0x60: lease, lrel. -/
noncomputable def decodeM60 (w : Nat) : DecRes :=
  match fld w 4 4 with
  | 0 => if fld w 8 11 = 0 then .ok (.lease (xr w 19)) else .reserved
  | 1 => if fld w 8 16 = 0 then .ok .lrel else .reserved
  | _ => .reserved

/-- Major 0x64: mzero, mread, mwrite, mscale. -/
noncomputable def decodeM64 (w : Nat) : DecRes :=
  match fld w 4 4 with
  | 0 => if fld w 8 2 = 0 ∧ fld w 19 5 = 0 then .ok (.mzero (xr w 14) (bv 4 w 10)) else .reserved
  | 1 => .ok (.mread (xr w 19) (xr w 14) (bv 4 w 10) (bt w 9) (bt w 8) none)
  | 2 => if fld w 8 2 = 0 then .ok (.mwrite (xr w 19) (xr w 14) (bv 4 w 10)) else .reserved
  | 3 => if fld w 8 6 = 0 then .ok (.mscale (xr w 19) (xr w 14) none) else .reserved
  | _ => .reserved

/-- Class M on M-cores (R147, R247). -/
noncomputable def decodeM (maj w w2 : Nat) : DecRes :=
  match maj with
  | 0x60 => decodeM60 w
  | 0x61 => if fld w 4 6 = 0 ∧ fld w2 0 15 = 0 ∧ fld w2 27 1 = 0 then .ok (.mbld (xr w 19) (xr w 14) (bv 2 w 12) (bt w 11) (bt w 10) (bv 4 w2 28) (bv 3 w2 24) (bv 8 w2 16) (bt w2 15)) else .reserved
  | 0x62 => if fld w 4 8 = 0 ∧ fld w2 0 5 = 0 ∧ fld w2 23 2 = 0 then .ok (.mmma (xr w 19) (xr w 14) (bt w 13) (bt w 12) (bv 4 w2 28) (bv 3 w2 25) (bt w2 22) (bt w2 21) (bv 8 w2 13) (bv 8 w2 5) none) else .reserved
  | 0x63 => if fld w 4 15 = 0 then .ok (.mlat (xr w 19) (bv 32 w2 0)) else .reserved
  | 0x64 => decodeM64 w
  | 0x65 => if fld w 4 4 = 0 ∧ fld w 9 5 = 0 ∧ fld w 19 5 = 0 then .ok (.mtile (xr w 14) (bt w 8)) else .reserved
  | 0x66 => if fld w 4 15 = 0 then .ok (.mprog (xr w 19)) else .reserved
  | 0x67 => .ok (.mgemv (xr w 19) (xr w 14) (xr w 9) (xr w 4) (bv 4 w2 28) (bv 12 w2 16) (bv 16 w2 0) none)
  | 0x68 => if fld w 4 4 = 0 ∧ fld w 9 10 = 0 then .ok (.mstat (xr w 19) (bt w 8)) else .reserved
  | _ => .illegal

/-- Class G on G-cores (R147, R286). -/
noncomputable def decodeG (maj w w2 : Nat) : DecRes :=
  match maj with
  | 0x60 => if fld w 4 5 = 0 then .ok (.gemb (xr w 19) (xr w 14) (xr w 9) (bv 3 w2 29) (bv 2 w2 27) (bv 11 w2 16) (bv 16 w2 0)) else .reserved
  | 0x61 => if fld w 4 5 = 0 then .ok (.gbmand (xr w 19) (xr w 14) (xr w 9)) else .reserved
  | 0x62 => if fld w 4 5 = 0 then .ok (.gpopx (xr w 19) (xr w 14) (xr w 9)) else .reserved
  | 0x63 => .ok (.gisect (xr w 19) (xr w 14) (xr w 9) (xr w 4))
  | 0x64 => if fld w 4 2 = 0 then .ok (.gscadd (vr w 20) (vr w 16) (xr w 11) (xr w 6)) else .reserved
  | 0x65 => if fld w 4 2 = 0 ∧ fld w 20 4 = 0 then .ok (.ghist (vr w 16) (xr w 11) (xr w 6)) else .reserved
  | 0x66 => if fld w 4 2 = 0 ∧ fld w 11 5 = 0 then .ok (.gtopk (vr w 20) (vr w 16) (xr w 6)) else .reserved
  | 0x67 => if fld w 5 11 = 0 then .ok (.gsortk (vr w 20) (vr w 16) (bt w 4)) else .reserved
  | 0x68 => if fld w 4 5 = 0 ∧ fld w 19 5 = 0 then .ok (.gcfg (xr w 14) (xr w 9)) else .reserved
  | 0x69 => if fld w 4 5 = 0 ∧ fld w 10 9 = 0 then .ok (.gstat (xr w 19) (bt w 9)) else .reserved
  | _ => .illegal

/-- Class X on a die sequencer (R148): every word has S = 0. -/
noncomputable def decodeX (maj w : Nat) : DecRes :=
  match XOp.ofMajor maj with
  | none => .illegal
  | some _ =>
    if fld w 2 1 = 0 then
      match xword (w - fld w 3 1 * 8) with
      | some x => .ok x.toInstr
      | none => .reserved
    else .reserved

/-- The class that decodes a word on a unit (R144). -/
noncomputable def decodeFields (u : UnitClass) (w w2 : Nat) : DecRes :=
  let maj := fld w 24 7
  if fld w 31 1 = 0 then decodeC maj w w2
  else
    match u with
    | .seq => decodeX maj w
    | .m => if maj < 0x60 then (if maj = 0x15 then .illegal else decodeV maj w w2) else decodeM maj w w2
    | .g => if maj < 0x60 then (if maj = 0x15 then .illegal else decodeV maj w w2) else decodeG maj w w2
    | .v => if maj < 0x60 then decodeV maj w w2 else .illegal

/-- The instruction with a prefix bound to it; none for an instruction that is not modifiable (R132). -/
noncomputable def Instr.withPfx (i : Instr) (p : Prefix) : Option Instr :=
  match i with
  | .add d a b _ => some (.add d a b (some p))
  | .sub d a b _ => some (.sub d a b (some p))
  | .mul d a b _ => some (.mul d a b (some p))
  | .addi d a i _ => some (.addi d a i (some p))
  | .vadd d a b c _ => some (.vadd d a b c (some p))
  | .vsub d a b c _ => some (.vsub d a b c (some p))
  | .vmul d a b c _ => some (.vmul d a b c (some p))
  | .vfma d a b c _ => some (.vfma d a b c (some p))
  | .vfms d a b c _ => some (.vfms d a b c (some p))
  | .vmin d a b c _ => some (.vmin d a b c (some p))
  | .vmax d a b c _ => some (.vmax d a b c (some p))
  | .vdiv d a b c _ => some (.vdiv d a b c (some p))
  | .vsqrt d a c _ => some (.vsqrt d a c (some p))
  | .vrsqrt d a c _ => some (.vrsqrt d a c (some p))
  | .viadd d a b c _ => some (.viadd d a b c (some p))
  | .visub d a b c _ => some (.visub d a b c (some p))
  | .vimul d a b c _ => some (.vimul d a b c (some p))
  | .vimad d a b c _ => some (.vimad d a b c (some p))
  | .vimin d a b c _ => some (.vimin d a b c (some p))
  | .vimax d a b c _ => some (.vimax d a b c (some p))
  | .viminu d a b c _ => some (.viminu d a b c (some p))
  | .vimaxu d a b c _ => some (.vimaxu d a b c (some p))
  | .viabs d a c _ => some (.viabs d a c (some p))
  | .vcvt d a t o g h _ => some (.vcvt d a t o g h (some p))
  | .vqnt d a b c _ => some (.vqnt d a b c (some p))
  | .vdqnt d a b c _ => some (.vdqnt d a b c (some p))
  | .vtolns d a h _ => some (.vtolns d a h (some p))
  | .vfromlns d a t h _ => some (.vfromlns d a t h (some p))
  | .vlmul d a b _ => some (.vlmul d a b (some p))
  | .vldiv d a b _ => some (.vldiv d a b (some p))
  | .vlsqrt d a _ => some (.vlsqrt d a (some p))
  | .vlrsqrt d a _ => some (.vlrsqrt d a (some p))
  | .vlpow d a b _ => some (.vlpow d a b (some p))
  | .vsumr d a c _ => some (.vsumr d a c (some p))
  | .vmaxr d a c _ => some (.vmaxr d a c (some p))
  | .vminr d a c _ => some (.vminr d a c (some p))
  | .vsumc d a c _ => some (.vsumc d a c (some p))
  | .vmaxc d a c _ => some (.vmaxc d a c (some p))
  | .vminc d a c _ => some (.vminc d a c (some p))
  | .mmma a r bs clr t lat nh ge grp hd _ => some (.mmma a r bs clr t lat nh ge grp hd (some p))
  | .mread a r t o g _ => some (.mread a r t o g (some p))
  | .mscale a r _ => some (.mscale a r (some p))
  | .mgemv b x y sw t kc mm _ => some (.mgemv b x y sw t kc mm (some p))
  | _ => none

/-- The prefix bound to an instruction. -/
def Instr.pfx? : Instr → Option Prefix
  | .add _ _ _ p | .sub _ _ _ p | .mul _ _ _ p | .addi _ _ _ p | .vadd _ _ _ _ p | .vsub _ _ _ _ p
  | .vmul _ _ _ _ p | .vfma _ _ _ _ p | .vfms _ _ _ _ p | .vmin _ _ _ _ p | .vmax _ _ _ _ p | .vdiv _ _ _ _ p
  | .vsqrt _ _ _ p | .vrsqrt _ _ _ p | .viadd _ _ _ _ p | .visub _ _ _ _ p | .vimul _ _ _ _ p | .vimad _ _ _ _ p
  | .vimin _ _ _ _ p | .vimax _ _ _ _ p | .viminu _ _ _ _ p | .vimaxu _ _ _ _ p | .viabs _ _ _ p
  | .vcvt _ _ _ _ _ _ p | .vqnt _ _ _ _ p | .vdqnt _ _ _ _ p | .vtolns _ _ _ p | .vfromlns _ _ _ _ p
  | .vlmul _ _ _ p | .vldiv _ _ _ p | .vlsqrt _ _ p | .vlrsqrt _ _ p | .vlpow _ _ _ p | .vsumr _ _ _ p
  | .vmaxr _ _ _ p | .vminr _ _ _ p | .vsumc _ _ _ p | .vmaxc _ _ _ p | .vminc _ _ _ p
  | .mmma _ _ _ _ _ _ _ _ _ _ p | .mread _ _ _ _ _ p | .mscale _ _ p | .mgemv _ _ _ _ _ _ _ p => p
  | _ => none

/-- A prefix word (R131). -/
def Prefix.ofWord (w : Nat) : Prefix := ⟨bv 3 w 29, bv 3 w 26, bt w 25, bt w 24, bv 6 w 18⟩
def Prefix.toWord (p : Prefix) : Nat :=
  p.rnd.toNat * 536870912 + p.sat.toNat * 67108864 + p.neg.toNat * 33554432 + p.abs.toNat * 16777216 +
    p.scale.toNat * 262144 + 2

/-- An issue group: the S bit of its instruction word, and the instruction with the prefix bound to it (R133). -/
structure Group where
  sync : Bool
  instr : Instr
  deriving DecidableEq, Repr

/-- The decode faults of R136, in its order. -/
inductive DecodeFault where
  | outside       -- order 1, the first word lies outside the code: access fault
  | orphan        -- order 2, prefix fault, INFO 0
  | illegal       -- orders 3 and 6, illegal instruction
  | unbound       -- order 4, prefix fault, INFO 1
  | outsideSecond -- order 5, the second word lies outside the code: access fault
  | reserved      -- order 7, reserved encoding
  deriving DecidableEq, Repr

/-- What decoding a group gives: a fault, or the group with its length in bytes and the length of its prefix. -/
inductive Decoded where
  | fault (f : DecodeFault)
  | group (g : Group) (len pre : Nat)
  deriving DecidableEq, Repr

/-- The instruction of a word on a unit, orders 6 and 7 of R136. `sup` holds in supervisor mode; `sret` and `wcinv` have
no meaning outside it (R194). -/
noncomputable def decodeWord (u : UnitClass) (sup : Bool) (w w2 : Nat) (pfx : Option Nat) : Except DecodeFault Instr :=
  if fld w 24 8 = 0 ∧ sup = false ∧ (fld w 4 5 = 3 ∨ fld w 4 5 = 4) then .error .illegal
  else
    match decodeFields u w w2 with
    | .illegal => .error .illegal
    | .reserved => .error .reserved
    | .ok i =>
      if i.wordCount = fld w 0 2 + 1 then
        match pfx with
        | none => if i.wf then .ok i else .error .reserved
        | some pw =>
          match i.withPfx (.ofWord pw) with
          | some j => if fld pw 2 16 = 0 ∧ j.wf then .ok j else .error .reserved
          | none => .error .reserved
      else .error .reserved

/-- A group whose instruction word is `w` at address `a`, its prefix word (if any) before it: orders 3 to 7. -/
noncomputable def decodeAt (u : UnitClass) (sup : Bool) (code : Nat → Option Nat) (a w : Nat) (pfx : Option Nat) : Decoded :=
  let pre := if pfx.isSome then 4 else 0
  if fld w 0 2 = 1 then
    match code (a + 4) with
    | none => .fault .outsideSecond
    | some w2 =>
      match decodeWord u sup w w2 pfx with
      | .ok i => .group ⟨bt w 2, i⟩ (pre + 8) pre
      | .error f => .fault f
  else
    match decodeWord u sup w 0 pfx with
    | .ok i => .group ⟨bt w 2, i⟩ (pre + 4) pre
    | .error f => .fault f

/-- Decoding of the group at address `a` of a code that gives the word at each address, or nothing outside it (R133-R136). -/
noncomputable def decodeGroup (u : UnitClass) (sup : Bool) (code : Nat → Option Nat) (a : Nat) : Decoded :=
  match code a with
  | none => .fault .outside
  | some w =>
    if fld w 0 2 = 2 then
      match code (a + 4) with
      | none => .fault .orphan
      | some w1 =>
        if fld w1 3 1 = 0 ∨ 2 ≤ fld w1 0 2 then .fault .orphan
        else decodeAt u sup code (a + 4) w1 (some w)
    else if fld w 0 2 = 3 then .fault .illegal
    else if fld w 3 1 = 1 then .fault .unbound
    else decodeAt u sup code a w none

/-- The S bit of the group at an address: that of its instruction word (R133, R140). A member whose prefix is an orphan has no
instruction word, and the manual does not say whether it is in a bundle: bit 2 of the word after the prefix decides, whatever its M
and LEN, and it is in none where that word lies outside the code (DESIGN CHOICE, notes/assumptions/75.md). -/
def groupSync (code : Nat → Option Nat) (a : Nat) : Bool :=
  match code a with
  | none => false
  | some w =>
    if fld w 0 2 = 2 then
      match code (a + 4) with
      | none => false
      | some w1 => bt w1 2
    else bt w 2

/-- M of an instruction word: a prefix is bound to it (R125). -/
def pfxBit : Option Prefix → Nat
  | none => 0
  | some _ => 1

/-- The words of an instruction, without S: its first word (with M set when a prefix is bound) and its second word.
Events have none. -/
def Instr.words : Instr → Option (Nat × Option Nat)
  | .nop => some (0x00000000, none)
  | .trap n => some (0x00000010 + n.toNat * 512, none)
  | .brk n => some (0x00000020 + n.toNat * 512, none)
  | .sret => some (0x00000030, none)
  | .wcinv => some (0x00000040, none)
  | .add d a b pfx => some (0x01000000 + d.val * 524288 + a.val * 16384 + b.val * 512 + pfxBit pfx * 8, none)
  | .sub d a b pfx => some (0x01000010 + d.val * 524288 + a.val * 16384 + b.val * 512 + pfxBit pfx * 8, none)
  | .and d a b => some (0x01000020 + d.val * 524288 + a.val * 16384 + b.val * 512, none)
  | .or d a b => some (0x01000030 + d.val * 524288 + a.val * 16384 + b.val * 512, none)
  | .xor d a b => some (0x01000040 + d.val * 524288 + a.val * 16384 + b.val * 512, none)
  | .andn d a b => some (0x01000050 + d.val * 524288 + a.val * 16384 + b.val * 512, none)
  | .sll d a b => some (0x01000060 + d.val * 524288 + a.val * 16384 + b.val * 512, none)
  | .srl d a b => some (0x01000070 + d.val * 524288 + a.val * 16384 + b.val * 512, none)
  | .sra d a b => some (0x01000080 + d.val * 524288 + a.val * 16384 + b.val * 512, none)
  | .slt d a b => some (0x01000090 + d.val * 524288 + a.val * 16384 + b.val * 512, none)
  | .sltu d a b => some (0x010000A0 + d.val * 524288 + a.val * 16384 + b.val * 512, none)
  | .min d a b => some (0x010000B0 + d.val * 524288 + a.val * 16384 + b.val * 512, none)
  | .max d a b => some (0x010000C0 + d.val * 524288 + a.val * 16384 + b.val * 512, none)
  | .minu d a b => some (0x010000D0 + d.val * 524288 + a.val * 16384 + b.val * 512, none)
  | .maxu d a b => some (0x010000E0 + d.val * 524288 + a.val * 16384 + b.val * 512, none)
  | .mul d a b pfx => some (0x010000F0 + d.val * 524288 + a.val * 16384 + b.val * 512 + pfxBit pfx * 8, none)
  | .mulh d a b => some (0x01000100 + d.val * 524288 + a.val * 16384 + b.val * 512, none)
  | .mulhu d a b => some (0x01000110 + d.val * 524288 + a.val * 16384 + b.val * 512, none)
  | .div d a b => some (0x02000000 + d.val * 524288 + a.val * 16384 + b.val * 512, none)
  | .divu d a b => some (0x02000010 + d.val * 524288 + a.val * 16384 + b.val * 512, none)
  | .rem d a b => some (0x02000020 + d.val * 524288 + a.val * 16384 + b.val * 512, none)
  | .remu d a b => some (0x02000030 + d.val * 524288 + a.val * 16384 + b.val * 512, none)
  | .addi d a i pfx => some (0x03000000 + d.val * 524288 + a.val * 16384 + i.toNat * 16 + pfxBit pfx * 8, none)
  | .andi d a i => some (0x04000000 + d.val * 524288 + a.val * 16384 + i.toNat * 16, none)
  | .ori d a i => some (0x05000000 + d.val * 524288 + a.val * 16384 + i.toNat * 16, none)
  | .xori d a i => some (0x06000000 + d.val * 524288 + a.val * 16384 + i.toNat * 16, none)
  | .slti d a i => some (0x07000000 + d.val * 524288 + a.val * 16384 + i.toNat * 16, none)
  | .sltiu d a i => some (0x08000000 + d.val * 524288 + a.val * 16384 + i.toNat * 16, none)
  | .slli d a i => some (0x09000000 + d.val * 524288 + a.val * 16384 + i.toNat * 16, none)
  | .srli d a i => some (0x0A000000 + d.val * 524288 + a.val * 16384 + i.toNat * 16, none)
  | .srai d a i => some (0x0B000000 + d.val * 524288 + a.val * 16384 + i.toNat * 16, none)
  | .lui d i => some (0x0C000000 + d.val * 524288 + i.toNat * 16, none)
  | .li d imm => some (0x0D000001 + d.val * 524288, some (imm.toNat))
  | .lih d imm => some (0x0E000001 + d.val * 524288, some (imm.toNat))
  | .adpc d i => some (0x0F000000 + d.val * 524288 + i.toNat * 16, none)
  | .bextZ d a b => some (0x10000000 + d.val * 524288 + a.val * 16384 + b.val * 512, none)
  | .bextS d a b => some (0x10000010 + d.val * 524288 + a.val * 16384 + b.val * 512, none)
  | .bins d a b => some (0x10000020 + d.val * 524288 + a.val * 16384 + b.val * 512, none)
  | .bextiZ d a wc off => some (0x11000001 + d.val * 524288 + a.val * 16384, some (wc.toNat * 64 + off.toNat))
  | .bextiS d a wc off => some (0x11000011 + d.val * 524288 + a.val * 16384, some (wc.toNat * 64 + off.toNat))
  | .binsi d a wc off => some (0x11000021 + d.val * 524288 + a.val * 16384, some (wc.toNat * 64 + off.toNat))
  | .clz d a => some (0x12000000 + d.val * 524288 + a.val * 16384, none)
  | .ctz d a => some (0x12000010 + d.val * 524288 + a.val * 16384, none)
  | .popc d a => some (0x12000020 + d.val * 524288 + a.val * 16384, none)
  | .brev d a => some (0x12000030 + d.val * 524288 + a.val * 16384, none)
  | .shadd1 d a b => some (0x13000000 + d.val * 524288 + a.val * 16384 + b.val * 512, none)
  | .shadd2 d a b => some (0x13000010 + d.val * 524288 + a.val * 16384 + b.val * 512, none)
  | .shadd3 d a b => some (0x13000020 + d.val * 524288 + a.val * 16384 + b.val * 512, none)
  | .beq d a i => some (0x18000000 + d.val * 524288 + a.val * 16384 + i.toNat * 16, none)
  | .bne d a i => some (0x19000000 + d.val * 524288 + a.val * 16384 + i.toNat * 16, none)
  | .blt d a i => some (0x1A000000 + d.val * 524288 + a.val * 16384 + i.toNat * 16, none)
  | .bge d a i => some (0x1B000000 + d.val * 524288 + a.val * 16384 + i.toNat * 16, none)
  | .bltu d a i => some (0x1C000000 + d.val * 524288 + a.val * 16384 + i.toNat * 16, none)
  | .bgeu d a i => some (0x1D000000 + d.val * 524288 + a.val * 16384 + i.toNat * 16, none)
  | .jmp i => some (0x1E000000 + i.toNat * 16, none)
  | .call i => some (0x1F000000 + i.toNat * 16, none)
  | .jr a => some (0x20000000 + a.val * 16384, none)
  | .callr a => some (0x20000010 + a.val * 16384, none)
  | .ret => some (0x20000020, none)
  | .loop n a ofs => some (0x21000001 + n.val * 524288 + a.val * 16384, some (ofs.toNat))
  | .loopi n count ofs => some (0x22000001 + n.val * 524288 + count.toNat * 16, some (ofs.toNat))
  | .ldS8 d a i => some (0x28000000 + d.val * 524288 + a.val * 16384 + i.toNat * 16, none)
  | .ldZ8 d a i => some (0x29000000 + d.val * 524288 + a.val * 16384 + i.toNat * 16, none)
  | .ldS16 d a i => some (0x2A000000 + d.val * 524288 + a.val * 16384 + i.toNat * 16, none)
  | .ldZ16 d a i => some (0x2B000000 + d.val * 524288 + a.val * 16384 + i.toNat * 16, none)
  | .ldS32 d a i => some (0x2C000000 + d.val * 524288 + a.val * 16384 + i.toNat * 16, none)
  | .ldZ32 d a i => some (0x2D000000 + d.val * 524288 + a.val * 16384 + i.toNat * 16, none)
  | .ld64 d a i => some (0x2E000000 + d.val * 524288 + a.val * 16384 + i.toNat * 16, none)
  | .st8 d a i => some (0x2F000000 + d.val * 524288 + a.val * 16384 + i.toNat * 16, none)
  | .st16 d a i => some (0x30000000 + d.val * 524288 + a.val * 16384 + i.toNat * 16, none)
  | .st32 d a i => some (0x31000000 + d.val * 524288 + a.val * 16384 + i.toNat * 16, none)
  | .st64 d a i => some (0x32000000 + d.val * 524288 + a.val * 16384 + i.toNat * 16, none)
  | .aadd8 d a b => some (0x35000000 + d.val * 524288 + a.val * 16384 + b.val * 512, none)
  | .aswp8 d a b => some (0x35000010 + d.val * 524288 + a.val * 16384 + b.val * 512, none)
  | .aand8 d a b => some (0x35000020 + d.val * 524288 + a.val * 16384 + b.val * 512, none)
  | .aor8 d a b => some (0x35000030 + d.val * 524288 + a.val * 16384 + b.val * 512, none)
  | .axor8 d a b => some (0x35000040 + d.val * 524288 + a.val * 16384 + b.val * 512, none)
  | .amin8 d a b => some (0x35000050 + d.val * 524288 + a.val * 16384 + b.val * 512, none)
  | .amax8 d a b => some (0x35000060 + d.val * 524288 + a.val * 16384 + b.val * 512, none)
  | .aminu8 d a b => some (0x35000070 + d.val * 524288 + a.val * 16384 + b.val * 512, none)
  | .amaxu8 d a b => some (0x35000080 + d.val * 524288 + a.val * 16384 + b.val * 512, none)
  | .acas8 d a b => some (0x35000090 + d.val * 524288 + a.val * 16384 + b.val * 512, none)
  | .aadd16 d a b => some (0x36000000 + d.val * 524288 + a.val * 16384 + b.val * 512, none)
  | .aswp16 d a b => some (0x36000010 + d.val * 524288 + a.val * 16384 + b.val * 512, none)
  | .aand16 d a b => some (0x36000020 + d.val * 524288 + a.val * 16384 + b.val * 512, none)
  | .aor16 d a b => some (0x36000030 + d.val * 524288 + a.val * 16384 + b.val * 512, none)
  | .axor16 d a b => some (0x36000040 + d.val * 524288 + a.val * 16384 + b.val * 512, none)
  | .amin16 d a b => some (0x36000050 + d.val * 524288 + a.val * 16384 + b.val * 512, none)
  | .amax16 d a b => some (0x36000060 + d.val * 524288 + a.val * 16384 + b.val * 512, none)
  | .aminu16 d a b => some (0x36000070 + d.val * 524288 + a.val * 16384 + b.val * 512, none)
  | .amaxu16 d a b => some (0x36000080 + d.val * 524288 + a.val * 16384 + b.val * 512, none)
  | .acas16 d a b => some (0x36000090 + d.val * 524288 + a.val * 16384 + b.val * 512, none)
  | .aadd32 d a b => some (0x37000000 + d.val * 524288 + a.val * 16384 + b.val * 512, none)
  | .aswp32 d a b => some (0x37000010 + d.val * 524288 + a.val * 16384 + b.val * 512, none)
  | .aand32 d a b => some (0x37000020 + d.val * 524288 + a.val * 16384 + b.val * 512, none)
  | .aor32 d a b => some (0x37000030 + d.val * 524288 + a.val * 16384 + b.val * 512, none)
  | .axor32 d a b => some (0x37000040 + d.val * 524288 + a.val * 16384 + b.val * 512, none)
  | .amin32 d a b => some (0x37000050 + d.val * 524288 + a.val * 16384 + b.val * 512, none)
  | .amax32 d a b => some (0x37000060 + d.val * 524288 + a.val * 16384 + b.val * 512, none)
  | .aminu32 d a b => some (0x37000070 + d.val * 524288 + a.val * 16384 + b.val * 512, none)
  | .amaxu32 d a b => some (0x37000080 + d.val * 524288 + a.val * 16384 + b.val * 512, none)
  | .acas32 d a b => some (0x37000090 + d.val * 524288 + a.val * 16384 + b.val * 512, none)
  | .aadd64 d a b => some (0x38000000 + d.val * 524288 + a.val * 16384 + b.val * 512, none)
  | .aswp64 d a b => some (0x38000010 + d.val * 524288 + a.val * 16384 + b.val * 512, none)
  | .aand64 d a b => some (0x38000020 + d.val * 524288 + a.val * 16384 + b.val * 512, none)
  | .aor64 d a b => some (0x38000030 + d.val * 524288 + a.val * 16384 + b.val * 512, none)
  | .axor64 d a b => some (0x38000040 + d.val * 524288 + a.val * 16384 + b.val * 512, none)
  | .amin64 d a b => some (0x38000050 + d.val * 524288 + a.val * 16384 + b.val * 512, none)
  | .amax64 d a b => some (0x38000060 + d.val * 524288 + a.val * 16384 + b.val * 512, none)
  | .aminu64 d a b => some (0x38000070 + d.val * 524288 + a.val * 16384 + b.val * 512, none)
  | .amaxu64 d a b => some (0x38000080 + d.val * 524288 + a.val * 16384 + b.val * 512, none)
  | .acas64 d a b => some (0x38000090 + d.val * 524288 + a.val * 16384 + b.val * 512, none)
  | .ldgS8 d a disp tok => some (0x33000001 + d.val * 524288 + a.val * 16384, some (disp.toNat * 256 + tok.toNat))
  | .ldgZ8 d a disp tok => some (0x33000011 + d.val * 524288 + a.val * 16384, some (disp.toNat * 256 + tok.toNat))
  | .ldgS16 d a disp tok => some (0x33000021 + d.val * 524288 + a.val * 16384, some (disp.toNat * 256 + tok.toNat))
  | .ldgZ16 d a disp tok => some (0x33000031 + d.val * 524288 + a.val * 16384, some (disp.toNat * 256 + tok.toNat))
  | .ldgS32 d a disp tok => some (0x33000041 + d.val * 524288 + a.val * 16384, some (disp.toNat * 256 + tok.toNat))
  | .ldgZ32 d a disp tok => some (0x33000051 + d.val * 524288 + a.val * 16384, some (disp.toNat * 256 + tok.toNat))
  | .ldg64 d a disp tok => some (0x33000061 + d.val * 524288 + a.val * 16384, some (disp.toNat * 256 + tok.toNat))
  | .stg8 d a disp tok => some (0x34000001 + d.val * 524288 + a.val * 16384, some (disp.toNat * 256 + tok.toNat))
  | .stg16 d a disp tok => some (0x34000011 + d.val * 524288 + a.val * 16384, some (disp.toNat * 256 + tok.toNat))
  | .stg32 d a disp tok => some (0x34000021 + d.val * 524288 + a.val * 16384, some (disp.toNat * 256 + tok.toNat))
  | .stg64 d a disp tok => some (0x34000031 + d.val * 524288 + a.val * 16384, some (disp.toNat * 256 + tok.toNat))
  | .aaddG32 d a b disp tok => some (0x39000001 + d.val * 524288 + a.val * 16384 + b.val * 512, some (disp.toNat * 256 + tok.toNat))
  | .aswpG32 d a b disp tok => some (0x39000011 + d.val * 524288 + a.val * 16384 + b.val * 512, some (disp.toNat * 256 + tok.toNat))
  | .aandG32 d a b disp tok => some (0x39000021 + d.val * 524288 + a.val * 16384 + b.val * 512, some (disp.toNat * 256 + tok.toNat))
  | .aorG32 d a b disp tok => some (0x39000031 + d.val * 524288 + a.val * 16384 + b.val * 512, some (disp.toNat * 256 + tok.toNat))
  | .axorG32 d a b disp tok => some (0x39000041 + d.val * 524288 + a.val * 16384 + b.val * 512, some (disp.toNat * 256 + tok.toNat))
  | .aminG32 d a b disp tok => some (0x39000051 + d.val * 524288 + a.val * 16384 + b.val * 512, some (disp.toNat * 256 + tok.toNat))
  | .amaxG32 d a b disp tok => some (0x39000061 + d.val * 524288 + a.val * 16384 + b.val * 512, some (disp.toNat * 256 + tok.toNat))
  | .aminuG32 d a b disp tok => some (0x39000071 + d.val * 524288 + a.val * 16384 + b.val * 512, some (disp.toNat * 256 + tok.toNat))
  | .amaxuG32 d a b disp tok => some (0x39000081 + d.val * 524288 + a.val * 16384 + b.val * 512, some (disp.toNat * 256 + tok.toNat))
  | .acasG32 d a b disp tok => some (0x39000091 + d.val * 524288 + a.val * 16384 + b.val * 512, some (disp.toNat * 256 + tok.toNat))
  | .aaddG64 d a b disp tok => some (0x3A000001 + d.val * 524288 + a.val * 16384 + b.val * 512, some (disp.toNat * 256 + tok.toNat))
  | .aswpG64 d a b disp tok => some (0x3A000011 + d.val * 524288 + a.val * 16384 + b.val * 512, some (disp.toNat * 256 + tok.toNat))
  | .aandG64 d a b disp tok => some (0x3A000021 + d.val * 524288 + a.val * 16384 + b.val * 512, some (disp.toNat * 256 + tok.toNat))
  | .aorG64 d a b disp tok => some (0x3A000031 + d.val * 524288 + a.val * 16384 + b.val * 512, some (disp.toNat * 256 + tok.toNat))
  | .axorG64 d a b disp tok => some (0x3A000041 + d.val * 524288 + a.val * 16384 + b.val * 512, some (disp.toNat * 256 + tok.toNat))
  | .aminG64 d a b disp tok => some (0x3A000051 + d.val * 524288 + a.val * 16384 + b.val * 512, some (disp.toNat * 256 + tok.toNat))
  | .amaxG64 d a b disp tok => some (0x3A000061 + d.val * 524288 + a.val * 16384 + b.val * 512, some (disp.toNat * 256 + tok.toNat))
  | .aminuG64 d a b disp tok => some (0x3A000071 + d.val * 524288 + a.val * 16384 + b.val * 512, some (disp.toNat * 256 + tok.toNat))
  | .amaxuG64 d a b disp tok => some (0x3A000081 + d.val * 524288 + a.val * 16384 + b.val * 512, some (disp.toNat * 256 + tok.toNat))
  | .acasG64 d a b disp tok => some (0x3A000091 + d.val * 524288 + a.val * 16384 + b.val * 512, some (disp.toNat * 256 + tok.toNat))
  | .swset a b => some (0x3C000000 + a.val * 16384 + b.val * 512, none)
  | .waitK k => some (0x3D000000 + k.toNat * 16384, none)
  | .waitG a b => some (0x3D000010 + a.val * 16384 + b.val * 512, none)
  | .fence c k => some (0x3E000000 + c.toNat * 64 + k.toNat * 16, none)
  | .afence t l => some (0x3F000000 + t.toNat * 1024 + l.toNat * 16, none)
  | .barr g => some (0x40000000 + g.toNat * 16384, none)
  | .barw g d => some (0x40000010 + g.toNat * 16384 + d.val * 512, none)
  | .barrw g d => some (0x40000020 + g.toNat * 16384 + d.val * 512, none)
  | .anchor i => some (0x41000000 + i.toNat * 16, none)
  | .chkpt n => some (0x42000000 + n.toNat * 16, none)
  | .enq a x => some (0x43000001 + a.val * 16384, some x.encode)
  | .drain => some (0x44000000, none)
  | .retire => some (0x44000010, none)
  | .twait a => some (0x45000000 + a.val * 16384, none)
  | .waitw a => some (0x45000010 + a.val * 16384, none)
  | .csrr d r => some (0x46000000 + d.val * 524288 + r.toNat * 16, none)
  | .csrw d r => some (0x47000000 + d.val * 524288 + r.toNat * 16, none)
  | .vld v a t disp nr => some (0x80000001 + v.val * 1048576 + a.val * 32768 + t.toNat * 2048, some (disp.toNat * 4096 + nr.toNat * 256))
  | .vst v a disp nr => some (0x81000001 + v.val * 1048576 + a.val * 32768, some (disp.toNat * 4096 + nr.toNat * 256))
  | .kld k a disp => some (0x82000001 + k.val * 1048576 + a.val * 32768, some (disp.toNat * 4096))
  | .kst k a disp => some (0x82000011 + k.val * 1048576 + a.val * 32768, some (disp.toNat * 4096))
  | .bld c a disp => some (0x83000001 + c.val * 1048576 + a.val * 32768, some (disp.toNat * 4096))
  | .bst c a disp => some (0x83000011 + c.val * 1048576 + a.val * 32768, some (disp.toNat * 4096))
  | .vldg v a t disp tok => some (0x84000001 + v.val * 1048576 + a.val * 32768 + t.toNat * 2048, some (disp.toNat * 256 + tok.toNat))
  | .vstg v a disp tok => some (0x85000001 + v.val * 1048576 + a.val * 32768, some (disp.toNat * 256 + tok.toNat))
  | .vmov d a c => some (0x86000000 + d.val * 1048576 + a.val * 65536 + maskCode c * 256, none)
  | .vsel d a b k => some (0x86000010 + d.val * 1048576 + a.val * 65536 + b.val * 4096 + maskCode k * 256, none)
  | .vsplat v a t => some (0x86000020 + v.val * 1048576 + a.val * 32768 + t.toNat * 1024, none)
  | .vins v a b => some (0x86000030 + v.val * 1048576 + a.val * 32768 + b.val * 1024, none)
  | .vext v a b => some (0x86000040 + v.val * 1048576 + a.val * 32768 + b.val * 1024, none)
  | .vand d a b c => some (0x87000000 + d.val * 1048576 + a.val * 65536 + b.val * 4096 + maskCode c * 256, none)
  | .vor d a b c => some (0x87000010 + d.val * 1048576 + a.val * 65536 + b.val * 4096 + maskCode c * 256, none)
  | .vxor d a b c => some (0x87000020 + d.val * 1048576 + a.val * 65536 + b.val * 4096 + maskCode c * 256, none)
  | .vnot d a c => some (0x87000030 + d.val * 1048576 + a.val * 65536 + maskCode c * 256, none)
  | .vsll d a b c => some (0x87000040 + d.val * 1048576 + a.val * 65536 + b.val * 4096 + maskCode c * 256, none)
  | .vsrl d a b c => some (0x87000050 + d.val * 1048576 + a.val * 65536 + b.val * 4096 + maskCode c * 256, none)
  | .vsra d a b c => some (0x87000060 + d.val * 1048576 + a.val * 65536 + b.val * 4096 + maskCode c * 256, none)
  | .vadd d a b c pfx => some (0x88000000 + d.val * 1048576 + a.val * 65536 + b.val * 4096 + maskCode c * 256 + pfxBit pfx * 8, none)
  | .vsub d a b c pfx => some (0x88000010 + d.val * 1048576 + a.val * 65536 + b.val * 4096 + maskCode c * 256 + pfxBit pfx * 8, none)
  | .vmul d a b c pfx => some (0x88000020 + d.val * 1048576 + a.val * 65536 + b.val * 4096 + maskCode c * 256 + pfxBit pfx * 8, none)
  | .vfma d a b c pfx => some (0x88000030 + d.val * 1048576 + a.val * 65536 + b.val * 4096 + maskCode c * 256 + pfxBit pfx * 8, none)
  | .vfms d a b c pfx => some (0x88000040 + d.val * 1048576 + a.val * 65536 + b.val * 4096 + maskCode c * 256 + pfxBit pfx * 8, none)
  | .vmin d a b c pfx => some (0x88000050 + d.val * 1048576 + a.val * 65536 + b.val * 4096 + maskCode c * 256 + pfxBit pfx * 8, none)
  | .vmax d a b c pfx => some (0x88000060 + d.val * 1048576 + a.val * 65536 + b.val * 4096 + maskCode c * 256 + pfxBit pfx * 8, none)
  | .vdiv d a b c pfx => some (0x88000070 + d.val * 1048576 + a.val * 65536 + b.val * 4096 + maskCode c * 256 + pfxBit pfx * 8, none)
  | .vsqrt d a c pfx => some (0x88000080 + d.val * 1048576 + a.val * 65536 + maskCode c * 256 + pfxBit pfx * 8, none)
  | .vrsqrt d a c pfx => some (0x88000090 + d.val * 1048576 + a.val * 65536 + maskCode c * 256 + pfxBit pfx * 8, none)
  | .viadd d a b c pfx => some (0x89000000 + d.val * 1048576 + a.val * 65536 + b.val * 4096 + maskCode c * 256 + pfxBit pfx * 8, none)
  | .visub d a b c pfx => some (0x89000010 + d.val * 1048576 + a.val * 65536 + b.val * 4096 + maskCode c * 256 + pfxBit pfx * 8, none)
  | .vimul d a b c pfx => some (0x89000020 + d.val * 1048576 + a.val * 65536 + b.val * 4096 + maskCode c * 256 + pfxBit pfx * 8, none)
  | .vimad d a b c pfx => some (0x89000030 + d.val * 1048576 + a.val * 65536 + b.val * 4096 + maskCode c * 256 + pfxBit pfx * 8, none)
  | .vimin d a b c pfx => some (0x89000040 + d.val * 1048576 + a.val * 65536 + b.val * 4096 + maskCode c * 256 + pfxBit pfx * 8, none)
  | .vimax d a b c pfx => some (0x89000050 + d.val * 1048576 + a.val * 65536 + b.val * 4096 + maskCode c * 256 + pfxBit pfx * 8, none)
  | .viminu d a b c pfx => some (0x89000060 + d.val * 1048576 + a.val * 65536 + b.val * 4096 + maskCode c * 256 + pfxBit pfx * 8, none)
  | .vimaxu d a b c pfx => some (0x89000070 + d.val * 1048576 + a.val * 65536 + b.val * 4096 + maskCode c * 256 + pfxBit pfx * 8, none)
  | .viabs d a c pfx => some (0x89000080 + d.val * 1048576 + a.val * 65536 + maskCode c * 256 + pfxBit pfx * 8, none)
  | .vceq k a b c => some (0x8A000000 + k.val * 1048576 + a.val * 65536 + b.val * 4096 + maskCode c * 256, none)
  | .vcne k a b c => some (0x8A000010 + k.val * 1048576 + a.val * 65536 + b.val * 4096 + maskCode c * 256, none)
  | .vclt k a b c => some (0x8A000020 + k.val * 1048576 + a.val * 65536 + b.val * 4096 + maskCode c * 256, none)
  | .vcle k a b c => some (0x8A000030 + k.val * 1048576 + a.val * 65536 + b.val * 4096 + maskCode c * 256, none)
  | .vcgt k a b c => some (0x8A000040 + k.val * 1048576 + a.val * 65536 + b.val * 4096 + maskCode c * 256, none)
  | .vcge k a b c => some (0x8A000050 + k.val * 1048576 + a.val * 65536 + b.val * 4096 + maskCode c * 256, none)
  | .kand d a b => some (0x8B000000 + d.val * 1048576 + a.val * 65536 + b.val * 4096, none)
  | .kor d a b => some (0x8B000010 + d.val * 1048576 + a.val * 65536 + b.val * 4096, none)
  | .kxor d a b => some (0x8B000020 + d.val * 1048576 + a.val * 65536 + b.val * 4096, none)
  | .knot d a => some (0x8B000030 + d.val * 1048576 + a.val * 65536, none)
  | .kpop k d => some (0x8B000040 + k.val * 1048576 + d.val * 32768, none)
  | .kffs k d => some (0x8B000050 + k.val * 1048576 + d.val * 32768, none)
  | .vcvt d a t o g h pfx => some (0x8C000000 + d.val * 1048576 + a.val * 65536 + t.toNat * 4096 + o.toNat * 2048 + g.toNat * 1024 + h.toNat * 16 + pfxBit pfx * 8, none)
  | .vqnt d a b c pfx => some (0x8D000000 + d.val * 1048576 + a.val * 65536 + b.val * 4096 + c.val * 256 + pfxBit pfx * 8, none)
  | .vdqnt d a b c pfx => some (0x8D000010 + d.val * 1048576 + a.val * 65536 + b.val * 4096 + c.val * 256 + pfxBit pfx * 8, none)
  | .vtolns d a h pfx => some (0x8E000000 + d.val * 1048576 + a.val * 65536 + h.toNat * 256 + pfxBit pfx * 8, none)
  | .vfromlns d a t h pfx => some (0x8E000010 + d.val * 1048576 + a.val * 65536 + t.toNat * 4096 + h.toNat * 256 + pfxBit pfx * 8, none)
  | .vlmul d a b pfx => some (0x8E000020 + d.val * 1048576 + a.val * 65536 + b.val * 4096 + pfxBit pfx * 8, none)
  | .vldiv d a b pfx => some (0x8E000030 + d.val * 1048576 + a.val * 65536 + b.val * 4096 + pfxBit pfx * 8, none)
  | .vlsqrt d a pfx => some (0x8E000040 + d.val * 1048576 + a.val * 65536 + pfxBit pfx * 8, none)
  | .vlrsqrt d a pfx => some (0x8E000050 + d.val * 1048576 + a.val * 65536 + pfxBit pfx * 8, none)
  | .vlpow d a b pfx => some (0x8E000060 + d.val * 1048576 + a.val * 65536 + b.val * 4096 + pfxBit pfx * 8, none)
  | .vrotr d a n => some (0x8F000000 + d.val * 1048576 + a.val * 65536 + n.toNat * 256, none)
  | .vbcr d a n => some (0x8F000010 + d.val * 1048576 + a.val * 65536 + n.toNat * 256, none)
  | .vsumr d a c pfx => some (0x8F000020 + d.val * 1048576 + a.val * 65536 + maskCode c * 256 + pfxBit pfx * 8, none)
  | .vmaxr d a c pfx => some (0x8F000030 + d.val * 1048576 + a.val * 65536 + maskCode c * 256 + pfxBit pfx * 8, none)
  | .vminr d a c pfx => some (0x8F000040 + d.val * 1048576 + a.val * 65536 + maskCode c * 256 + pfxBit pfx * 8, none)
  | .vrotc d a n => some (0x90000000 + d.val * 1048576 + a.val * 65536 + n.toNat * 256, none)
  | .vbcc d a n => some (0x90000010 + d.val * 1048576 + a.val * 65536 + n.toNat * 256, none)
  | .vsumc d a c pfx => some (0x90000020 + d.val * 1048576 + a.val * 65536 + maskCode c * 256 + pfxBit pfx * 8, none)
  | .vmaxc d a c pfx => some (0x90000030 + d.val * 1048576 + a.val * 65536 + maskCode c * 256 + pfxBit pfx * 8, none)
  | .vminc d a c pfx => some (0x90000040 + d.val * 1048576 + a.val * 65536 + maskCode c * 256 + pfxBit pfx * 8, none)
  | .vtbl d a b n h f => some (0x91000000 + d.val * 1048576 + a.val * 65536 + b.val * 4096 + n.toNat * 512 + h.toNat * 256 + f.toNat * 16, none)
  | .vpart d x e k => some (0x92000000 + d.val * 1048576 + x.val * 32768 + e.val * 1024 + k.val * 128, none)
  | .vcomp d a f c => some (0x93000000 + d.val * 1048576 + a.val * 65536 + f.toNat * 4096 + maskCode c * 256, none)
  | .vexpd d a f c => some (0x93000010 + d.val * 1048576 + a.val * 65536 + f.toNat * 4096 + maskCode c * 256, none)
  | .vgath d a b h => some (0x94000000 + d.val * 1048576 + a.val * 65536 + b.val * 4096 + h.toNat * 256, none)
  | .vscat d a b h => some (0x94000010 + d.val * 1048576 + a.val * 65536 + b.val * 4096 + h.toNat * 256, none)
  | .soCfg v a => some (0x95000000 + v.val * 1048576 + a.val * 32768, none)
  | .soRte a b => some (0x95000010 + a.val * 32768 + b.val * 1024, none)
  | .soThr a b => some (0x95000020 + a.val * 32768 + b.val * 1024, none)
  | .soSend v a => some (0x95000030 + v.val * 1048576 + a.val * 32768, none)
  | .soRecv v d => some (0x95000040 + v.val * 1048576 + d.val * 32768, none)
  | .soStat d b => some (0x95000050 + d.val * 32768 + b.val * 1024, none)
  | .lease d => some (0xE0000000 + d.val * 524288, none)
  | .lrel => some (0xE0000010, none)
  | .mbld a b src bs lt t tok grp ge => some (0xE1000001 + a.val * 524288 + b.val * 16384 + src.toNat * 4096 + bs.toNat * 2048 + lt.toNat * 1024, some (t.toNat * 268435456 + tok.toNat * 16777216 + grp.toNat * 65536 + ge.toNat * 32768))
  | .mmma a r bs clr t lat nh ge grp hd pfx => some (0xE2000001 + a.val * 524288 + r.val * 16384 + bs.toNat * 8192 + clr.toNat * 4096 + pfxBit pfx * 8, some (t.toNat * 268435456 + lat.toNat * 33554432 + nh.toNat * 4194304 + ge.toNat * 2097152 + grp.toNat * 8192 + hd.toNat * 32))
  | .mlat a disp => some (0xE3000001 + a.val * 524288, some (disp.toNat))
  | .mzero r t => some (0xE4000000 + r.val * 16384 + t.toNat * 1024, none)
  | .mread a r t o g pfx => some (0xE4000010 + a.val * 524288 + r.val * 16384 + t.toNat * 1024 + o.toNat * 512 + g.toNat * 256 + pfxBit pfx * 8, none)
  | .mwrite a r t => some (0xE4000020 + a.val * 524288 + r.val * 16384 + t.toNat * 1024, none)
  | .mscale a r pfx => some (0xE4000030 + a.val * 524288 + r.val * 16384 + pfxBit pfx * 8, none)
  | .mtile r f => some (0xE5000000 + r.val * 16384 + f.toNat * 256, none)
  | .mprog d => some (0xE6000000 + d.val * 524288, none)
  | .mgemv b x y sw t kc mm pfx => some (0xE7000001 + b.val * 524288 + x.val * 16384 + y.val * 512 + sw.val * 16 + pfxBit pfx * 8, some (t.toNat * 268435456 + kc.toNat * 65536 + mm.toNat))
  | .mstat d c => some (0xE8000000 + d.val * 524288 + c.toNat * 256, none)
  | .gemb d a b et pool zm1 nm1 => some (0xE0000001 + d.val * 524288 + a.val * 16384 + b.val * 512, some (et.toNat * 536870912 + pool.toNat * 134217728 + zm1.toNat * 65536 + nm1.toNat))
  | .gbmand d a b => some (0xE1000000 + d.val * 524288 + a.val * 16384 + b.val * 512, none)
  | .gpopx d a b => some (0xE2000000 + d.val * 524288 + a.val * 16384 + b.val * 512, none)
  | .gisect d a b c => some (0xE3000000 + d.val * 524288 + a.val * 16384 + b.val * 512 + c.val * 16, none)
  | .gscadd v w a b => some (0xE4000000 + v.val * 1048576 + w.val * 65536 + a.val * 2048 + b.val * 64, none)
  | .ghist w a b => some (0xE5000000 + w.val * 65536 + a.val * 2048 + b.val * 64, none)
  | .gtopk v w b => some (0xE6000000 + v.val * 1048576 + w.val * 65536 + b.val * 64, none)
  | .gsortk v w g => some (0xE7000000 + v.val * 1048576 + w.val * 65536 + g.toNat * 16, none)
  | .gcfg a b => some (0xE8000000 + a.val * 16384 + b.val * 512, none)
  | .gstat d c => some (0xE9000000 + d.val * 524288 + c.toNat * 512, none)
  | .copy d a b => some (0x80000000 + d.val * 524288 + a.val * 16384 + b.val * 512, none)
  | .copyc d a b => some (0x81000000 + d.val * 524288 + a.val * 16384 + b.val * 512, none)
  | .csum d a b => some (0x82000000 + d.val * 524288 + a.val * 16384 + b.val * 512, none)
  | .fill d a b => some (0x83000000 + d.val * 524288 + a.val * 16384 + b.val * 512, none)
  | .publish d a b => some (0x84000000 + d.val * 524288 + a.val * 16384 + b.val * 512, none)
  | .prefetch a b => some (0x85000000 + a.val * 16384 + b.val * 512, none)
  | .migr d a b => some (0x86000000 + d.val * 524288 + a.val * 16384 + b.val * 512, none)
  | .cred d a b => some (0x88000000 + d.val * 524288 + a.val * 16384 + b.val * 512, none)
  | .crs d a b => some (0x89000000 + d.val * 524288 + a.val * 16384 + b.val * 512, none)
  | .cag d a b => some (0x8A000000 + d.val * 524288 + a.val * 16384 + b.val * 512, none)
  | .cbc d a b => some (0x8B000000 + d.val * 524288 + a.val * 16384 + b.val * 512, none)
  | .ca2a d a b => some (0x8C000000 + d.val * 524288 + a.val * 16384 + b.val * 512, none)
  | .viewRd d a b => some (0x90000000 + d.val * 524288 + a.val * 16384 + b.val * 512, none)
  | .viewAck a b => some (0x91000000 + a.val * 16384 + b.val * 512, none)
  | .viewJoin a b => some (0x92000000 + a.val * 16384 + b.val * 512, none)
  | .viewAdm d a b => some (0x93000000 + d.val * 524288 + a.val * 16384 + b.val * 512, none)
  | .xstat d a b => some (0x98000000 + d.val * 524288 + a.val * 16384 + b.val * 512, none)
  | .syncmaskWrite _ _ | .flagsWrite _ _ | .rndmWrite _ _ | .srseedWrite _ _ | .loopRegisterWrite _ _ _
  | .kxvalWrite _ _ _ | .kernelEnd _ | .kernelRestart _ | .sdbgResume _ | .graphContextStart _
  | .registerWrite _ _ _ | .launchSubmit _ _ _ | .launchSelect _ | .goBroadcast _ | .kernelT0 _ | .readyReport _ _
  | .anchorDeadline _ | .holdEnd _ | .syncRendezvous _ | .tokenWaitSatisfied _ | .syncWaitSatisfied _
  | .drainSatisfied _ | .timeWaitSatisfied _ | .untimedCompletion _ | .spaceBlockRelease _
  | .barrierArrival _ _ _ _ | .barrierErrorCompletion _ _ _ | .barrierRelease _ _ _ _ _ _ | .dieCompletion _
  | .leaseGrant _ _ | .leaseExpiry _ | .arrayCommandStart _ _ _ | .refreshWaitEnd _ _ _ | .intersectStart _ _
  | .engineCommandStart _ _ | .engineCommandComplete _ _ | .syncWordArrival _ _ _ _ _ | .streamRowAccept _ _ _ _ _
  | .operatorEmit _ _ | .publishRequest _ _ _ _ | .publishFlip _ _ _ _ | .afencePromotion _ _ _ | .preemptPending _
  | .strandPark _ | .stopComplete _ | .resumeGo _ | .viewChangeTrap _ _ | .heartbeatSend _ | .heartbeatReceive _ _
  | .heartbeatTimeout _ | .collectivePacket _ _ _ _ _ _ | .collectiveNak _ _ _ | .collectiveStart _ _
  | .ttDeliveryDeadline _ _ _ _ | .suspect _ _ _ _ | .propose _ _ _ _ _ | .accept _ _ _ _ _ _ | .commit _ _ _ _ _ _
  | .join _ _ _ _ | .joinAck _ _ _ | .proposeTimeout _ _ | .commitTimeout _ _ | .ptpSync _ _ | .ptpPdelayReq _
  | .ptpPdelayResp _ _ | .ptpAnnounce _ _ _ | .timeSourceLoss | .holdoverExpiry | .lineRequest _ _ _ _ _ _
  | .lineRequestTimeout _ | .hostAccess _ _ _ _ _ _ | .tableDrainTimeout _ | .migrationDirect _ _ _ _
  | .migrationLogClear _ | .bindLd _ _ | .unbindLd _ | .swResetApply _ | .swResetLimit _ | .scrubStep _
  | .writebackRetire _ | .seamCrcFailure _ _ | .dieLost _ | .errorBankAck _ _ | .packageReset | .status | .reset
  | .dieReset _ | .freeze | .thaw | .readout _ | .write _ _ | .withdraw _ | .restore _ | .setmode _ | .modeSwitch
  | .ageing _ | .ageingUpdate _ | .resume _ | .flashwr _ _ | .flashrd _ | .mctpControl _ | .getVersion _
  | .getCapabilities _ | .negotiateAlgorithms _ | .getDigests _ | .getCertificate _ _ _ _ | .challenge _ _
  | .getMeasurements _ _ | .selfRefreshEntry _ | .endNode _ | .launchNode _ | .waitvNode _ | .waitvTimeout _
  | .condNode _ | .whileNode _ | .signalNode _ | .xferNode _ | .hostNode _ | .timedWriteLanding _
  | .migrationPageFlip _ => none

/-- The words of a group in the order of their addresses: the prefix, the first word with its S bit, the second word. -/
def encode (g : Group) : Option (List Nat) :=
  match g.instr.words with
  | none => none
  | some (w, w2) =>
    some ((match g.instr.pfx? with | some p => [p.toWord] | none => []) ++ [w + g.sync.toNat * 4] ++
      (match w2 with | some v => [v] | none => []))

/-- The code that a list of words stored from address 0 makes. -/
def codeOf (ws : List Nat) (a : Nat) : Option Nat := ws[a / 4]?

/-- The units tried for a word whose unit the opcode table leaves open: the same upper-half word means different
instructions on different units (R144). The first unit that gives an instruction decides (notes/assumptions/15.md). -/
def unitOrder : List UnitClass := [.m, .g, .v, .seq]

/-- The unit and the instruction of a table word: `nbits` and `w` number the bits as spec/opcode_table.json does, the
first word lowest; words above `nbits` are zero. -/
noncomputable def decodeTableUnit (nbits w : Nat) : Option (UnitClass × Instr) :=
  let v := w % 2 ^ nbits
  let ws := [v % 2 ^ 32, v / 2 ^ 32 % 2 ^ 32, 0]
  unitOrder.findSome? fun u =>
    match decodeGroup u true (codeOf ws) 0 with
    | .group g _ _ => some (u, g.instr)
    | .fault _ => none

/-- The instruction that the decoder reads from a table word. -/
noncomputable def decodeTableWord (nbits w : Nat) : Option Instr := (decodeTableUnit nbits w).map (·.2)

end Sys2Proof
end

