-- ==== Sys2Proof/Config.lean ====
section
/-! DEFINITION. What the flagship configuration fixes (R1, R10-R13, R79), and the free values: constants with no body, of
which nothing can be proved, each applied to a plain counter of State or to operands. -/
namespace Sys2Proof

/-- Die types by their type codes (R10). -/
inductive DieType where
  | none | sw | nb | fb | mx | vn | gs
  deriving DecidableEq, Repr

namespace Config

/-- The MZ9-36: slots 0-35 populated, 36-47 absent (R10). -/
def slotType (s : Nat) : DieType :=
  if s < 4 then .sw else if s < 12 then .nb else if s < 14 then .fb else if s < 26 then .mx else if s < 34 then .vn
  else if s < 36 then .gs else .none

def typeCode : DieType → Nat
  | .none => 0 | .sw => 1 | .nb => 2 | .fb => 3 | .mx => 4 | .vn => 5 | .gs => 6

/-- Cores of a die (R10). -/
def coresPerDie : DieType → Nat
  | .mx => 12 | .vn => 24 | .gs => 24 | _ => 0

/-- The dies that hold a die sequencer (R11). -/
def hasSequencer : DieType → Bool
  | .sw => true | .nb => true | .fb => true | _ => false

/-- Die SRAM in bytes (R79). -/
def sramSize : DieType → Nat
  | .nb => 0x1000_0000 | .gs => 0x180_0000 | .sw => 0x100_0000 | _ => 0

/-- Capability bits of a healthy die (R19): bits 0 and 1 of SW only in slot 0. -/
def capOf (s : Nat) : Nat :=
  match slotType s with
  | .none => 0
  | .sw => if s = 0 then 0xF else 0xC
  | .nb => 0x3
  | .fb => 0x1
  | .mx => 0x7
  | .vn => 0x1
  | .gs => 0x3

def nSlots : Nat := 48
def populated : Nat := 36
def spadSize : Nat := 0x20_0000
def weightSize : Nat := 0x2000_0000
def hbmSize : Nat := 0x10_0000_0000
def farSize : Nat := 0x100_0000_0000
def flashSize : Nat := 0x100_0000
/-- Cycles of the refresh phase (R87). -/
def refreshCycle : Nat := 32768

/-- A value the manual calls undefined, or does not state: the n-th one asked for, any natural number
(notes/assumptions/2.md). Users reduce it to the width they need. -/
opaque freeNat : Nat → Nat
/-- The i-th of the values that the n-th undefined effect leaves in registers (R8, notes/assumptions/5.md). -/
opaque freeOf : Nat → Nat → Nat
/-- A byte that an undefined effect leaves at an address (R8), for the n-th undefined effect. -/
opaque freeByte : Nat → Nat → Byte
/-- The wall ticks that the n-th untimed action takes beyond its least (R31, notes/assumptions/3.md). -/
opaque freeLatency : Nat → Nat
/-- The correction of the clock servo in a wall tick: of its residues modulo 201, 100 is none and each step one part per million
(R283, notes/assumptions/7.md). -/
opaque slew : Nat → Nat
/-- The syndrome of an error event, and the context of a machine check, whose form the manual does not give (R411,
notes/assumptions/90.md): by wall tick, die slot, UNIT and ADDR. Users reduce it to 64 bits. -/
opaque errDetail : Nat → Nat → Nat → Nat → Nat
/-- Words of a row of coded memory, by its space, which the manual does not give; in accumulator memory a row is one of the array's
(R399, notes/assumptions/77.md). -/
opaque rowWords : Nat → Nat
/-- The bank of a parity group of a die's SRAM, whose place in the address space the manual does not give (R402). -/
opaque codedBank : Nat × Nat × Nat → Nat
/-- The seams marked failed in soft repair maps that the package did not write itself: by the die's map (R405, R418). -/
opaque mapSeams : List Byte → List (Nat × Nat)
/-- The trap entry that a supervisor image sets, which the manual does not place in it (R358, notes/assumptions/17.md). -/
opaque trapEntry : List Byte → Nat
/-- priority1 of the package's clock, which the management controller sets at each boot (R284). -/
opaque ptpPriority : Nat → Nat
/-- Digests held in the boot ROM (R414, R420): of the Ed25519 key, of the ML-DSA-65 key, and of the ROM itself. -/
opaque romDigest : Nat → List Byte
/-- What the SRAM of a die gives at the n-th boot, and the seed that its helper data make of it (R420, notes/assumptions/20.md). -/
opaque puf : Nat → Nat → List Byte
opaque pufSeed : List Byte → List Byte → List Byte
/-- The helper data and the certificates, in DER, of a die in the identity record, whose layout the manual does not give (R414,
R420). -/
opaque helperData : Nat → List Byte → List Byte
opaque certificates : Nat → List Byte → List Byte
/-- The SPDM messages before a challenge that its signature covers (R420, notes/assumptions/20.md), by the number of the reply. -/
opaque transcript : Nat → List Byte
/-- Self-test of a die at the n-th boot: whether its faults exceed its spares (R418). -/
opaque selfTestFails : Nat → Nat → Bool
/-- Whether a seam fails to train at the n-th boot (R417 step 3). -/
opaque seamFails : Nat → Nat → Nat → Bool
/-- A monitor reading of a die at the n-th update of its ageing record (R423). -/
opaque ageing : Nat → Nat → BitVec 64

end Config
end Sys2Proof
end

