-- ==== Sys2Proof/Machine/State.lean ====
section
/-! DEFINITION. The state of the package as plain data, and the state after package reset. Each field's comment names the
rule of spec/ that gives it; INVENTORY.md lists them with their reset values. -/
namespace Sys2Proof.Machine
open Sys2Proof

/-- Why a step stops with a fault. -/
inductive Fault where
  /-- An event names a die slot of 48 or more (R10). Raised by the meanings of events; safe: no such die exists. -/
  | noSuchSlot
  /-- An event names a partition of 8 or more (R390). Raised by the meanings of events; safe: no such partition exists. -/
  | noSuchPartition
  deriving DecidableEq, Repr

/-- Why a step is refused. -/
inductive Refusal where
  /-- The instruction has no meaning in this model yet. Raised by arms of `exec` only; safe. -/
  | notModelled (mnemonic : String)
  deriving DecidableEq, Repr

/-- Kernel mode and supervisor mode (R356). -/
inductive Mode where
  | kernel | supervisor
  deriving DecidableEq, Repr

/-- One of a strand's eight tokens (R92). -/
structure Token where
  pend : Nat := 0
  err : Bool := false
  code : Nat := 0
  /-- the token counts an asymmetric fence, whose end its wait turns into a full fence (R116) -/
  fence : Bool := false
  deriving DecidableEq, Repr

/-- LCn, LSn and LEn of one hardware loop (R170). -/
structure Loop where
  act : Bool := false
  count : BitVec 32 := 0
  start : W64 := 0
  last : W64 := 0
  deriving DecidableEq, Repr

/-- What the S bank holds in place of the kernel's (R357): x registers, tokens, return-address store (newest first),
loops. -/
structure Bank where
  x : Vector W64 32 := Vector.replicate 32 0
  tok : Vector Token 8 := Vector.replicate 8 {}
  rets : List W64 := []
  loops : Vector Loop 3 := Vector.replicate 3 {}
  deriving DecidableEq, Repr

/-- A vector register: its tag and its 1,024 slots of 32 bits, slot n at bits [32n+31 : 32n] (R61). -/
structure VecReg where
  tag : Tag := 0
  data : BitVec 32768 := 0
  deriving DecidableEq, Repr

/-- What a strand waits for (R40): the explicit waits, the rendezvous, and the space blocks, whose group issues again. -/
inductive Wait where
  | none
  | token (k : Fin 8)
  | sync (off : Nat) (gen : BitVec 32)
  | barrier (gslot : Nat) (dest : XReg)
  | drain
  | retire
  | park
  | ftime (v : W64)
  | wtick (v : W64)
  | rendezvous
  /-- blocked on a resource, named as INFO of the queue-overflow trap names it (R363), since a wall tick (R38, R350) -/
  | space (since res : Nat)
  deriving DecidableEq, Repr

/-- Where a strand stands. `idle`: none is placed; `parked`: at the end of a drain or restore stub (R372). -/
inductive Status where
  | idle | running | retired | parked
  deriving DecidableEq, Repr

/-- A row of vector data on a stream (R233). -/
structure StreamRow where
  tag : Tag
  data : BitVec 2048
  deriving DecidableEq, Repr

/-- The ticks at which a strand's units are free (R138): divider, vector, mask, global vector path, cluster port, stream
port. -/
structure Units where
  div : Nat := 0
  vec : Nat := 0
  mask : Nat := 0
  gpath : Nat := 0
  port : Nat := 0
  stream : Nat := 0
  deriving DecidableEq, Repr

/-- A trap that waits for the end of a breakpoint freeze (R376): its cause, INFO and cluster, and whether it was raised in a
bundle. -/
structure HeldTrap where
  cause : BitVec 8
  info : BitVec 16 := 0
  dcode : BitVec 16 := 0
  stval : W64 := 0
  clu : BitVec 2 := 0
  bnd : Bool := false
  deriving DecidableEq, Repr

/-- A strand or a die sequencer. -/
structure Strand where
  status : Status := .idle
  unit : UnitClass := .m
  /-- code of the strand: start and length in bytes, as offsets from KIMG (R127, R341) -/
  codeStart : Nat := 0
  codeLen : Nat := 0
  mode : Mode := .kernel
  pc : W64 := 0
  /-- extent of the group being issued: its length and the length of its prefix (R133); the model's own -/
  glen : Nat := 4
  gpre : Nat := 0
  /-- the S bit of the group being issued (R140); the model's own -/
  gsync : Bool := false
  kb : Bank := {}
  sb : Bank := {}
  flags : BitVec 6 := 0        -- R68
  rndm : BitVec 3 := 1         -- R65
  srseed : BitVec 32 := 1      -- R65, set at team start
  mixsel : BitVec 6 := 0       -- R17
  hookAddr : W64 := 0          -- R192
  hookEn : Bool := false
  viewSlot : BitVec 2 := 0     -- R192
  v : Vector VecReg 16 := Vector.replicate 16 {}
  k : Vector (BitVec 1024) 8 := Vector.replicate 8 0
  b : Vector (BitVec 8192) 4 := Vector.replicate 4 0
  -- supervisor registers (R358)
  emu : Bool := false
  rfl_ : Bool := false
  nxt : Bool := false
  bnd : Bool := false
  sflt : Bool := false
  dcode : BitVec 16 := 0
  info : BitVec 16 := 0
  clu : BitVec 2 := 0
  cause : BitVec 8 := 0
  sepc : W64 := 0
  /-- the data register, size and kind of an access under emulation (R366) stand in `info`; STVAL its address -/
  stval : W64 := 0
  svec : W64 := 0
  semu : W64 := 0
  sfcode : BitVec 16 := 0
  ssave : Vector W64 4 := Vector.replicate 4 0
  kxsel : BitVec 5 := 0
  -- pre-emption (R358, R371)
  stub : Bool := false
  chk : BitVec 20 := 0
  resume : W64 := 0
  restorePc : W64 := 0
  /-- a member of a diverted bundle whose own word waits: the checkpoint number, and the stub pair that it goes to when the
  wait ends (R371) -/
  diverting : Option (BitVec 20 × W64 × W64) := none
  -- waits and units
  wait : Wait := .none
  /-- wall tick before which the strand issues nothing: trap entry, return, go (R359, R375) -/
  notBefore : Nat := 0
  /-- unit occupancy on the pipeline clock, and on the wall clock inside a trap of a strict kernel (R365) -/
  units : Units := {}
  wunits : Units := {}
  /-- the operand-fetch fault owed at the next drain: trap cause, code and INFO (R265, R363) -/
  owed : Option (BitVec 8 × BitVec 16 × BitVec 16) := none
  /-- a view change or a lost quorum to be delivered: fabric group (R280, R281) -/
  viewTrap : Option Nat := none
  quorumLost : Option Nat := none
  /-- the trap of a `brk`, or the bundle abort beside it, that waits for the end of a freeze (R376) -/
  held : Option HeldTrap := none
  /-- the trap that it is in was entered when a freeze ended (R376) -/
  thawed : Bool := false
  /-- between trap entry and return, the hook of a reflected trap included (R35, R365) -/
  inTrap : Bool := false
  /-- the trap that the strand is in is one for which a strict partition holds (R35) -/
  trapHold : Bool := false
  /-- the hooks of reflected traps that have not returned, innermost first: the depth of the return-address store at which
  the hook's `ret` ends it, and whether the partition holds for its trap (R35, R365) -/
  hooks : List (Nat × Bool) := []
  /-- the group that raised the trap: in strict mode the planned groups go on after it, whatever SEPC holds (R360) -/
  trapPc : W64 := 0
  /-- wall tick of the strand's start: STICK in queued mode counts from it (R37) -/
  startTick : Nat := 0
  /-- its wait is a word of the bundle whose pending writes begin at this number (R29) -/
  joined : Option Nat := none
  /-- the schedule tick of the last anchor issued (R30) -/
  anchored : Option Nat := none
  /-- wall tick at which the strand retired (R26) -/
  retiredAt : Option Nat := none
  /-- receive queue, oldest first, and rows sent whose first hop is not yet accepted (R233, R242) -/
  recvq : List StreamRow := []
  unaccepted : Nat := 0
  /-- identifiers of untimed accesses that later untimed writes and commands, and later untimed reads, wait for: fences
  (R106) -/
  fencedW : List Nat := []
  fencedR : List Nat := []
  /-- pending writes numbered below this are earlier than the last release: the strand's scratchpad stores among them become
  visible before its later untimed writes and commands; and earlier than the last full fence: before its later untimed reads
  (R106) -/
  fencedSeq : Nat := 0
  fencedSeqR : Nat := 0
  /-- pending writes numbered below this are earlier than the last barrier release in a strict partition: the scratchpad stores of
  all strands among them become visible before the strand's later untimed accesses and commands (R107, R109) -/
  acqSeq : Nat := 0
  /-- releases at die scope not yet promoted (R116) -/
  dieReleases : Nat := 0
  /-- a physical upset of the next lined vector result: slot and flipped bits (R409) -/
  upset : Option (Nat × BitVec 32) := none
  deriving DecidableEq, Repr

/-- One GRPSET slot of a team (R42, R183). -/
structure GrpSlot where
  num : Nat
  phase : BitVec 16 := 0
  pending : Bool := false
  err : Bool := false
  code : BitVec 16 := 0
  /-- the wall tick of the arrival that set PENDING; the model's own -/
  arrivedAt : Option Nat := none
  deriving DecidableEq, Repr

/-- Lease states (R252). -/
inductive Lease where
  | none | pend | held | expd
  deriving DecidableEq, Repr

/-- The rounding modifiers bound to an array command, with the mode in effect and its draws (R260, R261). -/
structure Mods where
  rnd : BitVec 3 := 1
  sat : BitVec 3 := 0
  neg : Bool := false
  abs : Bool := false
  scale : Int := 0
  deriving DecidableEq, Repr

/-- The array commands (R249). -/
inductive ArrOp where
  /-- src 0 scratchpad, 1 weight store, 2 global memory -/
  | mbld (src bs addr : Nat) (tag : Tag) (lt : Bool) (nt bytes : Nat) (tok : Fin 8) (ge : Option Nat)
  | mlat (desc : BitVec 128)
  | mmma (bs addr ar m : Nat) (fmt : Tag) (lat : Nat) (desc : BitVec 128) (nh clr : Bool) (hd : Nat)
      (sat : Bool) (ge : Option Nat)
  | mzero (ar m : Nat) (tag : Tag)
  | mread (addr ar m : Nat) (rt tag : Tag) (ovf sgn : Bool) (mods : Mods) (seed : BitVec 32)
  | mwrite (addr ar m : Nat) (tag : Tag)
  /-- `tags`: those of the rows at issue (R249, R260) -/
  | mscale (addr ar m : Nat) (tags : List Tag) (mods : Mods) (seed : BitVec 32)
  | mtile (ar m : Nat) (keep : Bool)
  deriving DecidableEq, Repr

/-- A brim entry: the three double words of a page descriptor and the access counter (R382). -/
structure BrimEntry where
  frame0 : W64
  frame1 : W64
  paired : Bool
  p : Bool
  w : Bool
  r : Bool
  /-- launch address of the descriptor that it was read from (R396) -/
  desc : Nat := 0
  count : Nat := 0
  deriving DecidableEq, Repr

/-- An entry of an array queue: who issued it, when, whether its lease admits it, whether it has started (R249-R252). -/
structure ArrCmd where
  id : Nat
  strand : Nat
  issued : Nat
  op : ArrOp
  admitted : Bool := true
  started : Bool := false
  /-- stopped by an operand-fetch fault: no further row enters (R265) -/
  stopped : Bool := false
  /-- stopped at a row boundary by a pre-emption: the row that it goes on with (R263) -/
  halted : Option Nat := none
  /-- tag and token count of the B slot that it reads, as they stood at its issue (R249) -/
  bt : Tag := 0
  bnt : Nat := 0
  /-- the row that it went on with after a pre-emption -/
  next : Nat := 0
  /-- offsets of operands whose uncorrectable words have started a replay (R408) -/
  retried : List Nat := []
  /-- the F4x8 A tiles read in their prologues, in order: address and bytes (R257) -/
  abase : List (Nat × List Byte) := []
  /-- F4x8 tiles of the panel that it loads, by the rank of the last mlat issued (R253); of a global panel the brim slot and the
  entry through which its first byte was translated at issue (R254) -/
  tiles : Nat := 0
  first : Option (Nat × BrimEntry) := none
  deriving DecidableEq, Repr

/-- A weight-store read or a panel load in progress: its command, the next chunk, and whether that chunk waits for its
refresh window to close (R254). -/
structure LoadProg where
  id : Nat
  next : Nat := 0
  deferred : Bool := false
  /-- pipeline tick before which it reads nothing: a correction or a rebuild delays it (R401, R402) -/
  wait : Nat := 0
  deriving DecidableEq, Repr

/-- A row of accumulator memory (R246): tag EMPTY 0x0, F32, I32 or F64 (0xB), and 256 elements of 32 bits. -/
structure AccRow where
  tag : Tag := 0
  data : BitVec 8192 := 0
  deriving DecidableEq, Repr

/-- A B slot (R246). -/
structure BSlot where
  tag : Tag := 0
  lt : Bool := false
  nt : Nat := 0
  valid : Bool := true
  data : List Host.Cell := []
  deriving DecidableEq, Repr

/-- The tile marker and the cuff (R262, R406): the marker's command, the commands issued since, and what those have sampled,
regions of scratchpads and B slots, with whether any of it has been written since (R408). -/
structure Tile where
  ar : Nat
  m : Nat
  keep : Bool
  count : Nat := 0
  start : Nat := 0
  copy : List (Nat × AccRow) := []
  id : Nat := 0
  reads : List (Nat × Nat) := []
  slots : List Nat := []
  spoiled : Bool := false
  /-- a cuff replay in progress: the wall tick at which it began, and the ticks that it takes (R407, R408) -/
  replay : Option (Nat × Nat) := none
  deriving DecidableEq, Repr

/-- One of the three arrays of an MX die (R246, R250, R349). -/
structure ArrayState where
  slots : Vector BSlot 2 := Vector.replicate 2 {}
  latent : Option (BitVec 128) := none
  /-- the latent register as left by the last mlat issued (R253) -/
  latentIssued : Option (BitVec 128) := none
  /-- tag, LT and token count of the slots as left by the last mbld issued, and the rows' tags at issue (R249) -/
  slotIssued : Vector (Tag × Bool × Nat) 2 := Vector.replicate 2 (0, false, 0)
  rowTag : List (Nat × Tag) := []
  acc : List (Nat × AccRow) := []
  tileIssued : Option Tile := none
  tile : Option Tile := none
  holder : Option Nat := none
  ptr : Nat := 3
  /-- pipeline ticks: the finish of the last command of each channel, port ticks taken by the compute channel, last
  write to and last read of each B slot and the latent register, last landing and last read of each row (R250, R251) -/
  loadFree : Nat := 0
  compFree : Nat := 0
  portTicks : List Nat := []
  load : Option LoadProg := none
  prologue : Option LoadProg := none
  slotWritten : Vector Nat 3 := Vector.replicate 3 0
  slotRead : Vector Nat 3 := Vector.replicate 3 0
  rowLand : List (Nat × Nat) := []
  rowRead : List (Nat × Nat) := []
  /-- a physical upset of the next row that the array computes: column and flipped bits (R409) -/
  upset : Option (Nat × BitVec 32) := none
  deriving DecidableEq, Repr

/-- The progress record of R263. -/
structure Progress where
  seq : BitVec 32 := 0
  run : Bool := false
  err : Bool := false
  done : Nat := 0
  rows : Nat := 0
  deriving DecidableEq, Repr

/-- A gisect in an intersect queue or in its unit (R291, R292). -/
structure Isect where
  id : Nat
  /-- its place in issue order (R137) -/
  seq : Nat := 0
  strand : Nat
  sup : Bool := false
  issued : Nat
  dest : XReg
  bf16 : Bool
  w : Nat
  bma : Nat
  bmb : Nat
  vala : Nat
  valb : Nat
  acc : W64
  started : Bool := false
  oa : Nat := 0
  ob : Nat := 0
  flags : BitVec 6 := 0
  deriving DecidableEq, Repr

/-- An embedding table register (R297). -/
structure EmbTable where
  nr : Nat
  fmt : Tag
  rb : Nat
  base : W64
  deriving DecidableEq, Repr

/-- Where a piece of an access goes: memory of a die or the host, a remote owner, or nowhere with a code (R95, R383). -/
inductive Place where
  | mem (slot : Option Nat) (key : Nat)
  | remote (pkg part va : Nat)
  | fail (code : Nat)
  deriving DecidableEq, Repr

/-- The data of an engine's command on its way (R32, R90, R95, R305): the wall tick of its next read; what it has read, bytes or
rows; constant data still to be written, at offsets of the destination; bytes gathered for the row or bag at hand; the operand
read first (indices of a gemb, x of a GEMV; a byte that the fold checksum has not paired yet); bytes reported; the first fault, with its key; whether its end is on its way. -/
structure Moving where
  ready : Nat := 0
  next : Nat := 0
  segs : List (Nat × List Byte) := []
  data : List Byte := []
  idx : List Nat := []
  operand : List Byte := []
  out : Nat := 0
  counted : Nat := 0
  fault : Option (Nat × Nat) := none
  flags : BitVec 6 := 0
  begun : Bool := false
  closing : Bool := false
  /-- it is bound to TSTART: its pieces set out at once (R285) -/
  prompt : Bool := false
  deriving DecidableEq, Repr

/-- A piece that an engine moves (R305, R320): its command, its engine's die and queue, its seam class (0 collective, 1 copy,
2 background); bytes and where they go, none where they go to the engine; the seams still to be crossed, the slots that it still
needs on the first of them, and the wall tick from which it waits there; the elements that have not landed once some have; the
sync word that counts it; a code with which it fails on the way; the place of its first byte in the command's output. -/
structure Transit where
  cmd : Nat
  part : Nat
  exe : Nat
  queue : Nat
  cls : Nat
  bytes : List Byte
  dst : List (Place × Nat)
  hops : List (Nat × Nat)
  slots : Nat := 0
  ready : Nat := 0
  left : Option Nat := none
  report : Option (Nat × Nat) := none
  code : Nat := 0
  off : Nat := 0
  deriving DecidableEq, Repr

/-- A gemb in an embedding queue (R298). -/
structure EmbCmd where
  id : Nat
  strand : Nat
  issued : Nat
  table : EmbTable
  idx : Nat
  out : Nat
  sync : Nat
  pool : BitVec 2
  z : Nat
  n : Nat
  seg : Nat := 0
  after : List Nat := []
  afterSeq : Nat := 0
  afterAcq : Nat := 0
  started : Bool := false
  move : Option Moving := none
  deriving DecidableEq, Repr

/-- The last bundle of a team in which a word waits (R29): its members as they stood before it, and the numbers of its words' pending
writes, up to, and not including, `hi`. -/
structure Bundle where
  before : List (Nat × Strand)
  lo : Nat
  hi : Nat
  deriving DecidableEq, Repr

/-- A core: its team and what its strands share. A die sequencer's core holds only its window's port. -/
structure Core where
  /-- the team placed here: class 0 M, 1 V, 2 G, and index (R23) -/
  team : Option (Nat × Nat) := none
  syncmask : BitVec 4 := 0
  grps : List GrpSlot := []
  aq : List ArrCmd := []
  lease : Lease := .none
  used : Nat := 0
  granted : Nat := 0
  progress : Progress := {}
  progId : Nat := 0
  mcode : BitVec 16 := 0
  merr : Bool := false
  mexc : BitVec 6 := 0
  /-- ticks at which the gather unit is free: pipeline clock, and wall clock inside traps of a strict kernel (R287) -/
  gatherFree : Nat := 0
  gatherWall : Nat := 0
  iq : List Isect := []
  eq : List EmbCmd := []
  et : Vector (Option EmbTable) 8 := Vector.replicate 8 none
  eoor : Nat := 0
  soor : Nat := 0
  voor : Nat := 0
  eexc : BitVec 5 := 0
  /-- the wall tick up to which the engine port is taken (R80) -/
  eport : Nat := 0
  bundle : Option Bundle := none
  deriving DecidableEq, Repr

/-- Health codes of the mix register (R17, R419). -/
inductive Health where
  | good | failed | withdrawn | absent
  deriving DecidableEq, Repr

/-- An entry of the mix register (R419), or of a partition's view of it (R17). -/
structure MixEntry where
  type : Nat := 0
  step : Nat := 0
  health : Health := .absent
  bound : Bool := false
  part : Nat := 0
  cap : Nat := 0
  deriving DecidableEq, Repr

/-- A region attribute entry (R378). -/
structure Region where
  v : Bool := false
  root : W64 := 0
  rbase : Nat := 0
  ps : Nat := 0
  geo : Nat := 0
  sbase : Nat := 0
  scnt : Nat := 0
  deriving DecidableEq, Repr

/-- An X command in a queue (R301-R305): its operands as read at the enq. -/
structure XCmd where
  id : Nat
  strand : Nat
  core : Nat
  op : XOp
  d : W64
  a : W64
  b : W64
  /-- partition and die of the enqueuer; no core and no strand for the graph walker, which counts as core 0 (R354) -/
  part : Nat := 0
  slot : Nat := 0
  /-- the collective descriptor as sampled at the enq (R313), and whether its sequence number is assigned (R315) -/
  desc : BitVec 256 := 0
  seq : BitVec 32 := 0
  numbered : Bool := false
  /-- an error found before execution: its code, 0 for none -/
  pre : Nat := 0
  issued : Nat := 0
  seg : Nat := 0
  after : List Nat := []
  afterSeq : Nat := 0
  afterAcq : Nat := 0
  started : Bool := false
  /-- a collective that waits for peers, a publish that waits for its flip, a join that waits for its commit -/
  waiting : Bool := false
  /-- the graph context whose XFER node waits for the command (R354) -/
  ctx : Option Nat := none
  move : Option Moving := none
  deriving DecidableEq, Repr

/-- An X queue: commands that have not completed, the chain state and the counters (R301, R309, R318); a physical upset of the
next byte of its data at an offset: flipped bits (R307, R324). -/
structure XQueue where
  cmds : List XCmd := []
  chn : Bool := false
  chkA : Nat := 0
  chkB : Nat := 0
  lcode : BitVec 16 := 0
  nerr : BitVec 32 := 0
  ndone : BitVec 32 := 0
  upset : Option (Nat × Byte) := none
  deriving DecidableEq, Repr

/-- A GEMV in the queue of an NB die (R266). -/
structure Gemv where
  id : Nat
  strand : Nat
  core : Nat
  b : Nat
  x : Nat
  y : Nat
  sync : Nat
  fmt : Tag
  k : Nat
  m : Nat
  sat : Bool
  issued : Nat := 0
  seg : Nat := 0
  started : Bool := false
  after : List Nat := []
  afterSeq : Nat := 0
  afterAcq : Nat := 0
  move : Option Moving := none
  deriving DecidableEq, Repr

/-- An instance in flight in a stream operator (R236, R241): rows accepted, rows to emit with their ticks. -/
structure OpInst where
  in0 : List StreamRow := []
  in1 : List StreamRow := []
  out : List (Nat × StreamRow) := []
  deriving DecidableEq, Repr

/-- A stream-operator slot (R234-R244). -/
structure OpSlot where
  kind : Nat := 0
  owner : Option Nat := none
  params : BitVec 32768 := 0
  throttle : Nat := 1
  fmt : Bool := false
  tc : Bool := false
  qsat : Bool := false
  exc : BitVec 5 := 0
  drop : Nat := 0
  rowc : Nat := 0
  insts : List OpInst := []
  deriving DecidableEq, Repr

/-- A configuration word of the stream operators as a strand issues it (R234): 0 so.cfg, 1 so.rte, 2 so.thr; its parameters, xa, xb. -/
structure SoWord where
  strand : Nat
  word : Nat
  params : BitVec 32768 := 0
  xa : W64
  xb : W64 := 0
  deriving DecidableEq, Repr

/-- A route between nodes of a VN die (R239); rows on the link; credits taken at the destination. -/
structure Route where
  src : Nat
  dst : Nat
  port : Nat
  deriving DecidableEq, Repr

/-- The error bank of a die (R411). -/
structure ErrorBank where
  lost : Nat := 0
  seq : Nat := 0
  ovf : Bool := false
  sev : Nat := 0
  wt : Nat := 0
  addr : Nat := 0
  detail : Nat := 0
  code : Nat := 0
  unit : Nat := 0
  slot : Nat := 0
  deriving DecidableEq, Repr

/-- An event for an error bank (R411). Its DETAIL is none where the manual gives it no value. -/
structure ErrEvent where
  sev : Nat
  unit : Nat
  addr : Nat
  code : Nat
  detail : Option Nat
  slot : Nat
  deriving DecidableEq, Repr

/-- The ageing record (R423). -/
structure Ageing where
  eol : BitVec 16 := 0xFFFF
  rod : BitVec 16 := 0
  eye : BitVec 8 := 100
  ret : BitVec 8 := 0
  hbmt : BitVec 16 := 0
  deriving DecidableEq, Repr

/-- A migration request (R312). -/
structure MigReq where
  va : Nat
  len : Nat
  far : Bool
  deriving DecidableEq, Repr

/-- A die. -/
structure Die where
  mix : MixEntry := {}
  wsph : Nat := 0
  loadWindow : Bool := true
  regions : Vector Region 16 := Vector.replicate 16 {}
  brim : List (Nat × BrimEntry) := []
  ilv : List Nat := []
  ctrAddr : W64 := 0
  tgen : BitVec 2 := 0
  /-- walker cache: launch address of a word, and the valid word read from it (R385) -/
  wcache : List (Nat × W64) := []
  queues : List (Nat × XQueue) := []
  gemv : List Gemv := []
  arrays : Vector ArrayState 3 := Vector.replicate 3 {}
  ops : List (Nat × OpSlot) := []
  routes : List Route := []
  /-- rows on links: pipeline tick of acceptance, route, row (R241) -/
  links : List (Nat × Route × StreamRow) := []
  counter : Nat := 0
  bank : ErrorBank := {}
  /-- events of the tick `notedAt`, in the order in which the bank takes them, and the bank as it stood before them (R412) -/
  noted : List ErrEvent := []
  notedAt : Nat := 0
  bankWas : ErrorBank := {}
  ageing : Ageing := {}
  /-- HBM4E errors corrected since the last update of the ageing record (R423) -/
  hbmFixed : Nat := 0
  miglog : List MigReq := []
  selfRefresh : Bool := false
  lastAccess : Nat := 0
  /-- corrected words on their way back, with the wall ticks at which they were corrected, and whether the scrub found them: the
  buffers of all the die's banks and scratchpads, four entries each (R402, R404) -/
  wbuf : List (Nat × Nat × Bool) := []
  scrub : Nat := 0
  intersectFree : Vector Nat 4 := Vector.replicate 4 0
  /-- wall tick at which a deferred reset of a SW die was requested (R398) -/
  resetAsked : Option Nat := none
  /-- pages the FB migration engine moves: virtual address and descriptor (R396) -/
  moving : List (Nat × Nat) := []
  /-- the soft repair map in force: spare rows, columns and lanes (R418); and the seed of the die key, once derived (R420) -/
  repair : List Byte := []
  seed : List Byte := []
  deriving DecidableEq, Repr

/-- A group of the group table (R41, R43). -/
structure GroupEntry where
  num : Nat
  fabric : Bool := false
  tmap : List Nat := []
  target : Nat := 0
  count : Nat := 0
  phase : BitVec 16 := 0
  err : Bool := false
  code : BitVec 16 := 0
  /-- members that have arrived and wait, by linear team index -/
  waiting : List Nat := []
  /-- a fabric phase that is complete here and waits for the other ranks (R339) -/
  ready : List Nat := []
  deriving DecidableEq, Repr

/-- States of a view agent (R275). -/
inductive AgentState where
  | steady | proposing | changing | lost
  deriving DecidableEq, Repr

/-- A collective of a fabric group outstanding at this rank (R314, R315): its queue and command, its contributions. -/
structure Coll where
  seq : BitVec 32
  slot : Nat
  queue : Nat
  cmd : Nat
  op : XOp
  desc : BitVec 256
  out : W64
  inp : W64
  /-- its engine has begun to send (R314) -/
  sent : Bool := false
  /-- contributions that count in the current view: rank and bytes -/
  got : List (Nat × List Byte) := []
  /-- a result published in an older view, taken from a survivor: the rank that sent it, and its bytes; what this rank had formed of
  it itself when the view changed, as offsets and bytes (R277) -/
  result : Option (Nat × List Byte) := none
  formed : Option (List (Nat × List Byte)) := none
  /-- the code with which it completes in error, 0 for none, and the key where the error arose -/
  err : Nat := 0
  errKey : Nat := 0
  /-- its completion is on its way; it has come while the group was held (R275) -/
  closing : Bool := false
  ended : Bool := false
  /-- keys of its input region, and whether it has been written since the collective's issue (R120) -/
  inKeys : List (Nat × Nat) := []
  dirty : Bool := false
  /-- the bytes of its output region as they stood before it (R278) -/
  before : List Byte := []
  /-- its first deliveries are bound to TSTART; the ranks whose blocks are on their way to the output (R285) -/
  timed : Bool := false
  placed : List Nat := []
  deriving DecidableEq, Repr

/-- The view state and the agent of a fabric group at this rank (R267-R282). -/
structure FabGroup where
  num : Nat
  self : Nat := 0
  nrank : Nat := 1
  /-- rank table: package identifier and partition -/
  ranks : List (Nat × Nat) := []
  flat : Nat := 0
  block : Nat := 0
  view : BitVec 32 := 0
  members : List Nat := []
  agent : AgentState := .steady
  /-- the change in progress: proposed members, proposer, accepts with their frontiers, start time in FTIME -/
  proposed : List Nat := []
  proposer : Nat := 0
  accepts : List (Nat × BitVec 32 × BitVec 32) := []
  since : Nat := 0
  suspects : List Nat := []
  joins : List Nat := []
  admitted : List Nat := []
  awaitAck : List Nat := []
  /-- acknowledgements of joiners that came before the commit that admits them (R282) -/
  acked : List Nat := []
  nextSeq : BitVec 32 := 0
  published : BitVec 32 := 0xFFFFFFFF
  assigned : BitVec 32 := 0xFFFFFFFF
  /-- views left since launch, oldest first: members and issue frontier A (R437) -/
  past : List (BitVec 32 × List Nat × BitVec 32) := []
  s0 : BitVec 32 := 0
  /-- the completion frontier C of the last commit (R277) -/
  lastC : BitVec 32 := 0xFFFFFFFF
  colls : List Coll := []
  /-- packets of a newer view, held (R270) -/
  held : List (Nat × BitVec 32 × BitVec 32 × List Byte) := []
  /-- results published here that a survivor may ask for (R277) -/
  results : List (BitVec 32 × List Byte) := []
  /-- collectives issued here since launch, by sequence number (R315) -/
  issued : List (BitVec 32 × XOp × BitVec 256) := []
  deriving DecidableEq, Repr

/-- An entry of the checkpoint table (R368) and of the drain-stub table (R369). -/
structure ChkEntry where
  n : Nat
  cls : Nat
  cluster : Nat
  ctick : Nat
  spad : List (Nat × Nat)
  deriving DecidableEq, Repr

structure StubEntry where
  fr : Nat
  till : Nat
  stub : Nat
  restore : Nat
  deriving DecidableEq, Repr

/-- How far a kernel has come. -/
inductive KPhase where
  | loading          -- launch steps, before the go (R348)
  | going (at_ : Nat) -- T0 or resumption falls at this wall tick
  | running
  | stopping         -- strands divert to their stubs (R371)
  | ending           -- ended; accepted commands complete (R367)
  deriving DecidableEq, Repr

/-- The kernel that a partition runs (R337-R348). -/
structure Kernel where
  packet : W64 := 0
  kimg : W64 := 0
  ltag : Nat := 0
  msiv : Nat := 0xFFFF
  devaddr : W64 := 0
  prio : Nat := 0
  strict : Bool := false
  tslot : Nat := 0
  chkmax : Nat := 0
  seqt : Nat := 0
  vsig : Nat := 0
  vcare : Nat := 0
  nm : Nat := 0
  nv : Nat := 0
  ng : Nat := 0
  anchors : List Nat := []
  chktab : Option (List ChkEntry) := none
  stubtab : Option (List StubEntry) := none
  used : List Nat := []
  phase : KPhase := .running
  wstart : Nat := 0
  restoring : Bool := false
  ctx : Option Nat := none
  /-- the age with which it left its queue (R344) -/
  age : Nat := 0
  deriving DecidableEq, Repr

/-- A launch in a queue: its packet's address, the graph context that waits for it, and its age (R342, R344). -/
structure Waiting where
  packet : W64
  ctx : Option Nat := none
  age : Nat := 0
  resumed : Bool := false
  deriving DecidableEq, Repr

/-- A hold in force (R34-R36): the wall tick at which it ends, when known. -/
structure Hold where
  until_ : Option Nat
  deriving DecidableEq, Repr

/-- The events of the package: every row of the opcode table that no word encodes, with its operands. An event waits in
`flight`, `agenda` or a pending write; `Step` turns it into its row of `Instr`. -/
inductive Event where
  | syncmaskWrite (strand : Nat) (val : BitVec 64)
  | flagsWrite (strand : Nat) (val : BitVec 64)
  | rndmWrite (strand : Nat) (val : BitVec 64)
  | srseedWrite (strand : Nat) (val : BitVec 64)
  | loopRegisterWrite (strand : Nat) (num : BitVec 12) (val : BitVec 64)
  | kxvalWrite (strand : Nat) (n : XReg) (val : BitVec 64)
  | kernelEnd (part : Nat)
  | kernelRestart (part : Nat)
  | sdbgResume (part : Nat)
  | graphContextStart (ctx : Nat)
  | registerWrite (strand : Nat) (num : BitVec 12) (val : BitVec 64)
  | launchSubmit (part : Nat) (addr : BitVec 64) (ctx : Option Nat)
  | launchSelect (part : Nat)
  | goBroadcast (part : Nat)
  | kernelT0 (part : Nat)
  | readyReport (part : Nat) (slot : Nat)
  | anchorDeadline (part : Nat)
  | holdEnd (part : Nat)
  | syncRendezvous (core : Nat)
  | tokenWaitSatisfied (strand : Nat)
  | syncWaitSatisfied (strand : Nat)
  | drainSatisfied (strand : Nat)
  | timeWaitSatisfied (strand : Nat)
  | untimedCompletion (id : Nat)
  | spaceBlockRelease (strand : Nat)
  | barrierArrival (part : Nat) (grp : Nat) (team : Nat) (phase : Nat)
  | barrierErrorCompletion (part : Nat) (grp : Nat) (code : Nat)
  | barrierRelease (part : Nat) (grp : Nat) (team : Nat) (phase : Nat) (err : Bool) (code : Nat)
  | dieCompletion (slot : Nat)
  | leaseGrant (slot : Nat) (arr : Nat)
  | leaseExpiry (core : Nat)
  | arrayCommandStart (slot : Nat) (arr : Nat) (load : Bool)
  | refreshWaitEnd (slot : Nat) (arr : Nat) (load : Bool)
  | intersectStart (slot : Nat) (iunit : Nat)
  | engineCommandStart (slot : Nat) (queue : Nat)
  | engineCommandComplete (slot : Nat) (queue : Nat)
  | syncWordArrival (core : Nat) (off : Nat) (bytes : Nat) (err : Bool) (code : Nat)
  | streamRowAccept (slot : Nat) (node : Nat) (port : Nat) (tag : Tag) (row : BitVec 2048)
  | operatorEmit (slot : Nat) (node : Nat)
  | publishRequest (part : Nat) (slot : Nat) (queue : Nat) (vas : List Nat)
  | publishFlip (part : Nat) (slot : Nat) (queue : Nat) (vas : List Nat)
  | afencePromotion (strand : Nat) (tok : Nat) (slot : Nat)
  | preemptPending (part : Nat)
  | strandPark (strand : Nat)
  | stopComplete (part : Nat)
  | resumeGo (part : Nat)
  | viewChangeTrap (strand : Nat) (grp : Nat)
  | heartbeatSend (slot : Nat)
  | heartbeatReceive (pkg : Nat) (clock : ClockState)
  | heartbeatTimeout (pkg : Nat)
  | collectivePacket (part : Nat) (grp : Nat) (sender : Nat) (view : BitVec 32) (seq : BitVec 32) (data : List (BitVec 8))
  | collectiveNak (part : Nat) (grp : Nat) (pkg : Nat)
  | collectiveStart (slot : Nat) (queue : Nat)
  | ttDeliveryDeadline (part : Nat) (grp : Nat) (seq : BitVec 32) (sender : Nat)
  | suspect (part : Nat) (grp : Nat) (view : BitVec 32) (ranks : List Nat)
  | propose (part : Nat) (grp : Nat) (view : BitVec 32) (members : List Nat) (proposer : Nat)
  | accept (part : Nat) (grp : Nat) (view : BitVec 32) (rank : Nat) (cfront : BitVec 32) (afront : BitVec 32)
  | commit (part : Nat) (grp : Nat) (view : BitVec 32) (members : List Nat) (cfront : BitVec 32) (afront : BitVec 32)
  | join (part : Nat) (grp : Nat) (rank : Nat) (pkg : Nat)
  | joinAck (part : Nat) (grp : Nat) (rank : Nat)
  | proposeTimeout (part : Nat) (grp : Nat)
  | commitTimeout (part : Nat) (grp : Nat)
  | ptpSync (port : Nat) (origin : BitVec 64)
  | ptpPdelayReq (port : Nat)
  | ptpPdelayResp (port : Nat) (delay : Nat)
  | ptpAnnounce (port : Nat) (gm : ClockSet) (steps : Nat)
  | timeSourceLoss
  | holdoverExpiry
  | lineRequest (part : Nat) (va : Nat) (kind : LineOp) (data : List (BitVec 8)) (len : Nat) (ident : Nat)
  | lineRequestTimeout (id : Nat)
  | hostAccess (slot : Nat) (win : HostWindow) (off : Nat) (write : Bool) (data : List (BitVec 8)) (len : Nat)
  | tableDrainTimeout (part : Nat)
  | migrationDirect (slot : Nat) (part : Nat) (va : Nat) (desc : BitVec 64)
  | migrationLogClear (slot : Nat)
  | bindLd (slot : Nat) (part : Nat)
  | unbindLd (slot : Nat)
  | swResetApply (slot : Nat)
  | swResetLimit (slot : Nat)
  | scrubStep (slot : Nat)
  | writebackRetire (slot : Nat)
  | seamCrcFailure (a : Nat) (b : Nat)
  | dieLost (slot : Nat)
  | errorBankAck (slot : Nat) (seq : Nat)
  | packageReset
  | status
  | reset
  | dieReset (slot : Nat)
  | freeze
  | thaw
  | readout (key : Nat)
  | write (key : Nat) (data : List (BitVec 8))
  | withdraw (slot : Nat)
  | restore (slot : Nat)
  | setmode (mode : PowerMode)
  | modeSwitch
  | ageing (slot : Nat)
  | ageingUpdate (slot : Nat)
  | resume (part : Nat)
  | flashwr (off : Nat) (data : List (BitVec 8))
  | flashrd (off : Nat)
  | mctpControl (cmd : Nat)
  | getVersion (doe : Bool)
  | getCapabilities (doe : Bool)
  | negotiateAlgorithms (doe : Bool)
  | getDigests (doe : Bool)
  | getCertificate (doe : Bool) (certSlot : Nat) (off : Nat) (len : Nat)
  | challenge (doe : Bool) (nonce : List (BitVec 8))
  | getMeasurements (doe : Bool) (index : Nat)
  | selfRefreshEntry (slot : Nat)
  | endNode (ctx : Nat)
  | launchNode (ctx : Nat)
  | waitvNode (ctx : Nat)
  | waitvTimeout (ctx : Nat)
  | condNode (ctx : Nat)
  | whileNode (ctx : Nat)
  | signalNode (ctx : Nat)
  | xferNode (ctx : Nat)
  | hostNode (ctx : Nat)
  | timedWriteLanding (part : Nat)
  | migrationPageFlip (slot : Nat)
  deriving DecidableEq, Repr

/-- What the matrix lining forms of an upset column: the coarse y, as sign, significand and exponent, and the largest exponent
among the products (R409). -/
structure LinedTerm where
  neg : Bool
  sig : Nat
  exp : Int
  top : Int
  deriving DecidableEq, Repr

/-- What a pending write does when it lands (R7, R137, R82). Cluster ports are 0-3, the array port 4, the engine port 5. -/
inductive PendAct where
  | x (strand : Nat) (sup : Bool) (r : XReg) (val : W64)
  | v (strand : Nat) (r : VRegNo) (data : BitVec 32768) (slots : BitVec 1024) (tag : Option Tag)
  | k (strand : Nat) (r : KRegNo) (val : BitVec 1024)
  | b (strand : Nat) (r : BRegNo) (data : BitVec 8192) (bytes : BitVec 1024)
  | flags (strand : Nat) (bits : BitVec 6)
  | store (core port off : Nat) (bytes : List Byte)
  | atomic (core port off n : Nat) (op : AtomOp) (y cmp : Nat) (dest : Option (Nat × Bool × XReg))
  /-- a `swset`: TARGET, and every other field but GEN 0 (R99) -/
  | swset (core port off target : Nat)
  | vstRead (strand : Nat) (r : VRegNo) (kib core port off n : Nat)
  | scatter (core : Nat) (base : Nat) (items : List (Nat × BitVec 32)) (flt : Bool) (limit : Nat) (strand : Nat)
  | sendRow (strand : Nat) (r : VRegNo) (row : Nat)
  | mstat (strand : Nat) (sup : Bool) (dest : XReg) (clear : Bool)
  | gstat (strand : Nat) (sup : Bool) (dest : XReg) (clear : Bool)
  | mprog (strand : Nat) (sup : Bool) (dest : XReg)
  | leaseTo (core : Nat) (st : Lease)
  /-- a hold of n ticks that begins after the tick at which it lands (R401) -/
  | hold (part n : Nat)
  | so (strand : Nat) (word : Nat) (params : BitVec 32768) (xa xb : W64)
  | isect (core : Nat) (id j : Nat)
  | isectFree (core id : Nat)
  | isectLand (core strand : Nat) (sup : Bool) (dest : XReg) (val : W64) (fl : BitVec 6)
  | embTable (core cluster : Nat) (t : BitVec 3) (et : Option EmbTable)
  | leaseAsk (strand : Nat) (dest : XReg)
  | chunk (slot arr id bs off : Nat) (bytes : List Byte) (final : Bool)
  | latentLand (slot arr : Nat) (desc : BitVec 128)
  | tileHead (slot arr id q : Nat)
  | rowEnter (slot arr id i : Nat)
  | rowLand (slot arr core id i : Nat) (op : ArrOp) (ys : List (Nat × Nat)) (cnt : Nat) (sh : Option LinedTerm)
  | rowWork (slot arr core id i : Nat) (op : ArrOp) (scale : List Nat)
  | rowSet (slot arr row : Nat) (tag : Tag) (data : BitVec 8192)
  | cmdDone (slot arr id : Nat)
  /-- the end of a cuff replay of the tile of a marker (R406) -/
  | replayEnd (slot arr id : Nat)
  | timedRead (part id j : Nat)
  | timedLand (part id j : Nat) (data : Option (List Byte))
  | havoc (core n : Nat)
  /-- a result of a lined path that diverged: the group that wrote it, the INFO of R409, and the groups of its bundle -/
  | lining (strand : Nat) (sepc : W64) (info : Nat) (mates : List (Nat × W64))
  | event (e : Event)
  deriving DecidableEq, Repr

/-- A pending write: the clock (wall ticks, or the pipeline ticks of a partition, which stop in holds), the tick at which
it lands and its place in issue order (R137, R377). -/
structure Pend where
  part : Nat
  wall : Bool
  due : Nat
  seq : Nat
  act : PendAct
  deriving DecidableEq, Repr

/-- What an untimed access of a strand does (R91, R175, R176, R203, R116). -/
inductive UntimedOp where
  | load (dest : XReg) (n : Nat) (signed : Bool)
  | store (data : List Byte)
  | atomic (dest : XReg) (n : Nat) (op : AtomOp) (y cmp : Nat)
  | vload (dest : VRegNo) (tag : Tag)
  | afence (slot : Nat)
  | panel (slot arr id : Nat) (op : ArrOp)
  /-- a barrier arrival that waits for the strand's earlier accesses: it is a release (R109) -/
  | arrival (part grp team phase : Nat)
  deriving DecidableEq, Repr

/-- An untimed access in flight: its pieces in ascending address order as translated at issue (R117), the token, the
accesses it waits for, and the wall tick from which it may complete. -/
structure Untimed where
  id : Nat
  strand : Nat
  sup : Bool
  tok : Fin 8
  op : UntimedOp
  va : Nat := 0
  pieces : List (Place × Nat)
  due : Nat
  after : List Nat := []
  afterSeq : Nat := 0
  afterAcq : Nat := 0
  seg : Nat := 0
  issued : Nat := 0
  /-- how far it has come: which of its lines have reached their dies and which of those failed, the first code, the data, and
  the elements of 4 bytes that have not landed, once some have (R32, R95, R102) -/
  begun : Bool := false
  early : Nat := 0
  dropped : Nat := 0
  code : Option Nat := none
  data : List Byte := []
  left : Option Nat := none
  deriving DecidableEq, Repr

/-- The stop context of a partition (R374, R410): what each die saved. -/
structure StopCtx where
  kernel : Kernel
  stick : Nat
  holds : Nat
  crown : Nat
  strands : List (Nat × Strand)
  cores : List (Nat × Core)
  dies : List (Nat × Die)
  /-- saved scratchpad ranges, and the code streams, each under its key -/
  spad : List (Nat × List Byte)
  groups : List GroupEntry
  fabs : List FabGroup := []
  /-- wall tick of the stop; barrier messages on their way then, with the ticks they still take -/
  at_ : Nat := 0
  /-- the pipeline tick of the stop, from which the saved operators count -/
  pclk : Nat := 0
  flight : List (Nat × Event) := []
  mixView : List MixEntry := []
  deadSeams : List (Nat × Nat) := []
  routeDies : List Nat := []
  deriving DecidableEq, Repr

/-- An anchor between its tick and its release tick (R30-R33): the schedule tick, the segment it closes, the dies that
have sent their report, those whose report has arrived, the wall tick of a deadline that passed with reports missing,
and the length of the hold once it is known. `wall` is
the wall tick of its first issue, `w95` that of the group at t_a + 95. -/
structure AnchorRec where
  at_ : Nat
  wall : Nat
  seg : Nat
  sent : List Nat := []
  reports : List Nat := []
  late : Option Nat := none
  len : Option Nat := none
  w95 : Option Nat := none
  deriving DecidableEq, Repr

/-- A timed copy on its way (R90, R319): pipeline tick of its enq, KiBs, route, keys of its regions, the dies that hold
them, the sync word it reports to (core and offset), the group of GE, the code of a KiB that failed. -/
structure TimedCopy where
  id : Nat
  strand : Nat
  start : Nat
  kib : Nat
  route : List Nat
  src : Nat
  dst : Nat
  srcSlot : Nat
  dstSlot : Nat
  dstCore : Option Nat
  report : Option (Nat × Nat)
  ge : Option Nat
  /-- the die that executes it, and where the first fault arose -/
  exe : Nat := 0
  code : Nat := 0
  errKey : Nat := 0
  lost : Nat := 0
  deriving DecidableEq, Repr

/-- A partition (R22-R50, R337-R376). -/
structure Part where
  queues : Vector (List Waiting) 4 := Vector.replicate 4 []
  refused : Nat := 0
  kernel : Option Kernel := none
  preempted : List StopCtx := []
  /-- the context area of the running kernel's last stop (R410) -/
  context : Option StopCtx := none
  stick : Nat := 0
  pclk : Nat := 0
  holds : Nat := 0
  /-- whether the current wall tick is a schedule tick: no hold stands (R34) -/
  live : Bool := true
  hold : Option Hold := none
  /-- anchors issued whose release tick has not come (R30, R33) -/
  anchors : List AnchorRec := []
  /-- the wall tick at which the last anchor released was issued (R370, R398) -/
  lastAnchor : Nat := 0
  seg : Nat := 0
  groups : List GroupEntry := []
  fabs : List FabGroup := []
  crown : Nat := 0
  mixView : List MixEntry := []
  preemptAsked : Bool := false
  preemptDue : Option Nat := none
  preemptPend : Bool := false
  bken : Bool := false
  frozen : Bool := false
  /-- a `brk` freezes the partition at the next tick; a freeze ends at the next tick (R376) -/
  freezeNext : Bool := false
  thawNext : Bool := false
  sctx : W64 := 0
  supervisor : Bool := false
  svec : Nat := 0
  supLen : Nat := 0
  /-- header of the supervisor image loaded, for measurements (R420) -/
  supHeader : List Byte := []
  lastFlip : Nat := 0
  /-- timed copies whose last KiB has not landed (R319) -/
  timed : List TimedCopy := []
  /-- STATUS with which the running kernel is being ended, or the next launch refused (R367, R398, R410, R413) -/
  ending : Option Nat := none
  /-- seams marked failed as the routes of the running kernel see them (R15) -/
  deadSeams : List (Nat × Nat) := []
  routeDies : List Nat := []
  /-- wall tick from which a table rewrite waits for its drain, and the priority of the launch that makes it (R395) -/
  rewriteSince : Option Nat := none
  rewritePrio : Nat := 0
  /-- requests from outside that have been admitted and are not served yet: the wall tick at which each is, and the table
  generation that it carries (R395) -/
  admitted : List (Nat × Event × BitVec 2) := []
  /-- a restart of its kernel is under way: it is not idle, though no kernel runs (R410) -/
  restarting : Bool := false
  deriving DecidableEq, Repr

/-- A graph context (R353). -/
structure GraphCtx where
  node : Nat := 0
  limit : Bool := false
  fault : Bool := false
  refused : Bool := false
  run : Bool := false
  endv : Nat := 0xFFFF
  part : Nat := 0
  /-- the current node waits: for a launch, a value, or a command -/
  waiting : Bool := false
  since : Nat := 0
  /-- the wall tick at which its XFER node found its queue full (R350) -/
  blockedAt : Option Nat := none
  /-- what the launch or the command that the node waits for came to: completed, or refused or ended in error -/
  outcome : Option Bool := none
  deriving DecidableEq, Repr

/-- A fabric peer package as this package sees it (R273, R389). -/
structure Peer where
  lastBeat : Nat := 0
  clock : ClockState := .locked
  suspect : Bool := false
  /-- its heartbeats are lost: no link route to it lives (R273, R389) -/
  lost : Bool := false
  deriving DecidableEq, Repr

/-- A PTP port (R284). -/
structure PtpPort where
  lastOrigin : W64 := 0
  delay : Nat := 0
  /-- the last Announce, and the wall tick at which it came -/
  best : Option Announced := none
  heard : Nat := 0
  syncs : Nat := 0
  deriving DecidableEq, Repr

/-- What goes out of the package: host vectors, replies of the management port and of SPDM, fabric messages. -/
inductive Output where
  | hostVector (v : Nat)
  | reply (status : Nat) (data : List Byte)
  /-- a message of the management endpoint: MCTP type, whether over DOE, and its bytes (R420, R421) -/
  | message (type : Nat) (doe : Bool) (data : List Byte)
  | hostData (ok : Bool) (data : List Byte)
  | fabric (e : Event)
  /-- a heartbeat flit on a link of a SW die: the sender's package identifier and its clock state (R273) -/
  | heartbeat (slot link pkg : Nat) (clock : ClockState)
  /-- PTP messages of a port in a domain: Sync with its time, Announce with the grandmaster's data set, peer-delay request and
  response (R284) -/
  | ptpSync (port domain : Nat) (origin : W64)
  | ptpAnnounce (port domain : Nat) (ds : Announced)
  | ptpPdelayReq (port domain : Nat)
  | ptpPdelayResp (port domain : Nat)
  | lineReply (ident : Nat) (code : Nat) (data : List Byte)
  deriving DecidableEq, Repr

/-- The package as a whole. -/
structure Package where
  mode : PowerMode := .full
  modeAsked : Option PowerMode := none
  modeSwitch : Option Nat := none
  bootStep : Nat := 0
  /-- the wall tick at which the boot step under way ends; in step 1, what the banks examined so far hold: the header of an image
  that passes (R416, R417) -/
  bootDue : Option Nat := none
  bootHeads : List (Option (List Byte)) := []
  boots : Nat := 0
  bank : Nat := 0
  recovery : Bool := false
  /-- header of the management firmware in force (R415, R420) -/
  fwHeader : List Byte := []
  frozen : Bool := false
  frozenAt : Nat := 0
  clock : ClockState := .free
  clockSince : Nat := 0
  pkgId : Nat := 0
  /-- data set of the package's own clock, with the priority1 that the management controller sets; that of the best master, and
  the port that leads to it, none where it is this package (R284) -/
  ownClock : ClockSet := {}
  grandmaster : Option Announced := none
  slavePort : Option Nat := none
  peers : List (Nat × Peer) := []
  ports : List (Nat × PtpPort) := []
  deadSeams : List (Nat × Nat) := []
  /-- by seam: CRC failures in a row and the wall tick of the last (R405) -/
  seamFails : List (Nat × Nat × Nat) := []
  graphs : Vector GraphCtx 16 := Vector.replicate 16 {}
  /-- the context that the walker serves next (R355) -/
  walker : Nat := 0
  /-- words in error, by key (R84, R400): correctable, uncorrectable, and coded words poisoned; parity words, by group, that are
  uncorrectable (R399). A word's check bits and its group's parity are those of its data but for these errors -/
  single : List Nat := []
  bad : List Nat := []
  poison : List Nat := []
  badParity : List (Nat × Nat × Nat) := []
  /-- the number of the free bytes that the soft repair maps in flash held when the package last wrote them, if it has (R405,
  R418) -/
  repairSeal : Option Nat := none
  outputs : List Output := []
  /-- MCTP messages that have come to the management port and wait to be served, in the order of their arrival (R421) -/
  inbox : List (List Byte) := []
  /-- by seam direction and class: the queue served last, as slot × 16 + number (R351) -/
  served : List ((Nat × Nat × Nat) × Nat) := []
  deriving DecidableEq, Repr

/-- Everything but memory. -/
structure Hw where
  wtick : Nat := 0
  ftime : W64 := 0
  /-- what fabric time holds below 1/256 ns, in parts of 16,800,000,000; the model's own (R283) -/
  fsub : Nat := 0
  fresh : Nat := 0
  seq : Nat := 0
  cur : Nat := 0
  agenda : List Event := []
  phase : Nat := 0
  todo : List Nat := []
  /-- configuration words that strands of lower requester key are still to issue in this tick (R234); the model's own -/
  soAhead : List SoWord := []
  flight : List (Nat × Event) := []
  pend : List Pend := []
  untimed : List Untimed := []
  transit : List Transit := []
  strands : List (Nat × Strand) := []
  cores : List (Nat × Core) := []
  dies : List (Nat × Die) := []
  parts : Vector Part 8 := Vector.replicate 8 {}
  pkg : Package := {}
  deriving DecidableEq, Repr

/-- The state of the package: its memory, as (location key, byte) pairs in canonical form, and the hardware. -/
structure State where
  mem : List Host.Cell
  hw : Hw
  deriving DecidableEq, Repr

/-- Package reset (R417): WTICK 0, nothing bound, nothing placed, memory with nothing listed; the boot sequence is the
first thing that happens. What each field without a value of the manual's holds is named in notes/assumptions/8.md. -/
def State.reset : State := { mem := [], hw := { agenda := [.packageReset] } }

end Sys2Proof.Machine
end

