-- ==== Sys2Proof/Machine/Ops.lean ====
section
/-! DEFINITION. The named operations over memory, registers and the package: reading and writing, landing later, moving
the program counter, taking a trap and returning from one, errors of the machine. Every meaning is made of these. -/
namespace Sys2Proof.Machine
open Sys2Proof

/-! ### Association lists in ascending key order -/

/-- The value at a key, or the default where none is listed. -/
def amGet {α : Type} (l : List (Nat × α)) (k : Nat) (d : α) : α :=
  match l with
  | [] => d
  | (j, a) :: t => if j = k then a else amGet t k d

/-- Sets the value at a key, keeping the keys strictly ascending. -/
def amSet {α : Type} (l : List (Nat × α)) (k : Nat) (a : α) : List (Nat × α) :=
  match l with
  | [] => [(k, a)]
  | (j, b) :: t => if k < j then (k, a) :: (j, b) :: t else if k = j then (k, a) :: t else (j, b) :: amSet t k a

/-- Removes a key. -/
def amDel {α : Type} (l : List (Nat × α)) (k : Nat) : List (Nat × α) := l.filter (fun p => p.1 != k)

/-! ### Memory: one list over all the spaces of R79 -/

abbrev Memory := List Host.Cell

/-- What an unlisted location reads as. DESIGN CHOICE, unsafe: the manual gives no contents (notes/assumptions/1.md). -/
def unlisted : Byte := 0

def Memory.read (m : Memory) (k : Nat) : Byte := amGet m k unlisted

/-- Writes a byte, keeping the canonical form: keys strictly ascending, no entry equal to `unlisted`. -/
def Memory.write (m : Memory) (k : Nat) (b : Byte) : Memory :=
  match m with
  | [] => if b = unlisted then [] else [(k, b)]
  | (j, c) :: t =>
    if k < j then (if b = unlisted then (j, c) :: t else (k, b) :: (j, c) :: t)
    else if k = j then (if b = unlisted then t else (k, b) :: t)
    else (j, c) :: Memory.write t k b

/-- The canonical form, from a least key on. -/
def Memory.wfFrom (m : Memory) (lo : Nat) : Bool :=
  match m with
  | [] => true
  | (j, c) :: t => decide (lo ≤ j) && decide (c ≠ unlisted) && Memory.wfFrom t (j + 1)

def Memory.wf (m : Memory) : Bool := Memory.wfFrom m 0

def Memory.readBytes (m : Memory) (k n : Nat) : List Byte := (List.range n).map fun i => Memory.read m (k + i)

def Memory.writeBytes (m : Memory) (k : Nat) (bs : List Byte) : Memory :=
  match bs with
  | [] => m
  | b :: t => Memory.writeBytes (Memory.write m k b) (k + 1) t

/-- Little-endian value of bytes (R3), and the n low bytes of a value. -/
def leNat (bs : List Byte) : Nat :=
  match bs with
  | [] => 0
  | b :: t => b.toNat + 256 * leNat t

def leBytes (n v : Nat) : List Byte :=
  match n with
  | 0 => []
  | n + 1 => BitVec.ofNat 8 v :: leBytes n (v / 256)

def Memory.readNat (m : Memory) (k n : Nat) : Nat := leNat (Memory.readBytes m k n)

/-- Location keys: a space, a unit of it (core, slot, partition), an offset. -/
def locKey (space unit off : Nat) : Nat := space * 2 ^ 80 + unit * 2 ^ 60 + off
/-- The scratchpad of a core, or the sequencer window of its die (R79, R153). Core numbers are slot × 32 + position;
a die sequencer counts as position 24 (R350). -/
def spadKey (core off : Nat) : Nat := if core % 32 = 24 then locKey 2 (core / 32) off else locKey 1 core off
def sramKey (slot off : Nat) : Nat := locKey 2 slot off
def weightKey (slot off : Nat) : Nat := locKey 3 slot off
def hbmKey (slot off : Nat) : Nat := locKey 4 slot off
def farKey (slot off : Nat) : Nat := locKey 5 slot off
def hostKey (off : Nat) : Nat := locKey 6 0 off
/-- Row `row` of the accumulator memory of an array (R89, R246). -/
def accKey (slot arr row : Nat) : Nat := locKey 10 (slot * 4 + arr) (1024 * row)
def supKey (part off : Nat) : Nat := locKey 7 part off
def flashKey (off : Nat) : Nat := locKey 8 0 off
def codeKey (part off : Nat) : Nat := locKey 9 part off
def remoteKey (pkg part off : Nat) : Nat := locKey 15 (pkg * 8 + part) off

/-! ### Places in the package -/

/-- Strand numbers: slot × 128 + position × 4 + cluster (the requester key of R350). -/
def coreOf (strand : Nat) : Nat := strand / 4
def slotOf (strand : Nat) : Nat := strand / 128
def clusterOf (strand : Nat) : Nat := strand % 4
def posOf (strand : Nat) : Nat := strand / 4 % 32
def isSeq (strand : Nat) : Bool := posOf strand == 24
def seqOf (slot : Nat) : Nat := slot * 128 + 96

def Hw.strand (h : Hw) (i : Nat) : Strand := amGet h.strands i {}
def Hw.core (h : Hw) (c : Nat) : Core := amGet h.cores c {}
def Hw.die (h : Hw) (d : Nat) : Die := amGet h.dies d {}
def Hw.part (h : Hw) (p : Nat) : Part := h.parts.get (Fin.ofNat 8 p)
def Hw.setStrand (h : Hw) (i : Nat) (st : Strand) : Hw := { h with strands := amSet h.strands i st }
def Hw.setCore (h : Hw) (c : Nat) (x : Core) : Hw := { h with cores := amSet h.cores c x }
def Hw.setDie (h : Hw) (d : Nat) (x : Die) : Hw := { h with dies := amSet h.dies d x }
def Hw.setPart (h : Hw) (p : Nat) (x : Part) : Hw := { h with parts := h.parts.set (Fin.ofNat 8 p) x }
def Hw.updStrand (h : Hw) (i : Nat) (f : Strand → Strand) : Hw := h.setStrand i (f (h.strand i))
def Hw.updCore (h : Hw) (c : Nat) (f : Core → Core) : Hw := h.setCore c (f (h.core c))
def Hw.updDie (h : Hw) (d : Nat) (f : Die → Die) : Hw := h.setDie d (f (h.die d))
def Hw.updPart (h : Hw) (p : Nat) (f : Part → Part) : Hw := h.setPart p (f (h.part p))
def Hw.updPkg (h : Hw) (f : Package → Package) : Hw := { h with pkg := f h.pkg }

/-- The strand whose group is being issued. -/
def Hw.st (h : Hw) : Strand := h.strand h.cur
def Hw.upd (h : Hw) (f : Strand → Strand) : Hw := h.updStrand h.cur f

/-- The partition that a die is bound to, and that of a strand (R390). -/
def Hw.partOf (h : Hw) (slot : Nat) : Nat := (h.die slot).mix.part
def Hw.myPart (h : Hw) : Nat := h.partOf (slotOf h.cur)
def Hw.strictOf (h : Hw) (p : Nat) : Bool := match (h.part p).kernel with | some k => k.strict | none => false
/-- A partition is idle: it runs no kernel and restarts none (R344, R410). -/
def Part.idle (p : Part) : Bool := p.kernel.isNone && !p.restarting
def Hw.strict (h : Hw) : Bool := h.strictOf h.myPart

/-! ### Banks and registers -/

/-- The bank in use: the kernel's, or the S bank in supervisor mode (R357). -/
def Strand.bank (st : Strand) : Bank := match st.mode with | .kernel => st.kb | .supervisor => st.sb
def Strand.setBank (st : Strand) (sup : Bool) (b : Bank) : Strand := if sup then { st with sb := b } else { st with kb := b }
def Strand.sup (st : Strand) : Bool := st.mode == .supervisor
def Strand.updBank (st : Strand) (f : Bank → Bank) : Strand := st.setBank st.sup (f st.bank)
def Strand.bankOf (st : Strand) (sup : Bool) : Bank := if sup then st.sb else st.kb

/-- A read of x0 returns 0; a write to x0 is discarded (R128). -/
def Bank.readX (b : Bank) (r : XReg) : W64 := if r = 0 then 0 else b.x.get r
def Bank.writeX (b : Bank) (r : XReg) (v : W64) : Bank := if r = 0 then b else { b with x := b.x.set r v }
def Hw.rx (h : Hw) (r : XReg) : W64 := h.st.bank.readX r
def Hw.vreg (h : Hw) (r : VRegNo) : VecReg := h.st.v.get r
def Hw.kreg (h : Hw) (r : KRegNo) : BitVec 1024 := h.st.k.get r
def Hw.breg (h : Hw) (r : BRegNo) : BitVec 8192 := h.st.b.get r

/-! ### Landing later -/

/-- Inside a trap of a strict kernel, landings count wall ticks (R365); otherwise the pipeline ticks of the partition,
which stop in holds (R34) (notes/assumptions/13.md). -/
def Hw.useWall (h : Hw) (strand : Nat) : Bool := (h.strand strand).inTrap && h.strictOf (h.partOf (slotOf strand))
def Hw.now (h : Hw) (strand : Nat) : Nat :=
  if h.useWall strand then h.wtick else (h.part (h.partOf (slotOf strand))).pclk
/-- The tick at which the current group issues, on its own clock. -/
def Hw.tick (h : Hw) : Nat := h.now h.cur

/-- Adds a pending write that lands `lat` ticks from now on the clock of the given strand. -/
def Hw.pendFor (h : Hw) (strand lat : Nat) (a : PendAct) : Hw :=
  { h with
    pend := h.pend ++ [⟨h.partOf (slotOf strand), h.useWall strand, h.now strand + lat, h.seq, a⟩]
    seq := h.seq + 1 }
/-- The same for the current strand. -/
def Hw.later (h : Hw) (lat : Nat) (a : PendAct) : Hw := h.pendFor h.cur lat a

/-- A scalar result lands in the bank it was issued in (R137). A write to x0 is discarded. -/
def Hw.landX (h : Hw) (r : XReg) (v : W64) (lat : Nat) : Hw :=
  if r = 0 then h else h.later lat (.x h.cur h.st.sup r v)
def Hw.landV (h : Hw) (r : VRegNo) (data : BitVec 32768) (slots : BitVec 1024) (tag : Tag) (lat : Nat) : Hw :=
  h.later lat (.v h.cur r data slots (some tag))
def Hw.landK (h : Hw) (r : KRegNo) (v : BitVec 1024) (lat : Nat) : Hw := h.later lat (.k h.cur r v)
/-- FLAGS bits land with the result; no bits, no write (R68). -/
def Hw.landFlags (h : Hw) (bits : BitVec 6) (lat : Nat) : Hw := if bits = 0 then h else h.later lat (.flags h.cur bits)

/-- An event placed at a wall tick, at the next tick, or in this tick after what is already due. -/
def Hw.at (h : Hw) (w : Nat) (e : Event) : Hw := { h with flight := h.flight ++ [(w, e)] }
def Hw.soon (h : Hw) (e : Event) : Hw := { h with agenda := h.agenda ++ [e] }
def Hw.out (h : Hw) (o : Output) : Hw := h.updPkg fun p => { p with outputs := p.outputs ++ [o] }

/-- A fresh free value (notes/assumptions/2.md). -/
def Hw.freeVal (h : Hw) : Nat := Config.freeNat h.fresh
def Hw.used (h : Hw) : Hw := { h with fresh := h.fresh + 1 }

/-- Ticks of a number of microseconds in a power mode (R273, R424). -/
def usTicks (m : PowerMode) (n : Nat) : Nat := n * (match m with | .full => 700 | .efficient => 560 | .guarded => 672)

/-! ### The program counter and the loops (R139, R168, R169) -/

/-- The address of the instruction word of the group: past its prefix (R133). -/
def Strand.wordAddr (st : Strand) : W64 := st.pc + BitVec.ofNat 64 st.gpre
/-- The next group in address order. -/
def Strand.next (st : Strand) : W64 := st.pc + BitVec.ofNat 64 st.glen

/-- Whether the group at pc holds the word at a loop's end. -/
def Strand.endsLoop (st : Strand) (l : Loop) : Bool :=
  l.act && decide (st.pc ≤ l.last) && decide (l.last - st.pc < BitVec.ofNat 64 st.glen)

/-- The active loop that ends in the current group, if any. -/
def Strand.endingLoop (st : Strand) : Option LoopNo :=
  if st.endsLoop (st.bank.loops.get 0) then some 0
  else if st.endsLoop (st.bank.loops.get 1) then some 1
  else if st.endsLoop (st.bank.loops.get 2) then some 2 else none

/-- The end words of two active loops lie in the group (R168). -/
def Strand.twoEnds (st : Strand) : Bool :=
  let e := fun n => (st.endsLoop (st.bank.loops.get n)).toNat
  decide (2 ≤ e 0 + e 1 + e 2)

/-- Control falls through the group: the back-edge of a loop that ends here, or the next group (R168). -/
def Strand.fallThrough (st : Strand) : Strand :=
  match st.endingLoop with
  | none => { st with pc := st.next }
  | some j =>
    let l := st.bank.loops.get j
    if l.count > 1 then
      { st.updBank (fun b => { b with loops := b.loops.set j { l with count := l.count - 1 } }) with pc := l.start }
    else { st.updBank (fun b => { b with loops := b.loops.set j { l with count := 0, act := false } }) with pc := st.next }

/-- Loops that a taken branch, jmp or jr to a target leaves (R169). -/
def Loop.leftBy (l : Loop) (t : W64) : Loop :=
  if l.act && (decide (t < l.start) || decide (l.last < t)) then { l with act := false, count := 0 } else l

/-- A taken branch, `jmp` or `jr`. -/
def Strand.branchTo (st : Strand) (t : W64) : Strand :=
  { st.updBank (fun b => { b with loops := b.loops.map (·.leftBy t) }) with pc := t }

/-- A `call`, `callr` or `ret`: loop state stays (R169). -/
def Strand.goTo (st : Strand) (t : W64) : Strand := { st with pc := t }

def Hw.advance (h : Hw) : Hw := h.upd Strand.fallThrough

/-! ### Errors recorded, kernels ended -/

/-- An event of severity n meets an error bank (R412). -/
def ErrorBank.record (b : ErrorBank) (sev wt unit addr code detail slot : Nat) : ErrorBank :=
  let inc := fun n => if n < 0xFFFF then n + 1 else n
  let taken : ErrorBank :=
    { b with seq := (b.seq + 1) % 256, sev := sev, wt := wt, addr := addr, detail := detail, code := code,
             unit := unit, slot := slot }
  if b.sev = 0 then taken
  else if b.sev = 1 then (if sev = 1 then { b with lost := inc b.lost } else { taken with lost := inc b.lost })
  else if b.sev = 2 then
    (if sev = 1 then { b with lost := inc b.lost }
     else if sev = 2 then { b with lost := inc b.lost, ovf := true }
     else { taken with lost := inc b.lost, ovf := true })
  else (if sev = 1 then { b with lost := inc b.lost } else { b with lost := inc b.lost, ovf := true })

/-- DETAIL of an event that was taken at a wall tick: a free value where the manual gives none (R411, notes/assumptions/90.md). -/
def ErrEvent.detailAt (e : ErrEvent) (w : Nat) : Nat := (e.detail.getD (Config.errDetail w e.slot e.unit e.addr)) % 2 ^ 64

def ErrorBank.take (b : ErrorBank) (w : Nat) (e : ErrEvent) : ErrorBank :=
  b.record e.sev w e.unit e.addr e.code (e.detailAt w) e.slot

/-- Events of a tick in ascending UNIT, then ascending ADDR. -/
def insertErr (e : ErrEvent) (l : List ErrEvent) : List ErrEvent :=
  match l with
  | [] => [e]
  | x :: t => if e.unit < x.unit ∨ (e.unit = x.unit ∧ e.addr < x.addr) then e :: x :: t else x :: insertErr e t

/-- The bank before the events of the tick, and these events so far. -/
def Die.before (d : Die) (w : Nat) : ErrorBank × List ErrEvent :=
  if d.notedAt = w ∧ d.noted ≠ [] then (d.bankWas, d.noted) else (d.bank, [])

/-- The bank after events of a tick, in order. -/
def Die.apply (d : Die) (w : Nat) (b : ErrorBank) (es : List ErrEvent) : Die :=
  { d with bank := es.foldl (fun b e => b.take w e) b, bankWas := b, noted := es, notedAt := w }

/-- An event meets a die's bank: those of one tick are taken in their order, whichever comes first (R412). -/
def Die.note (d : Die) (w : Nat) (e : ErrEvent) : Die := d.apply w (d.before w).1 (insertErr e (d.before w).2)

def Hw.record (h : Hw) (slot sev unit addr code : Nat) (detail : Option Nat) : Hw :=
  if Config.slotType slot = .none then h else h.updDie slot fun d => d.note h.wtick ⟨sev, unit, addr, code, detail, slot⟩

/-- The kernel of a partition is ended with a STATUS from the next tick on (R367); the first end requested stands. -/
def Hw.endKernel (h : Hw) (p status : Nat) : Hw :=
  match (h.part p).kernel with
  | none => h
  | some k =>
    if k.phase = .ending then h
    else match (h.part p).ending with
    | some _ => h
    | none => (h.updPart p fun q => { q with ending := some status }).at (h.wtick + 1) (.kernelEnd p)

/-- A machine check (R413): recorded on a die at severity 11, and the kernels of the affected partitions end. -/
def Hw.machineCheckAt (h : Hw) (slot unit code : Nat) (parts : List Nat) : Hw :=
  parts.foldl (fun g p => g.endKernel p 0x060C) (h.record slot 3 unit 0 code none)
/-- One of the die itself. -/
def Hw.machineCheck (h : Hw) (slot code : Nat) (parts : List Nat) : Hw := h.machineCheckAt slot 0x0D code parts

/-! ### Taking a trap and returning (R357, R359, R360) -/

namespace Cause
def illegal : BitVec 8 := 0x01
def reserved : BitVec 8 := 0x02
def prefix_ : BitVec 8 := 0x03
def format : BitVec 8 := 0x04
def brimMiss : BitVec 8 := 0x05
def access : BitVec 8 := 0x06
def misaligned : BitVec 8 := 0x07
def overflow : BitVec 8 := 0x08
def underflow : BitVec 8 := 0x09
def loop : BitVec 8 := 0x0A
def config : BitVec 8 := 0x0B
def bundle : BitVec 8 := 0x0C
def deviation : BitVec 8 := 0x10
def lease : BitVec 8 := 0x11
def queue : BitVec 8 := 0x12
def refresh : BitVec 8 := 0x13
def thimbleOver : BitVec 8 := 0x20
def thimble : BitVec 8 := 0x21
def uncorrectable : BitVec 8 := 0x22
def lining : BitVec 8 := 0x23
def remote : BitVec 8 := 0x24
def viewChange : BitVec 8 := 0x30
def quorumLost : BitVec 8 := 0x31
def trap : BitVec 8 := 0x38
def brk : BitVec 8 := 0x39
end Cause

/-- What a trap records (R363): cause, INFO, DCODE and the address for STVAL. -/
structure TrapInfo where
  cause : BitVec 8
  info : Nat := 0
  dcode : Nat := 0
  stval : W64 := 0
  deriving DecidableEq, Repr

/-- Causes whose SSTAT.NXT is 1 at entry (R359). -/
def resumesNext (c : BitVec 8) : Bool := c == Cause.trap || c == Cause.brk || c == Cause.misaligned

/-- Causes for which a strict partition holds from entry to return: the returnable traps and the view change (R35, R363). -/
def Cause.holds (c : BitVec 8) : Bool := resumesNext c || c == Cause.viewChange

/-- Causes that are never reflected (R363): deviation, lease fault, queue overflow, refresh collision, quorum lost. -/
def Cause.reflects (c : BitVec 8) : Bool :=
  !(c == Cause.deviation || c == Cause.lease || c == Cause.queue || c == Cause.refresh || c == Cause.quorumLost)

/-- A strict partition holds for a trap that the strand is in, or for one whose hook it runs (R35, R365). -/
def Strand.holding (st : Strand) : Bool := st.trapHold || st.hooks.any (·.2)

/-- The strand after trap entry from kernel mode (R359): nothing else of the architectural state changes. -/
def Strand.enterTrap (st : Strand) (w strand : Nat) (t : TrapInfo) : Strand :=
  { st with
    sepc := st.pc, cause := t.cause, info := BitVec.ofNat 16 t.info
    dcode := BitVec.ofNat 16 t.dcode, clu := BitVec.ofNat 2 (clusterOf strand), stval := t.stval
    nxt := resumesNext t.cause, bnd := false, emu := false, rfl_ := false
    mode := .supervisor, pc := st.svec, notBefore := w + 2, wait := .none, inTrap := true
    trapHold := Cause.holds t.cause, trapPc := st.pc }

/-- The S-mode fault code of a cause (R357, R364), for the four causes that S mode records. -/
def sfcodeOf (c : BitVec 8) : Option (BitVec 16) :=
  if c = Cause.brimMiss then some 0x0401 else if c = Cause.access then some 0x0402
  else if c = Cause.misaligned then some 0x0402 else if c = Cause.uncorrectable then some 0x0403 else none

/-- A trap of a strand at its current group: in kernel mode, trap entry; in supervisor mode, a recorded fault after which
the strand goes on at the next tick, or a machine check (R357, R413). -/
def Hw.trapOf (h : Hw) (strand : Nat) (t : TrapInfo) : Hw :=
  match (h.strand strand).mode with
  | .kernel => h.updStrand strand fun st => st.enterTrap h.wtick strand t
  | .supervisor =>
    match sfcodeOf t.cause with
    | some c => h.updStrand strand fun st => { st.fallThrough with sflt := true, sfcode := c, notBefore := h.wtick + 1 }
    | none => h.machineCheck (slotOf strand) 0x0702 [h.partOf (slotOf strand)]

def Hw.trap (h : Hw) (t : TrapInfo) : Hw := h.trapOf h.cur t
def Hw.fault (h : Hw) (c : BitVec 8) : Hw := h.trap { cause := c }

/-- Reflection of a trap to the kernel hook (R365): the return address is pushed, x31 receives SCAUSE. -/
def Strand.scauseVal (st : Strand) : W64 :=
  (st.dcode.setWidth 64 <<< 48) ||| (st.info.setWidth 64 <<< 32) ||| (st.clu.setWidth 64 <<< 24) ||| st.cause.setWidth 64

/-- `after` is the address of the group after SEPC. -/
def Strand.reflect (st : Strand) (after : W64) : Strand :=
  let ra := if st.nxt then after else st.sepc
  let kb := { (st.kb.writeX 31 st.scauseVal) with rets := ra :: st.kb.rets }
  { st with kb := kb, pc := st.hookAddr, mode := .kernel, rfl_ := false, emu := false
            hooks := (st.kb.rets.length, st.trapHold) :: st.hooks, trapHold := false }

/-- The wall tick at which a strand that leaves a trap now issues next: where a strict kernel holds for the trap, the hold
lasts 16 ticks more (R35, R360). A trap entered at the end of a freeze is entered at the tick that the kernel's next groups would
have had, and its hold counts from there (R376). -/
def Hw.returnTick (h : Hw) (strand : Nat) (holding : Bool) : Nat :=
  if h.strictOf (h.partOf (slotOf strand)) && holding then h.wtick + (if (h.strand strand).thawed then 16 else 17) else h.wtick + 1

/-- A code address: bits [1:0] of the program counter are always zero, so those of an address that a table or the debugger gives it
do not count (R127; DESIGN CHOICE, notes/assumptions/94.md). -/
def onGrid (a : W64) : W64 := a &&& ~~~ 3

/-- A hold of a strict partition that lasts up to, and not including, a wall tick; of two holds the longer one counts
(R34, R36). -/
def Hw.holdUntil (h : Hw) (p w : Nat) : Hw :=
  if h.strictOf p then
    h.updPart p fun q => { q with hold := some ⟨some (match q.hold with
      | some ⟨some v⟩ => if v < w then w else v
      | _ => w)⟩ }
  else h
/-- A hold of n ticks after the current tick. -/
def Hw.holdFor (h : Hw) (p n : Nat) : Hw := h.holdUntil p (h.wtick + 1 + n)

/-- The return to kernel mode (R360): to SEPC when NXT is 0; when it is 1, in queued mode to the group after SEPC in address
order, and in strict mode to the planned group that follows the group of the trap, which has the given length. A trap taken
inside a hook returns into that hook (R365). -/
def Strand.returnTo (st : Strand) (strict : Bool) (after : W64) (len w : Nat) : Strand :=
  let k : Strand :=
    { st with mode := .kernel, notBefore := w, inTrap := !st.hooks.isEmpty, trapHold := false, emu := false, rfl_ := false
              thawed := st.thawed && !st.hooks.isEmpty }
  if st.nxt = false then { k with pc := st.sepc }
  else if strict then ({ k with pc := st.trapPc, glen := len }).fallThrough
  else { k with pc := after }

/-! ### Undefined effects (R8, R38) -/

/-- A free bank: registers, return-address store, loops. Tokens are no registers and stay. -/
def Bank.havoc (b : Bank) (f : Nat → Nat) : Bank :=
  { b with
    x := Vector.ofFn fun i => BitVec.ofNat 64 (f i.val)
    rets := (List.range (f 32 % 17)).map fun i => BitVec.ofNat 62 (f (168 + i)) ++ 0#2
    loops := Vector.ofFn fun i =>
      { act := f (40 + i.val) % 2 == 1, count := BitVec.ofNat 32 (f (44 + i.val))
        start := BitVec.ofNat 62 (f (48 + i.val)) ++ 0#2, last := BitVec.ofNat 62 (f (52 + i.val)) ++ 0#2 } }

/-- The registers that supervisor code of a strand may write (R357, R358). -/
def Strand.havocSup (st : Strand) (f : Nat → Nat) : Strand :=
  { st with
    sb := st.sb.havoc f, emu := f 33 % 2 == 1, rfl_ := f 34 % 2 == 1, nxt := f 35 % 2 == 1, sflt := f 36 % 2 == 1
    dcode := BitVec.ofNat 16 (f 37), info := BitVec.ofNat 16 (f 38), clu := BitVec.ofNat 2 (f 39), cause := BitVec.ofNat 8 (f 56)
    sepc := BitVec.ofNat 64 (f 57), stval := BitVec.ofNat 64 (f 58), svec := BitVec.ofNat 62 (f 59) ++ 0#2
    semu := BitVec.ofNat 64 (f 60), sfcode := BitVec.ofNat 16 (f 61), kxsel := BitVec.ofNat 5 (f 62)
    ssave := Vector.ofFn fun i => BitVec.ofNat 64 (f (188 + i.val)) }

/-- Every register of a strand that its team may write takes a free value; a strand in supervisor mode may write its
supervisor registers as well. -/
def Strand.havoc (st : Strand) (f : Nat → Nat) : Strand :=
  let k : Strand :=
    { st with
      kb := st.kb.havoc f
      v := Vector.ofFn fun i => { tag := BitVec.ofNat 4 (f (64 + i.val) % 13), data := BitVec.ofNat 32768 (f (96 + i.val)) }
      k := Vector.ofFn fun i => BitVec.ofNat 1024 (f (128 + i.val))
      b := Vector.ofFn fun i => BitVec.ofNat 8192 (f (144 + i.val))
      flags := BitVec.ofNat 6 (f 160), rndm := BitVec.ofNat 3 (f 161 % 6 + 1)
      srseed := BitVec.ofNat 32 (f 162), mixsel := BitVec.ofNat 6 (f 163)
      hookAddr := BitVec.ofNat 62 (f 164) ++ 0#2, hookEn := f 165 % 2 == 1, viewSlot := BitVec.ofNat 2 (f 166) }
  if st.sup then k.havocSup fun i => f (256 + i) else k

/-- A pending register write or scratchpad store of core c with a free value. -/
def PendAct.scrambled (a : PendAct) (c f : Nat) : PendAct :=
  let mine := fun (i : Nat) => coreOf i == c
  match a with
  | .x i sup r val => .x i sup r (if mine i then BitVec.ofNat 64 f else val)
  | .v i r data slots tag => .v i r (if mine i then BitVec.ofNat 32768 f else data) slots tag
  | .k i r val => .k i r (if mine i then BitVec.ofNat 1024 f else val)
  | .b i r data bytes => .b i r (if mine i then BitVec.ofNat 8192 f else data) bytes
  | .flags i bits => .flags i (if mine i then BitVec.ofNat 6 f else bits)
  | .store d p off bytes =>
    .store d p off (if d = c then leBytes bytes.length f else bytes)
  | .isectLand d i sup dest val fl =>
    .isectLand d i sup dest (if d = c then BitVec.ofNat 64 f else val) (if d = c then BitVec.ofNat 6 f else fl)
  | a => a

/-- A free embedding table: those that `gcfg` can write are among its values (R297). -/
def EmbTable.free (f : Nat) : Option EmbTable :=
  let fmt : Tag := match f / 7 % 6 with | 0 => 0x2 | 1 => 0x3 | 2 => 0x4 | 3 => 0x5 | 4 => 0x6 | _ => 0x8
  let base := f / 2 ^ 51
  let base := if f / 2 ^ 50 % 2 = 0 then base % 2 ^ 56 else 2 ^ 57 + base % 2 ^ 6 * 2 ^ 48 + base / 2 ^ 6 % 2 ^ 32
  if f % 7 = 0 then none
  else some { nr := f / 64 % (2 ^ 32 - 1) + 1, fmt := fmt, rb := 64 * (f / 2 ^ 40 % 512 + 1), base := BitVec.ofNat 64 base }

/-- A write of a special register, with a free value. -/
def Event.scramble (e : Event) (c f : Nat) : Event :=
  let val := fun (k : Nat) (v : W64) => if coreOf k == c then BitVec.ofNat 64 f else v
  match e with
  | .syncmaskWrite k v => .syncmaskWrite k (val k v)
  | .flagsWrite k v => .flagsWrite k (val k v)
  | .rndmWrite k v => .rndmWrite k (val k v)
  | .srseedWrite k v => .srseedWrite k (val k v)
  | .loopRegisterWrite k n v => .loopRegisterWrite k n (val k v)
  | .kxvalWrite k n v => .kxvalWrite k n (val k v)
  | .registerWrite k n v => .registerWrite k n (val k v)
  | e => e

/-- A pending write of a strand of core c to a register or to its scratchpad lands a free value; a status that it reads is still
cleared. -/
def PendAct.scramble (a : PendAct) (c f : Nat) : List PendAct :=
  let mine := fun (i : Nat) => coreOf i == c
  match a with
  | .mstat i sup d clr => if mine i then [.mstat i sup 0 clr, .x i sup d (BitVec.ofNat 64 f)] else [a]
  | .gstat i sup d clr => if mine i then [.gstat i sup 0 clr, .x i sup d (BitVec.ofNat 64 f)] else [a]
  | .mprog i sup d => if mine i then [.x i sup d (BitVec.ofNat 64 f)] else [a]
  | .atomic d p off n op y cmp dest => [.atomic d p off n (if d = c then .swp else op) (if d = c then f % 2 ^ (8 * n) else y) cmp
      (if d = c then none else dest)] ++ (match dest with
      | some (i, sup, r) => if d = c then [.x i sup r (BitVec.ofNat 64 (f / 2 ^ 64))] else []
      | none => [])
  | .embTable d cl t et => [.embTable d cl t (if d = c then EmbTable.free f else et)]
  | .swset d p off target => [.swset d p off (if d = c then f % 2 ^ 32 else target)]
  | .event e => [.event (e.scramble c f)]
  | a => [a.scrambled c f]

/-- A write to an embedding table, a register of a graph context or of the partition that supervisor code may write (R297, R358). -/
def Hw.havocShared (h : Hw) (f : Nat → Nat) : Hw :=
  let p := h.myPart
  let g := if h.st.sup then h.updPart p fun q => { q with bken := f 0 % 2 == 1, sctx := BitVec.ofNat 38 (f 1) ++ 0#26 } else h
  let g := if h.st.sup && h.cur == seqOf 0 then g.updPkg fun k => { k with graphs := Vector.ofFn fun i =>
      let x := k.graphs.get i
      { x with
        node := if x.run then x.node else f (2 + 8 * i.val) % 2 ^ 16, limit := x.limit && f (3 + 8 * i.val) % 2 == 1
        fault := x.fault && f (4 + 8 * i.val) % 2 == 1, refused := x.refused && f (5 + 8 * i.val) % 2 == 1
        endv := f (6 + 8 * i.val) % 2 ^ 16, part := f (7 + 8 * i.val) % 8 } } else g
  if isSeq h.cur then g
  else g.updCore (coreOf h.cur) fun k =>
    { k with syncmask := BitVec.ofNat 4 (f 256), et := Vector.ofFn fun i => EmbTable.free (f (257 + i.val)) }

/-- The undefined effect of the current group: the registers of every strand of the issuing team, its SYNCMASK, its
embedding tables and what is on its way to them hold free values at once, and at the next tick its scratchpad; no other state changes and the strand goes on
(R8, notes/assumptions/5.md). -/
def Hw.undefined (h : Hw) : Hw :=
  let c := coreOf h.cur
  let g := [0, 1, 2, 3].foldl (fun (g : Hw) i =>
    if (g.strand (c * 4 + i)).status = .idle then g
    else g.updStrand (c * 4 + i) fun st => st.havoc fun j => Config.freeOf h.fresh (1024 * i + j)) h
  let g : Hw := { g with pend := g.pend.flatMap fun (q : Pend) =>
    (q.act.scramble c (Config.freeOf h.fresh (8192 + q.seq))).map fun a => { q with act := a } }
  let g := g.havocShared fun j => Config.freeOf h.fresh (4096 + j)
  ((g.later 1 (.havoc c h.fresh)).used).advance

/-- Inside the hook of a reflected trap of a strict kernel (R365). -/
def Hw.inHook (h : Hw) : Bool := h.useWall h.cur && !h.st.sup

/-- A unit that is free from tick `t` of the pipeline clock on is occupied by the frozen pipelines around a hook (R365). -/
def Hw.stuck (h : Hw) (t : Nat) : Bool := h.inHook && decide ((h.part h.myPart).pclk < t)

/-- An issue to a unit that is still occupied (R38): a deviation trap in strict mode, undefined in queued mode, and undefined
in a hook where the frozen pipelines occupy the unit (R365). -/
def Hw.occupied (h : Hw) (stuck : Bool) : Hw :=
  if h.strict && !stuck then h.trap { cause := Cause.deviation, info := 2 } else h.undefined

/-! ### Space blocks (R40) -/

/-- A full queue, token or credit at issue, named by the INFO of R363: the queue-overflow trap in strict mode; in queued
mode the strand blocks and its group issues again when there is room. -/
def Hw.block (h : Hw) (info : Nat) : Hw :=
  if h.strict then h.trap { cause := Cause.queue, info := info }
  else h.upd fun st => { st with wait := .space h.wtick info }

/-! ### The shape of a meaning -/

/-- An instruction at issue: it reads memory but, by its type, writes none (its stores land later, R7, R82). -/
def issue (s : State) (f : Memory → Hw → Hw) : Host.Outcome State Fault Refusal :=
  .next { s with hw := f s.mem s.hw }

/-- An event that changes memory or the hardware. -/
def happen (s : State) (f : State → State) : Host.Outcome State Fault Refusal := .next (f s)

/-- An event at a die slot, or in a partition. -/
def atSlot (slot : Nat) (s : State) (f : State → State) : Host.Outcome State Fault Refusal :=
  if slot < 48 then .next (f s) else .fault .noSuchSlot
def inPart (p : Nat) (s : State) (f : State → State) : Host.Outcome State Fault Refusal :=
  if p < 8 then .next (f s) else .fault .noSuchPartition

def State.updHw (s : State) (f : Hw → Hw) : State := { s with hw := f s.hw }
def State.poke (s : State) (k : Nat) (bs : List Byte) : State := { s with mem := Memory.writeBytes s.mem k bs }

/-! ### Words in error (R84, R399, R400) -/

/-- Spaces held in coded words of 64 bits under vertical parity (R399): SRAM, weight stores, accumulator memory. -/
def codedKey (k : Nat) : Bool := k / 2 ^ 80 == 2 || k / 2 ^ 80 == 3 || k / 2 ^ 80 == 10
/-- Bytes of a protected word. -/
def wordBytes (k : Nat) : Nat := if codedKey k then 8 else 4
/-- Whether n bytes at a key take in part of a word. -/
def wordIn (k n b : Nat) : Bool := decide (k < b + wordBytes b) && decide (b < k + n)

/-- Words of a row of the coded memory that a key lies in (notes/assumptions/77.md). -/
def rowWidth (k : Nat) : Nat := if k / 2 ^ 80 = 10 then 128 else Nat.max 1 (Config.rowWords (k / 2 ^ 80))

/-- The parity group of a coded word: its memory, its block of 32 consecutive rows, and its column. So a group holds at most 32
words, one from each of 32 consecutive rows, all in one column (R399); the banks of the weight store are memories of their own (R88). -/
def codedGroup (k : Nat) : Nat × Nat × Nat :=
  let w := (if k / 2 ^ 80 = 3 then k % 2 ^ 25 else k % 2 ^ 60) / 8
  (if k / 2 ^ 80 = 3 then k / 2 ^ 25 else k / 2 ^ 60, w / rowWidth k / 32, w % rowWidth k)

/-- An uncorrectable coded word can be rebuilt: the other words of its group and the parity word are correct or correctable,
so that their exclusive OR is the word (R400). -/
def Hw.rebuilds (h : Hw) (b : Nat) : Bool :=
  codedKey b && (h.pkg.bad ++ h.pkg.poison).all (fun c => c == b || codedGroup c != codedGroup b) &&
    !h.pkg.badParity.contains (codedGroup b)

/-- Whether any word of the n bytes at a key cannot be recovered: it is poisoned, or uncorrectable with no rebuild. -/
def Hw.badAt (h : Hw) (k n : Nat) : Bool :=
  h.pkg.poison.any (wordIn k n) || h.pkg.bad.any fun b => wordIn k n b && !h.rebuilds b

/-- A read that cannot be served poisons the coded words among n bytes that no rebuild recovers (R400). -/
def Hw.poisonAt (h : Hw) (k n : Nat) : Hw :=
  let lost := h.pkg.bad.filter fun b => wordIn k n b && codedKey b && !h.rebuilds b
  if lost = [] then h else h.updPkg fun p => { p with bad := p.bad.filter fun b => !lost.contains b, poison := p.poison ++ lost }

/-- A read meets words among n bytes that it cannot recover: they are poisoned, and the event is recorded (R400, R403). -/
def Hw.unreadable (h : Hw) (slot unit addr k n : Nat) : Hw := (h.poisonAt k n).record slot 2 unit addr 0x0403 none

/-- A store of whole words gives them fresh codes and clears the errors of the words it covers (R84). A store of 4 bytes covers no
coded word of 64 bits: it leaves that word's error as it is, and so does a write to a group whose parity word is uncorrectable
(DESIGN CHOICE, notes/assumptions/77.md). -/
def Hw.clearBad (h : Hw) (k n : Nat) : Hw :=
  if h.pkg.bad = [] ∧ h.pkg.single = [] ∧ h.pkg.poison = [] then h
  else
    let keep := fun (b : Nat) => !(decide (k ≤ b) && decide (b + wordBytes b ≤ k + n))
    h.updPkg fun p => { p with bad := p.bad.filter keep, single := p.single.filter keep, poison := p.poison.filter keep }

/-- A tile one of whose sampled regions takes in one of the n bytes at a key is spoiled (R408). -/
def Tile.hit (t : Tile) (k n : Nat) : Tile :=
  { t with spoiled := t.spoiled || t.reads.any fun r => decide (r.1 < k + n) && decide (k < r.1 + r.2) }

/-- A write to the scratchpad of an M-core under the cuff of its array (R408). -/
def Hw.spoil (h : Hw) (k n : Nat) : Hw :=
  let core := k / 2 ^ 60 % 2 ^ 20
  let d := h.die (core / 32)
  let i := Fin.ofNat 3 (core % 32 / 4)
  let a := d.arrays.get i
  if k / 2 ^ 80 = 1 ∧ Config.slotType (core / 32) = .mx ∧ (a.tile ≠ none ∨ a.tileIssued ≠ none) then
    h.setDie (core / 32) { d with arrays := d.arrays.set i { a with
      tile := a.tile.map (·.hit k n), tileIssued := a.tileIssued.map (·.hit k n) } }
  else h

/-- A write to the input of a collective that is not yet published (R120). -/
def Hw.soil (h : Hw) (k n : Nat) : Hw :=
  if h.parts.toList.all fun p => p.fabs.all fun f => f.colls.isEmpty then h
  else
    { h with parts := h.parts.map fun p => { p with fabs := p.fabs.map fun f => { f with colls := f.colls.map fun c =>
        { c with dirty := c.dirty || c.inKeys.any fun r => decide (r.1 < k + n) && decide (k < r.1 + r.2) } } } }

/-- What n bytes stored at a key do beside the memory: their words have fresh codes, a tile that sampled them is spoiled, and
so is the input of a collective. -/
def Hw.stored (h : Hw) (k n : Nat) : Hw := ((h.clearBad k n).spoil k n).soil k n

end Sys2Proof.Machine
end

