-- ==== Sys2Proof/Machine/Address.lean ====
section
/-! DEFINITION. Where things are: dies, seams and routes (R10-R16), the partition's view of its dies (R17-R20), brim
translation and frame placement (R96, R378-R383), engine and launch addresses (R302, R337). -/
namespace Sys2Proof.Machine
open Sys2Proof

/-! ### Dies -/

def isSw (s : Nat) : Bool := Config.slotType s == .sw
/-- Whether a slot holds a healthy die now (R17). -/
def Hw.healthy (h : Hw) (s : Nat) : Bool := decide (s < 48) && (h.die s).mix.health == .good
/-- A healthy die bound to a partition (R390). -/
def Hw.inPartition (h : Hw) (p s : Nat) : Bool := h.healthy s && (h.die s).mix.bound && (h.die s).mix.part == p
def allSlots : List Nat := List.range 48
def Hw.diesOf (h : Hw) (p : Nat) : List Nat := allSlots.filter (h.inPartition p)
/-- The partition master: the lowest-numbered healthy SW die of the partition (R33). A partition without one has no master, and the
number 48, which no slot has, stands for it: no die is bound there, no route ends there, no port answers there (R419). -/
def Hw.master (h : Hw) (p : Nat) : Nat := ((h.diesOf p).find? isSw).getD 48

/-! ### Routes (R13-R16) -/

def pairKey (a b : Nat) : Nat × Nat := if a < b then (a, b) else (b, a)
def rowOf (s : Nat) : Nat := (s - 4) / 8
def colOf (s : Nat) : Nat := (s - 4) % 8
def populated (s : Nat) : Bool := Config.slotType s != .none
def near (a b : Nat) : Bool := decide (a + 1 = b) || decide (b + 1 = a)
/-- Adjacency of non-switch dies (R13). -/
def adjacentSlots (a b : Nat) : Bool :=
  decide (4 ≤ a) && decide (4 ≤ b) && populated a && populated b &&
    ((rowOf a == rowOf b && near (colOf a) (colOf b)) || (colOf a == colOf b && near (rowOf a) (rowOf b)))
def primary (a : Nat) : Nat := colOf a / 2
def alternate (a : Nat) : Nat := (colOf a / 2 + 1) % 4

/-- Whether a seam joins two dies, and none of the marks given says it failed. -/
def link (dead : List (Nat × Nat)) (a b : Nat) : Bool :=
  let joined :=
    if isSw a && isSw b then a != b
    else if isSw a then populated b && (primary b == a || alternate b == a)
    else if isSw b then populated a && (primary a == b || alternate a == b)
    else adjacentSlots a b
  joined && !dead.contains (pairKey a b)

/-- The switches of a non-switch die that are healthy SW dies of the partition and linked to it, primary first. -/
def swOf (dies : List Nat) (dead : List (Nat × Nat)) (a : Nat) : List Nat :=
  [primary a, alternate a].filter fun s => dies.contains s && link dead a s

/-- The route between two different dies of a partition, over its healthy dies and its failed seams (R15). -/
def routeOf (dies : List Nat) (dead : List (Nat × Nat)) (a b : Nat) : Option (List Nat) :=
  let sw := dies.filter isSw
  let sa := swOf dies dead a
  let sb := swOf dies dead b
  if isSw a && isSw b then
    if link dead a b then some [a, b]
    else (sw.find? fun c => c != a && c != b && link dead a c && link dead c b).map fun c => [a, c, b]
  else if adjacentSlots a b && link dead a b then some [a, b]
  else if isSw b then
    if sa.contains b then some [a, b] else (sa.find? (link dead · b)).map fun s => [a, s, b]
  else if isSw a then
    if sb.contains a then some [a, b] else (sb.find? (link dead a ·)).map fun s => [a, s, b]
  else
    let s := sa.filter sb.contains
    if s = [] then
      (sa.flatMap fun p => sb.map fun q => (p, q)).find? (fun pq => link dead pq.1 pq.2) |>.map fun pq => [a, pq.1, pq.2, b]
    else if s.contains (primary a) then some [a, primary a, b]
    else if s.contains (primary b) then some [a, primary b, b]
    else some [a, s.foldl Nat.min 48, b]

/-- Latency of a route: 12 per seam and 4 per switch traversed (R16). -/
def latencyOf (r : List Nat) : Nat := 12 * (r.length - 1) + 4 * (r.length - 2)

/-- The route of a partition's kernel, fixed at launch (R15); of an idle partition, over what is healthy now. A die reaches
itself without a seam. -/
def Hw.route (h : Hw) (p a b : Nat) : Option (List Nat) :=
  if a = b then some [a]
  else
    match (h.part p).kernel with
    | some _ => routeOf (h.part p).routeDies (h.part p).deadSeams a b
    | none => routeOf (h.diesOf p) h.pkg.deadSeams a b
def Hw.latency (h : Hw) (p a b : Nat) : Nat :=
  if a = b then 0 else match h.route p a b with | some r => latencyOf r | none => 0
/-- A message between two dies of a partition arrives after its route's latency; with no route it is never delivered (R16, R436). -/
def Hw.carry (h : Hw) (p a b : Nat) (e : Event) : Hw :=
  match h.route p a b with
  | some r => h.at (h.wtick + latencyOf r) e
  | none => h
/-- The same, with effect in this tick's turn where it stays in its die. -/
def Hw.sendDie (h : Hw) (p a b : Nat) (e : Event) : Hw := if a = b then h.soon e else h.carry p a b e
/-- A healthy die of the partition that a route joins to another (R436). -/
def Hw.reaches (h : Hw) (p a b : Nat) : Bool := h.inPartition p b && (h.route p a b).isSome

/-! ### Interleave (R96) -/

def fold16 (v : Nat) : Nat := Nat.xor (Nat.xor v (v / 2 ^ 16)) (v / 2 ^ 32) % 2 ^ 16

/-- place(attr, o, home): the NB slot and the stack offset of byte o. -/
def placeOf (ilv : List Nat) (attr o home : Nat) : Nat × Nat :=
  let n := ilv.length
  if attr = 0 then (home, o)
  else if attr = 1 then
    let q := o / 4096
    (ilv.getD (q % n) 0, q / n * 4096 + o % 4096)
  else
    let g := o / 256
    let q := g / n
    (ilv.getD ((g + fold16 q) % n) 0, q * 256 + o % 256)

/-! ### Translation (R380-R383) -/

def pageBits (ps : Nat) : Nat := if ps = 0 then 12 else if ps = 1 then 16 else if ps = 2 then 21 else 30

/-- translate(va): the brim slot and the page offset, or a fault code 0x0401 or 0x0402. -/
def Die.translate (d : Die) (va : Nat) : Except Nat (Nat × Nat) :=
  if 2 ^ 56 ≤ va then .error 0x0402
  else
    let r := d.regions.get (Fin.ofNat 16 (va / 2 ^ 52))
    let off := va % 2 ^ 52
    let p := 2 ^ pageBits r.ps
    if r.v = false ∨ off < r.rbase * 4096 ∨ r.rbase * 4096 + r.scnt * p ≤ off then .error 0x0401
    else
      let slot := r.sbase + (off - r.rbase * 4096) / p
      if d.brim.any (·.1 == slot) then .ok (slot, (off - r.rbase * 4096) % p) else .error 0x0401

def Die.brimAt (d : Die) (slot : Nat) : BrimEntry :=
  amGet d.brim slot { frame0 := 0, frame1 := 0, paired := false, p := false, w := false, r := false }

/-- The live frame, or the shadow destination (R117). -/
def BrimEntry.frame (e : BrimEntry) (shadow : Bool) : W64 := if e.p != shadow then e.frame1 else e.frame0

/-- Where byte d of a page under a frame lies (R382, R383). -/
def Die.placeFrame (dd : Die) (e : BrimEntry) (shadow : Bool) (d : Nat) : Place :=
  let f := (e.frame shadow).toNat
  let addr := f % 2 ^ 52 + d
  let slot := f / 2 ^ 52 % 64
  match f / 2 ^ 60 with
  | 1 =>
    let pl := placeOf dd.ilv (f / 2 ^ 58 % 4) addr slot
    if Config.hbmSize ≤ pl.2 then .fail 0x0402 else .mem (some pl.1) (hbmKey pl.1 pl.2)
  | 2 => .mem (some slot) (farKey slot addr)
  | 3 => .mem none (hostKey addr)
  | 4 => .mem (some slot) (sramKey slot addr)
  | 5 => .remote (f / 2 ^ 32 % 2 ^ 20) (f / 2 ^ 29 % 8) (e.frame1.toNat + d)
  | _ => .fail 0x0402

/-- Kinds of access against the permission bits (R381). -/
inductive Need where
  | read | write | both
  deriving DecidableEq, Repr

def BrimEntry.allows (e : BrimEntry) : Need → Bool
  | .read => e.r | .write => e.w | .both => e.r && e.w

/-- One piece of an access: translated, permitted, placed. -/
def Die.piece (d : Die) (va : Nat) (n : Need) (shadow : Bool) : Except Nat Place :=
  match d.translate va with
  | .error c => .error c
  | .ok (slot, off) =>
    let e := d.brimAt slot
    if e.allows n = false ∨ (shadow = true ∧ e.paired = false) then .error 0x0402
    else match d.placeFrame e shadow off with | .fail c => .error c | p => .ok p

/-- Bytes of an access split at lines of 64 bytes: each line's start and length, ascending. -/
def linesOf (k : Nat) (a n : Nat) : List (Nat × Nat) :=
  match k with
  | 0 => []
  | k + 1 =>
    if n = 0 then []
    else
      let m := Nat.min n (64 - a % 64)
      (a, m) :: linesOf k (a + m) (n - m)
def lines (a n : Nat) : List (Nat × Nat) := linesOf (n / 64 + 2) a n

/-- Where the lines of a virtual access lie in the live frames, whatever the permissions; those that miss are left out. -/
def Die.places (d : Die) (a n : Nat) : List (Place × Nat) :=
  (lines a n).filterMap fun l => match d.translate l.1 with
    | .ok (slot, off) => some (d.placeFrame (d.brimAt slot) false off, l.2)
    | .error _ => none

/-- All the pieces of a virtual access; the first fault in ascending order. -/
def Die.pieces (d : Die) (a n : Nat) (need : Need) (shadow : Bool) : Except Nat (List (Place × Nat)) :=
  (lines a n).foldr (fun l acc =>
    match d.piece l.1 need shadow with
    | .error c => .error c
    | .ok p => match acc with | .error c => .error c | .ok ps => .ok ((p, l.2) :: ps)) (.ok [])

/-- Counts the lines touched through each entry (R384). -/
def Die.touch (d : Die) (a n : Nat) : Die :=
  { d with brim := (lines a n).foldl (fun b l =>
      match d.translate l.1 with
      | .ok (slot, _) =>
        let e := amGet b slot (d.brimAt slot)
        amSet b slot { e with count := if e.count < 0xFFFFFFFF then e.count + 1 else e.count }
      | .error _ => b) d.brim }

/-! ### Whether a piece reaches its die (R95, R397, R436) -/

/-- The code with which a piece from a die of partition p fails when it reaches its die now, if it does. -/
def Hw.pieceFails (h : Hw) (p src : Nat) : Place → Option Nat
  | .mem none _ => none
  | .mem (some d) _ => if h.reaches p src d then none else some 0x0404
  | .remote _ _ _ => none
  | .fail c => some c

/-- Whether the fabric reaches a package: it has been seen, its heartbeats are not lost, and a switch die that carries fabric links
is healthy here (R272, R389). -/
def Hw.linked (h : Hw) (pkg : Nat) : Bool :=
  (h.pkg.peers.any fun x => x.1 == pkg && !x.2.lost) && [0, 1, 2, 3].any h.healthy

/-- A line request fails where it is issued while the fabric holds its owner unreachable (R389). -/
def Hw.placed (h : Hw) (pl : Place) : Place :=
  match pl with
  | .remote pkg _ _ => if h.linked pkg then pl else .fail 0x0404
  | _ => pl

/-- Accesses keep an FB die out of self-refresh (R394) (notes/assumptions/72.md). -/
def Hw.touchFar (h : Hw) (ps : List (Place × Nat)) : Hw :=
  ps.foldl (fun (g : Hw) x => match x.1 with
    | .mem (some d) _ =>
      if Config.slotType d = .fb then g.updDie d fun y => { y with lastAccess := g.wtick, selfRefresh := false } else g
    | _ => g) h

/-- The key of a piece's first byte (notes/assumptions/63.md). -/
def Place.key : Place → Nat
  | .mem _ k => k
  | .remote pkg part va => remoteKey pkg part va
  | .fail _ => 0

def piecesFail (h : Hw) (p src : Nat) (ps : List (Place × Nat)) : Option Nat := ps.findSome? fun x => h.pieceFails p src x.1

def readPieces (m : Memory) (ps : List (Place × Nat)) : List Byte := ps.flatMap fun x => Memory.readBytes m x.1.key x.2
def badPieces (h : Hw) (ps : List (Place × Nat)) : Bool := ps.any fun x => h.badAt x.1.key x.2

/-- Writes bytes to pieces in ascending order, the pieces that fail left out; a written word's error is cleared (R84). -/
def State.writePieces (s : State) (p src : Nat) (ps : List (Place × Nat)) (bs : List Byte) : State :=
  match ps with
  | [] => s
  | (pl, n) :: t =>
    let s1 := match s.hw.pieceFails p src pl with
      | some _ => s
      | none => { mem := Memory.writeBytes s.mem pl.key (bs.take n), hw := s.hw.stored pl.key n }
    State.writePieces s1 p src t (bs.drop n)

/-! ### Engine addresses (R302) and launch addresses (R337) -/

inductive EngAddr where
  | virt (va : Nat)
  | spad (slot q off : Nat)
  | sram (slot off : Nat)
  | weight (slot off : Nat)
  deriving DecidableEq, Repr

/-- Fields of an engine address; none for a space or a bit that R302 forbids. -/
def EngAddr.ofNat (a : Nat) : Option EngAddr :=
  let slot := a / 2 ^ 48 % 64
  match a / 2 ^ 56 with
  | 0 => some (.virt (a % 2 ^ 56))
  | 1 => if a / 2 ^ 54 % 4 = 0 ∧ a / 2 ^ 45 % 8 = 0 ∧ a / 2 ^ 21 % 2 ^ 19 = 0
         then some (.spad slot (a / 2 ^ 40 % 32) (a % 2 ^ 21)) else none
  | 2 => if a / 2 ^ 54 % 4 = 0 ∧ a / 2 ^ 32 % 2 ^ 16 = 0 then some (.sram slot (a % 2 ^ 32)) else none
  | 3 => if a / 2 ^ 54 % 4 = 0 ∧ a / 2 ^ 29 % 2 ^ 19 = 0 then some (.weight slot (a % 2 ^ 29)) else none
  | _ => none

def EngAddr.slot? : EngAddr → Option Nat
  | .virt _ => none | .spad s _ _ => some s | .sram s _ => some s | .weight s _ => some s
def EngAddr.isVirt : EngAddr → Bool
  | .virt _ => true | _ => false
def EngAddr.isWeight : EngAddr → Bool
  | .weight _ _ => true | _ => false
def EngAddr.key : EngAddr → Nat
  | .virt va => va | .spad s q o => locKey 1 (s * 32 + q) o | .sram s o => sramKey s o | .weight s o => weightKey s o
/-- The core whose scratchpad or sequencer window an address names (R303). -/
def EngAddr.core? : EngAddr → Option Nat
  | .spad s q _ => some (s * 32 + q)
  | .sram s o => if o < Config.spadSize ∧ (Config.slotType s = .nb ∨ Config.slotType s = .sw) then some (s * 32 + 24) else none
  | _ => none

/-- The address n bytes on; a virtual address past the end of its space is translated as such, and misses (R380). -/
def EngAddr.plus : EngAddr → Nat → EngAddr
  | .virt a, n => .virt (a + n)
  | .spad s q o, n => .spad s q (o + n)
  | .sram s o, n => .sram s (o + n)
  | .weight s o, n => .weight s (o + n)

/-- Whether a region of n bytes lies in its space, which the named die has (R302, R304). -/
def EngAddr.fits (a : EngAddr) (n : Nat) : Bool :=
  match a with
  | .virt _ => true
  | .spad s q o => decide (q < Config.coresPerDie (Config.slotType s)) && decide (o + n ≤ Config.spadSize)
  | .sram s o => decide (o < Config.sramSize (Config.slotType s)) && decide (o + n ≤ Config.sramSize (Config.slotType s))
  | .weight s o => Config.slotType s == .mx && decide (o + n ≤ Config.weightSize)

/-- The checks of R302 and R304 on an address, for a command that executes on a die. -/
def Hw.engOk (h : Hw) (p exe : Nat) (a : EngAddr) (n : Nat) : Bool :=
  a.fits n && (match a.slot? with | none => true | some s => h.reaches p exe s)

/-- The pieces of an engine access on the executing die. -/
def Hw.engPieces (h : Hw) (exe : Nat) (a : EngAddr) (n : Nat) (need : Need) (shadow : Bool) :
    Except Nat (List (Place × Nat)) :=
  match a with
  | .virt va => match (h.die exe).pieces va n need shadow with
    | .ok ps => .ok (ps.map fun x => (h.placed x.1, x.2))
    | .error c => .error c
  | _ => .ok ((lines a.key n).map fun l => (.mem a.slot? l.1, l.2))

/-- The die that a place lies in. -/
def Place.die : Place → Option Nat
  | .mem s _ => s
  | _ => none

/-- The seams between two dies of a partition, in order; none where no route joins them. -/
def Hw.seams (h : Hw) (p a b : Nat) : List (Nat × Nat) :=
  match h.route p a b with
  | some r => r.zip (r.drop 1)
  | none => []

/-- The longest run of whole lines from an address on, of at most n bytes, that one die holds; or the fault of the first line
(R95, R380). -/
def Hw.run (h : Hw) (exe : Nat) (a : EngAddr) (n : Nat) (need : Need) (shadow : Bool) : Except Nat (List (Place × Nat)) :=
  let ls : List (Except Nat Place × Nat) := match a with
    | .virt va => (lines va n).map fun l =>
      (match (h.die exe).piece l.1 need shadow with
        | .ok p => (match h.placed p with | .fail c => .error c | q => .ok q)
        | .error c => .error c, l.2)
    | _ => (lines a.key n).map fun l => (.ok (.mem a.slot? l.1), l.2)
  match ls with
  | [] => .ok []
  | (.error c, _) :: _ => .error c
  | (.ok p, l) :: t =>
    .ok ((p, l) :: (t.takeWhile fun x => match x.1 with | .ok q => q.die == p.die | .error _ => false).map fun x =>
      (match x.1 with | .ok q => q | .error _ => p, x.2))

/-- The first n bytes of a run. -/
def cutPieces (n : Nat) : List (Place × Nat) → List (Place × Nat)
  | [] => []
  | (p, l) :: t => if n = 0 then [] else if n ≤ l then [(p, n)] else (p, l) :: cutPieces (n - l) t

/-- Bytes of pieces. -/
def piecesLen (ps : List (Place × Nat)) : Nat := (ps.map (·.2)).sum

/-- A launch address of n bytes as a key, when it can be read or written (R337): host physical, or die SRAM of the
partition. -/
def Hw.launchKey (h : Hw) (p : Nat) (a n : Nat) : Option Nat :=
  if 2 ^ 63 ≤ a then (if a / 2 ^ 52 % 2 ^ 11 = 0 ∧ a % 2 ^ 52 + n ≤ 2 ^ 52 then some (hostKey (a % 2 ^ 52)) else none)
  else
    match EngAddr.ofNat a with
    | some (.sram s o) => if (EngAddr.sram s o).fits n ∧ h.inPartition p s = true then some (sramKey s o) else none
    | _ => none

/-- The bytes at a launch address; none where it breaks R337 or holds a word that cannot be read. -/
def State.readLaunch (s : State) (p a n : Nat) : Option (List Byte) :=
  match s.hw.launchKey p a n with
  | some k => if s.hw.badAt k n then none else some (Memory.readBytes s.mem k n)
  | none => none
def State.readLaunchNat (s : State) (p a n : Nat) : Option Nat := (s.readLaunch p a n).map leNat
/-- A store of bytes at a key by the controller, with what it does beside the memory. -/
def State.put (s : State) (k : Nat) (bs : List Byte) : State := (s.poke k bs).updHw fun h => h.stored k bs.length

/-- A write to a launch address; one that cannot be written is lost. -/
def State.writeLaunch (s : State) (p a : Nat) (bs : List Byte) : State :=
  match s.hw.launchKey p a bs.length with
  | some k => s.put k bs
  | none => s

end Sys2Proof.Machine
end

