-- ==== Sys2Proof/Machine/Flags.lean ====
section
/-! DEFINITION. FLAGS, rounding modes, the prefix modifiers on integers, and the stochastic-rounding generator
(R64-R68). -/
namespace Sys2Proof.Machine
open Sys2Proof

/-- The bits of FLAGS (R68). -/
abbrev FlagBits := BitVec 6
def fNone : FlagBits := 0
def fNX : FlagBits := 1
def fUF : FlagBits := 2
def fOF : FlagBits := 4
def fDZ : FlagBits := 8
def fNV : FlagBits := 16
def fSAT : FlagBits := 32

/-- The rounding modes of R64. -/
inductive RMode where
  | rne | rtz | rdn | rup | rna | sr
  deriving DecidableEq, Repr

/-- Codes 001-110 of R64; the codes 000 and 111 are never in effect (R65, R131). -/
def RMode.ofCode (c : BitVec 3) : RMode :=
  if c = 2 then .rtz else if c = 3 then .rdn else if c = 4 then .rup else if c = 5 then .rna else if c = 6 then .sr
  else .rne

/-- The modifiers in effect: RND resolved by R64, the rest from the prefix, or none (R67). -/
def Mods.ofPfx (rndm : BitVec 3) (p : Option Prefix) : Mods :=
  match p with
  | none => { rnd := rndm }
  | some p =>
    { rnd := if p.rnd = 0 then rndm else p.rnd, sat := p.sat, neg := p.neg, abs := p.abs, scale := p.scale.toInt }

def Mods.mode (m : Mods) : RMode := RMode.ofCode m.rnd

/-- The modifiers of the current group. -/
def Hw.mods (h : Hw) (p : Option Prefix) : Mods := Mods.ofPfx h.st.rndm p

/-! ### The generator of R66 -/

/-- One step of the LFSR. -/
def lfsr (s : Nat) : Nat := if s % 2 = 1 then Nat.xor (s / 2) 0x80200003 else s / 2

/-- One draw: 32 steps, the bits shifted out from bit 0 up; the state and the draw. -/
def drawBits (k : Nat) (s u i : Nat) : Nat × Nat :=
  match k with
  | 0 => (s, u)
  | k + 1 => drawBits k (lfsr s) (u + s % 2 * 2 ^ i) (i + 1)
def draw (s : Nat) : Nat × Nat := drawBits 32 s 0 0

/-- n draws, first first, and the state after them. -/
def draws (n : Nat) (s : Nat) : List Nat × Nat :=
  match n with
  | 0 => ([], s)
  | n + 1 =>
    let r := draw s
    let t := draws n r.1
    (r.2 :: t.1, t.2)

/-- The draws an instruction makes: one for every element position of its destination, and only under SR (R66). -/
def drawsIf (m : Mods) (n : Nat) (s : Nat) : List Nat × Nat :=
  match m.mode with
  | .sr => draws n s
  | _ => ([], s)

/-- SRSEED after the current instruction's draws. -/
def Hw.setSeed (h : Hw) (s : Nat) : Hw := h.upd fun st => { st with srseed := BitVec.ofNat 32 s }

/-! ### Integer results (R51, R67) -/

def intLo (w : Nat) (signed : Bool) : Int := if signed then -(2 ^ (w - 1) : Nat) else 0
def intHi (w : Nat) (signed : Bool) : Int := if signed then ((2 ^ (w - 1) : Nat) : Int) - 1 else ((2 ^ w : Nat) : Int) - 1

def clampInt (x lo hi : Int) : Int := if x < lo then lo else if x > hi then hi else x

/-- The SAT action on an exact integer result for a destination of w bits (R67: SAT acts before wrapping). A clamp to [−1, 1] may
leave −1 for an unsigned destination, which is then written as all ones (DESIGN CHOICE, notes/assumptions/85.md). -/
def satInt (sat : BitVec 3) (w : Nat) (signed : Bool) (x : Int) : Int :=
  if sat = 1 then clampInt x (intLo w signed) (intHi w signed)
  else if sat = 2 then clampInt x 0 (intHi w signed)
  else if sat = 3 then clampInt x 0 1
  else if sat = 4 then clampInt x (-1) 1
  else x

/-- Two's complement bits of an integer (R51: results wrap modulo 2^w). -/
def intBits (w : Nat) (x : Int) : Nat := (x % ((2 ^ w : Nat) : Int)).toNat

/-- The value of w bits under a signedness. -/
def bitsInt (w : Nat) (signed : Bool) (b : Nat) : Int :=
  if signed && decide (2 ^ (w - 1) ≤ b) then (b : Int) - ((2 ^ w : Nat) : Int) else b

/-- An exact integer result delivered to w bits: SAT, then wrap; FLAGS.SAT when SAT changed it (R67). -/
def finishInt (sat : BitVec 3) (w : Nat) (signed : Bool) (x : Int) : Nat × FlagBits :=
  let y := satInt sat w signed x
  (intBits w y, if y = x then 0 else fSAT)

end Sys2Proof.Machine
end

