-- ==== Sys2Proof/Machine/Formats.lean ====
section
/-! DEFINITION. The floating-point formats and their arithmetic (R52-R58, R64-R69), to the bit: a result is computed
exactly, the prefix modifiers act on it, it is rounded once, and SAT acts on what was rounded. -/
namespace Sys2Proof.Machine
open Sys2Proof

inductive FloatKind where
  | ieee | e4m3 | e5m2 | e2m1
  deriving DecidableEq, Repr

/-- A floating-point format (R52, R54, R56). -/
structure FloatFmt where
  kind : FloatKind
  eb : Nat
  mb : Nat
  bias : Nat
  deriving DecidableEq, Repr

def FloatFmt.width (f : FloatFmt) : Nat := 1 + f.eb + f.mb
def b64 : FloatFmt := ⟨.ieee, 11, 52, 1023⟩
def b32 : FloatFmt := ⟨.ieee, 8, 23, 127⟩
def b16 : FloatFmt := ⟨.ieee, 5, 10, 15⟩
def bf16 : FloatFmt := ⟨.ieee, 8, 7, 127⟩
def e4m3 : FloatFmt := ⟨.e4m3, 4, 3, 7⟩
def e5m2 : FloatFmt := ⟨.e5m2, 5, 2, 15⟩
def e2m1 : FloatFmt := ⟨.e2m1, 2, 1, 1⟩

/-- The value of a code: NaN (signalling or not), ±∞, or ±m × 2^e exactly (zero has m = 0). -/
inductive FVal where
  | nan (snan : Bool)
  | inf (s : Bool)
  | fin (s : Bool) (m : Nat) (e : Int)
  deriving DecidableEq, Repr

def FVal.isNan : FVal → Bool
  | .nan _ => true | _ => false
def FVal.isSnan : FVal → Bool
  | .nan b => b | _ => false
def FVal.neg : FVal → FVal
  | .nan b => .nan b | .inf s => .inf (!s) | .fin s m e => .fin (!s) m e
/-- NV for a signalling operand (R53). -/
def FVal.snanFlag (v : FVal) : FlagBits := if v.isSnan then fNV else 0

def FloatFmt.unpack (f : FloatFmt) (b : Nat) : FVal :=
  let s := b / 2 ^ (f.eb + f.mb) % 2 == 1
  let e := b / 2 ^ f.mb % 2 ^ f.eb
  let m := b % 2 ^ f.mb
  let top := 2 ^ f.eb - 1
  if e = top ∧ (f.kind = .ieee ∨ f.kind = .e5m2) then
    if m = 0 then .inf s else .nan (f.kind == .ieee && decide (m < 2 ^ (f.mb - 1)))
  else if f.kind = .e4m3 ∧ e = top ∧ m = 7 then .nan false
  else if e = 0 then .fin s m (1 - (f.bias : Int) - (f.mb : Int))
  else .fin s (m + 2 ^ f.mb) ((e : Int) - (f.bias : Int) - (f.mb : Int))

def signBit (f : FloatFmt) (s : Bool) : Nat := if s then 2 ^ (f.eb + f.mb) else 0

/-- The canonical NaN (R52, R54). -/
def FloatFmt.nan (f : FloatFmt) : Nat :=
  match f.kind with
  | .ieee => (2 ^ f.eb - 1) * 2 ^ f.mb + 2 ^ (f.mb - 1)
  | .e4m3 => 0x7F
  | .e5m2 => 0x7E
  | .e2m1 => 0

/-- The code of the largest finite magnitude. -/
def FloatFmt.maxCode (f : FloatFmt) : Nat :=
  match f.kind with
  | .ieee => (2 ^ f.eb - 1) * 2 ^ f.mb - 1
  | .e4m3 => 0x7E
  | .e5m2 => 0x7B
  | .e2m1 => 0x7

/-- ±∞ of a format that has one; the canonical NaN of E4M3 in its place (R55). -/
def FloatFmt.infCode (f : FloatFmt) (s : Bool) : Nat :=
  match f.kind with
  | .ieee => signBit f s + (2 ^ f.eb - 1) * 2 ^ f.mb
  | .e5m2 => signBit f s + 0x7C
  | .e4m3 => 0x7F
  | .e2m1 => signBit f s + 0x7

/-- A signed zero; FP4 has no negative zero (R56). -/
def FloatFmt.zero (f : FloatFmt) (s : Bool) : Nat := if f.kind = .e2m1 then 0 else signBit f s

/-- An exact result: a value, whether the true magnitude lies strictly above it and below the next unit of its
significand (a quotient or a root cut off), and the exceptions of the operation itself. -/
structure Exact where
  v : FVal
  sticky : Bool := false
  flags : FlagBits := 0
  deriving DecidableEq, Repr

/-- Number of significant bits. -/
def bitLen (n : Nat) : Nat := if n = 0 then 0 else Nat.log2 n + 1

/-- Rounds m × 2^e (and a tail, if sticky) to a multiple of 2^q: the multiple, and whether it is inexact (R64, R66). A
sticky value comes with at least 34 bits below 2^q, so that the fraction d of R66 is exact. -/
def roundTo (mode : RMode) (s : Bool) (m : Nat) (e : Int) (sticky : Bool) (q : Int) (u : Nat) : Nat × Bool :=
  if q ≤ e then (m * 2 ^ (e - q).toNat, sticky)
  else
    let d := (q - e).toNat
    let k := m / 2 ^ d
    let r := m % 2 ^ d
    let inexact := decide (r ≠ 0) || sticky
    let half := 2 ^ (d - 1)
    let up :=
      match mode with
      | .rne => decide (r > half) || (decide (r = half) && (sticky || k % 2 == 1))
      | .rna => decide (half ≤ r)
      | .rtz => false
      | .rdn => s && inexact
      | .rup => !s && inexact
      | .sr => decide (u < r * 2 ^ 32 / 2 ^ d)
    (if up && inexact then k + 1 else k, inexact)

/-- The overflow result (R53, R55, R56, R66). -/
def FloatFmt.overflow (f : FloatFmt) (mode : RMode) (ovf s : Bool) : Nat :=
  let toInf := mode = .rne ∨ mode = .rna ∨ mode = .sr ∨ (mode = .rup ∧ s = false) ∨ (mode = .rdn ∧ s = true)
  if f.kind = .e2m1 ∨ (f.kind ≠ .ieee ∧ ovf = false) ∨ ¬ toInf then signBit f s + f.maxCode else f.infCode s

/-- Rounds a finite exact value to a format (notes/assumptions/33.md). -/
def FloatFmt.roundFin (f : FloatFmt) (ovf : Bool) (mode : RMode) (u : Nat) (s : Bool) (m : Nat) (e : Int)
    (sticky : Bool) : Nat × FlagBits :=
  if m = 0 ∧ sticky = false then (f.zero s, 0)
  else
    let emin : Int := 1 - (f.bias : Int)
    let top : Int := e + (bitLen m : Int) - 1
    let q := (if top < emin then emin else top) - (f.mb : Int)
    let r := roundTo mode s m e sticky q u
    let nx := if r.2 then fNX else 0
    let r2 := roundTo mode s m e sticky (top - (f.mb : Int)) u
    let uf := if r.2 ∧ top < emin ∧ (top - (f.mb : Int)) + (bitLen r2.1 : Int) - 1 < emin then fUF else 0
    if r.1 = 0 then (f.zero s, nx ||| uf)
    else
      let rtop : Int := q + (bitLen r.1 : Int) - 1
      let code :=
        if rtop < emin then r.1
        else ((rtop + (f.bias : Int)).toNat) * 2 ^ f.mb + (r.1 * 2 ^ f.mb / 2 ^ (bitLen r.1 - 1) - 2 ^ f.mb)
      if code > f.maxCode then (f.overflow mode ovf s, fOF ||| fNX) else (signBit f s + code, nx ||| uf)

/-- A result delivered to a format before SAT: R53, the rows of R55, R56. -/
def FloatFmt.deliver (f : FloatFmt) (ovf : Bool) (mode : RMode) (u : Nat) (x : Exact) : Nat × FlagBits :=
  match x.v with
  | .nan _ => (f.nan, x.flags ||| (if f.kind = .e2m1 then fNV else 0))
  | .inf s =>
    match f.kind with
    | .ieee => (f.infCode s, x.flags)
    | .e5m2 => (if ovf then f.infCode s else signBit f s + f.maxCode, x.flags)
    | .e4m3 => if ovf then (f.nan, x.flags ||| fNV) else (signBit f s + f.maxCode, x.flags)
    | .e2m1 => (signBit f s + f.maxCode, x.flags ||| fOF)
  | .fin s m e =>
    let r := f.roundFin ovf mode u s m e x.sticky
    (r.1, r.2 ||| x.flags)

/-- ABS, NEG and SCALE on the exact result; a NaN stays (R67). -/
def Exact.modify (x : Exact) (m : Mods) : Exact :=
  let sg := fun s : Bool => (if m.abs then false else s) != m.neg
  match x.v with
  | .nan b => { x with v := .nan b }
  | .inf s => { x with v := .inf (sg s) }
  | .fin s k e => { x with v := .fin (sg s) k (e + m.scale) }

/-- Whether a magnitude m × 2^e exceeds 1. -/
def aboveOne (m : Nat) (e : Int) : Bool := if 0 ≤ e then decide (m * 2 ^ e.toNat > 1) else decide (m > 2 ^ (-e).toNat)

def FloatFmt.one (f : FloatFmt) (s : Bool) : Nat := signBit f s + f.bias * 2 ^ f.mb

/-- SAT on a rounded floating-point result (R67). -/
def FloatFmt.sat (f : FloatFmt) (sat : BitVec 3) (b : Nat) : Nat × FlagBits :=
  let v := f.unpack b
  let y :=
    if sat = 0 then b
    else if sat = 1 then match v with | .inf s => signBit f s + f.maxCode | _ => b
    else
      match v with
      | .nan _ => f.zero false
      | .inf s => if sat = 4 then f.one s else if s then f.zero false else if sat = 2 then b else f.one false
      | .fin s m e =>
        if sat = 4 then (if aboveOne m e then f.one s else b)
        else if s then f.zero false
        else if sat = 3 ∧ aboveOne m e = true then f.one false else b
  (y, if y ≠ b ∧ v.isNan = false then fSAT else 0)

/-- The whole of R67 for a floating-point destination. -/
def FloatFmt.finish (f : FloatFmt) (ovf : Bool) (m : Mods) (u : Nat) (x : Exact) : Nat × FlagBits :=
  let r := f.deliver ovf m.mode u (x.modify m)
  let t := f.sat m.sat r.1
  (t.1, r.2 ||| t.2)

/-! ### Exact arithmetic (R53, R206, R207) -/

def exactNan (f : FlagBits) : Exact := { v := .nan false, flags := f }

/-- The signed integer ±m. -/
def signed (s : Bool) (m : Nat) : Int := if s then -(m : Int) else m

/-- Exact sum; the sign of an exact zero sum is IEEE 754's, −0 under RDN. -/
def exAdd (mode : RMode) (a b : FVal) : Exact :=
  let fl := a.snanFlag ||| b.snanFlag
  match a, b with
  | .nan _, _ => exactNan fl
  | _, .nan _ => exactNan fl
  | .inf s, .inf t => if s = t then { v := .inf s } else exactNan fNV
  | .inf s, .fin _ _ _ => { v := .inf s }
  | .fin _ _ _, .inf t => { v := .inf t }
  | .fin s m e, .fin t n g =>
    if m = 0 ∧ n = 0 then { v := .fin (if s = t then s else mode == .rdn) 0 0 }
    else if m = 0 then { v := .fin t n g }
    else if n = 0 then { v := .fin s m e }
    else
      let q := if e ≤ g then e else g
      let x := signed s (m * 2 ^ (e - q).toNat) + signed t (n * 2 ^ (g - q).toNat)
      { v := .fin (if x = 0 then mode == .rdn else decide (x < 0)) x.natAbs q }

def exMul (a b : FVal) : Exact :=
  let fl := a.snanFlag ||| b.snanFlag
  match a, b with
  | .nan _, _ => exactNan fl
  | _, .nan _ => exactNan fl
  | .inf s, .inf t => { v := .inf (s != t) }
  | .inf s, .fin t n _ => if n = 0 then exactNan fNV else { v := .inf (s != t) }
  | .fin s m _, .inf t => if m = 0 then exactNan fNV else { v := .inf (s != t) }
  | .fin s m e, .fin t n g => { v := .fin (s != t) (m * n) (e + g) }

/-- a × b + c, exact; ∞ × 0 sets NV even beside a NaN c (IEEE 754, the invalid product). -/
def exFma (mode : RMode) (a b c : FVal) : Exact :=
  let p := exMul a b
  let r := exAdd mode p.v c
  { r with flags := p.flags ||| (r.flags ||| c.snanFlag) }

/-- Bits of a quotient or a root below which the sticky bit stands for the rest. -/
def extraBits : Nat := 128

def exDiv (a b : FVal) : Exact :=
  let fl := a.snanFlag ||| b.snanFlag
  match a, b with
  | .nan _, _ => exactNan fl
  | _, .nan _ => exactNan fl
  | .inf _, .inf _ => exactNan fNV
  | .inf s, .fin t _ _ => { v := .inf (s != t) }
  | .fin s _ _, .inf t => { v := .fin (s != t) 0 0 }
  | .fin s m e, .fin t n g =>
    if n = 0 then (if m = 0 then exactNan fNV else { v := .inf (s != t), flags := fDZ })
    else if m = 0 then { v := .fin (s != t) 0 0 }
    else
      let k := extraBits + bitLen n
      let x := m * 2 ^ k
      { v := .fin (s != t) (x / n) (e - g - k), sticky := x % n != 0 }

/-- The integer square root by bits, from bit k − 1 down. -/
def isqrtBits (k : Nat) (x r : Nat) : Nat :=
  match k with
  | 0 => r
  | k + 1 =>
    let t := r + 2 ^ k
    isqrtBits k x (if t * t ≤ x then t else r)
def isqrt (x : Nat) : Nat := isqrtBits (bitLen x / 2 + 1) x 0

/-- A significand and an even exponent. -/
def evenExp (m : Nat) (e : Int) : Nat × Int := if e % 2 = 0 then (m, e) else (2 * m, e - 1)

def exSqrt (a : FVal) : Exact :=
  match a with
  | .nan b => exactNan (if b then fNV else 0)
  | .inf s => if s then exactNan fNV else { v := .inf false }
  | .fin s m e =>
    if m = 0 then { v := .fin s 0 0 }
    else if s then exactNan fNV
    else
      let me := evenExp m e
      let x := me.1 * 2 ^ (2 * extraBits)
      let r := isqrt x
      { v := .fin false r (me.2 / 2 - extraBits), sticky := r * r != x }

def exRsqrt (a : FVal) : Exact :=
  match a with
  | .nan b => exactNan (if b then fNV else 0)
  | .inf s => if s then exactNan fNV else { v := .fin false 0 0 }
  | .fin s m e =>
    if m = 0 then { v := .inf s, flags := fDZ }
    else if s then exactNan fNV
    else
      let me := evenExp m e
      let k := extraBits + bitLen me.1
      let x := 2 ^ (2 * k)
      let r := isqrt (x / me.1)
      { v := .fin false r (-(me.2 / 2) - k), sticky := r * r * me.1 != x }

/-- −1, 0, 1 for a < b, a = b, a > b of numbers that are not NaN (±0 equal). -/
def fcmp (a b : FVal) : Int :=
  match a, b with
  | .inf s, .inf t => if s = t then 0 else if s then -1 else 1
  | .inf s, _ => if s then -1 else 1
  | _, .inf t => if t then 1 else -1
  | .fin s m e, .fin t n g =>
    let q := if e ≤ g then e else g
    let x := signed s (m * 2 ^ (e - q).toNat)
    let y := signed t (n * 2 ^ (g - q).toNat)
    if x < y then -1 else if x = y then 0 else 1
  | _, _ => 0

def FVal.sign : FVal → Bool
  | .nan _ => false | .inf s => s | .fin s _ _ => s

/-- minimumNumber and maximumNumber of IEEE 754-2019, +0 above −0 (R74, R206). -/
def exMinMax (max : Bool) (a b : FVal) : Exact :=
  let fl := a.snanFlag ||| b.snanFlag
  if a.isNan ∧ b.isNan then exactNan fl
  else if a.isNan then { v := b, flags := fl }
  else if b.isNan then { v := a, flags := fl }
  else
    let c := fcmp a b
    let aLess := if c = 0 then a.sign && !b.sign else decide (c < 0)
    { v := if aLess != max then a else b, flags := fl }

/-! ### Conversions (R69) -/

/-- Float to integer: rounded under the mode, the range judged on the rounded integer. -/
def toInt (mode : RMode) (u : Nat) (w : Nat) (sgn : Bool) (x : Exact) : Int × FlagBits :=
  match x.v with
  | .nan _ => (0, fNV ||| x.flags)
  | .inf s => (if s then intLo w sgn else intHi w sgn, fNV ||| x.flags)
  | .fin s m e =>
    let r := roundTo mode s m e x.sticky 0 u
    let i := signed s r.1
    if i < intLo w sgn then (intLo w sgn, fNV ||| x.flags)
    else if i > intHi w sgn then (intHi w sgn, fNV ||| x.flags)
    else (i, (if r.2 then fNX else 0) ||| x.flags)

/-- An integer as an exact value. -/
def ofInt (i : Int) : Exact := { v := .fin (decide (i < 0)) i.natAbs 0 }

/-- Conversion between formats with no modifiers: widening is exact, narrowing rounds once. -/
def FloatFmt.cvt (f g : FloatFmt) (ovf : Bool) (mode : RMode) (u : Nat) (b : Nat) : Nat × FlagBits :=
  g.deliver ovf mode u { v := f.unpack b, flags := (f.unpack b).snanFlag }

end Sys2Proof.Machine
end

