-- ==== Sys2Proof/Machine/Operands.lean ====
section
/-! DEFINITION. Operand forms: effective addresses (R81, R175, R201), vector registers as elements under their tags
(R61-R63), masks (R196), and what each operand form refuses. -/
namespace Sys2Proof.Machine
open Sys2Proof

/-! ### Scratchpad addresses (R81) -/

/-- What an address check finds. -/
inductive AddrCheck where
  | ok (off : Nat)
  | access
  | misaligned
  deriving DecidableEq, Repr

/-- A strand that has a scratchpad or a sequencer window: all but the sequencer of an FB die (R153). -/
def hasSpad (strand : Nat) : Bool := !(isSeq strand && Config.slotType (slotOf strand) == .fb)

/-- A scalar access of n bytes at an effective address (R81) (notes/assumptions/32.md). -/
def scalarAddr (strand : Nat) (ea : W64) (n : Nat) : AddrCheck :=
  if hasSpad strand = false ∨ Config.spadSize ≤ ea.toNat then .access
  else if ea.toNat % n ≠ 0 then .misaligned else .ok ea.toNat

/-- A transfer of n bytes, aligned to 64 bytes (R81, R201, R202). -/
def transferAddr (strand : Nat) (ea : W64) (n : Nat) : AddrCheck :=
  if hasSpad strand = false ∨ ea.toNat % 64 ≠ 0 ∨ Config.spadSize < ea.toNat + n ∨ Config.spadSize ≤ ea.toNat then .access
  else .ok ea.toNat

def sext (n : Nat) (v : BitVec n) : W64 := v.signExtend 64

/-! ### Tags and elements (R61) -/

def tNONE : Tag := 0x0
def tI32 : Tag := 0x1
def tF32 : Tag := 0x2
def tB16 : Tag := 0x3
def tH16 : Tag := 0x4
def tE4 : Tag := 0x5
def tE5 : Tag := 0x6
def tF4 : Tag := 0x7
def tI8 : Tag := 0x8
def tI16 : Tag := 0x9
def tL32 : Tag := 0xA
def tF64 : Tag := 0xB
def tI64 : Tag := 0xC

/-- Width of an element. -/
def elemWidth (t : Tag) : Nat :=
  if t = tB16 ∨ t = tH16 ∨ t = tI16 then 16
  else if t = tE4 ∨ t = tE5 ∨ t = tI8 then 8
  else if t = tF4 then 4
  else if t = tF64 ∨ t = tI64 then 64
  else 32

/-- Elements of a row, and of a register. -/
def perRow (t : Tag) : Nat := 2048 / elemWidth t
def perReg (t : Tag) : Nat := 32768 / elemWidth t

/-- The floating-point format of a tag. -/
def fmtOf (t : Tag) : Option FloatFmt :=
  if t = tF32 then some b32 else if t = tB16 then some bf16 else if t = tH16 then some b16
  else if t = tE4 then some e4m3 else if t = tE5 then some e5m2 else if t = tF4 then some e2m1
  else if t = tF64 then some b64 else none

def isIntTag (t : Tag) : Bool := t == tI32 || t == tI8 || t == tI16 || t == tI64

/-- Element n of w bits of a register's data; slot (i, j) is element 64i + j of 32 bits. -/
def elemAt (data : BitVec 32768) (w n : Nat) : Nat := (data.extractLsb' (w * n) w).toNat
def VecReg.elem (v : VecReg) (n : Nat) : Nat := elemAt v.data (elemWidth v.tag) n
def VecReg.slot (v : VecReg) (n : Nat) : Nat := elemAt v.data 32 n

/-- A number made of elements of w bits, the first lowest. -/
def packNat (w : Nat) (xs : List Nat) : Nat := xs.foldr (fun x acc => x % 2 ^ w + 2 ^ w * acc) 0
/-- A register's data from its elements. -/
def packReg (w : Nat) (xs : List Nat) : BitVec 32768 := BitVec.ofNat 32768 (packNat w xs)
/-- A register's data from a function on element numbers. -/
def genReg (w : Nat) (f : Nat → Nat) : BitVec 32768 := packReg w ((List.range (32768 / w)).map f)

/-- Mask bit n (R63). -/
def maskBit (k : BitVec 1024) (n : Nat) : Bool := k.getLsbD n

def allSlotsMask : BitVec 1024 := BitVec.allOnes 1024

/-- The mask in effect: all ones when unmasked (R196). -/
def Hw.mask (h : Hw) (c : Option KRegNo) : BitVec 1024 :=
  match c with
  | none => allSlotsMask
  | some k => h.kreg k

/-- The slots of rows lo to lo + n − 1. -/
def rowsMask (lo n : Nat) : BitVec 1024 := BitVec.ofNat 1024 ((2 ^ (64 * n) - 1) * 2 ^ (64 * lo))

/-- The slot that governs element n of w bits: its own slot, or the low slot of a pair (R63). -/
def slotOfElem (w n : Nat) : Nat := w * n / 32
def elemOn (k : BitVec 1024) (w n : Nat) : Bool := maskBit k (slotOfElem w n)

/-- A mask in which both slots of a pair follow the low one, for writes of 64-bit elements (R63). -/
def pairMask (k : BitVec 1024) : BitVec 1024 :=
  BitVec.ofNat 1024 (packNat 2 ((List.range 512).map fun i => if maskBit k (2 * i) then 3 else 0))
def writeMask (k : BitVec 1024) (w : Nat) : BitVec 1024 := if w = 64 then pairMask k else k

/-- Each slot's 32 bits set where the mask holds. -/
def spread (k : BitVec 1024) : BitVec 32768 :=
  if k = allSlotsMask then BitVec.allOnes 32768
  else packReg 32 ((List.range 1024).map fun n => if maskBit k n then 0xFFFFFFFF else 0)

/-- Data with the masked slots replaced. -/
def merge (old new : BitVec 32768) (k : BitVec 1024) : BitVec 32768 :=
  if k = allSlotsMask then new else (old &&& ~~~ spread k) ||| (new &&& spread k)

/-- The format fault of a vector operand: INFO is the register number (R62, R363). -/
def Hw.formatFault (h : Hw) (r : Nat) : Hw := h.trap { cause := Cause.format, info := r }

/-- The first register of a list whose tag is not accepted. -/
def Hw.badTag (h : Hw) (ok : Tag → Bool) (rs : List VRegNo) : Option VRegNo := rs.find? fun r => !ok (h.vreg r).tag

end Sys2Proof.Machine
end

