-- ==== Sys2Proof/Machine/Shared.lean ====
section
/-! DEFINITION. What several families share: units and their occupancy (R138), scratchpad accesses (R80-R84, R171-R174),
explicit waits (R40), tokens (R92-R95), untimed accesses and the fences that hold them (R104-R106, R175). -/
namespace Sys2Proof.Machine
open Sys2Proof

/-! ### Units (R138) -/

def Hw.units (h : Hw) : Units := if h.useWall h.cur then h.st.wunits else h.st.units
def Hw.setUnits (h : Hw) (f : Units → Units) : Hw :=
  if h.useWall h.cur then h.upd fun st => { st with wunits := f st.wunits }
  else h.upd fun st => { st with units := f st.units }

def Hw.takePort (h : Hw) (n : Nat) : Hw := h.setUnits fun u => { u with port := h.tick + n }
def Hw.takeDiv (h : Hw) : Hw := h.setUnits fun u => { u with div := h.tick + 16 }
def Hw.takeVec (h : Hw) (n : Nat) : Hw := h.setUnits fun u => { u with vec := h.tick + n }
def Hw.takeMask (h : Hw) : Hw := h.setUnits fun u => { u with mask := h.tick + 1 }
def Hw.takeGpath (h : Hw) (n : Nat) : Hw := h.setUnits fun u => { u with gpath := h.tick + n }
def Hw.takeStream (h : Hw) (n : Nat) : Hw := h.setUnits fun u => { u with stream := h.tick + n }
/-- A unit that is still occupied on the strand's clock; in a hook, also one that the frozen pipelines occupy (R365). -/
def Hw.busy (h : Hw) (u : Units → Nat) : Bool :=
  decide (h.tick < u h.units) || h.stuck (u h.st.units)
def Hw.portBusy (h : Hw) : Bool := h.busy (·.port)
def Hw.divBusy (h : Hw) : Bool := h.busy (·.div)
def Hw.vecBusy (h : Hw) : Bool := h.busy (·.vec)
def Hw.maskBusy (h : Hw) : Bool := h.busy (·.mask)
def Hw.gpathBusy (h : Hw) : Bool := h.busy (·.gpath)
def Hw.streamBusy (h : Hw) : Bool := h.busy (·.stream)

/-! ### Results -/

/-- A scalar result with its flags, and on to the next group. -/
def Hw.result (h : Hw) (d : XReg) (v : W64) (fl : FlagBits) (lat : Nat) : Hw :=
  ((h.landX d v lat).landFlags fl lat).advance

/-! ### Scratchpad words in error (R84, R402) -/

/-- UNIT code of R411 for a scratchpad or a sequencer window. -/
def spadUnit (core : Nat) : Nat :=
  if core % 32 = 24 then (if Config.slotType (core / 32) = .nb then 0x04 else 0x06) else 0x01

/-- UNIT of a location key (R411). -/
def unitOfKey (k : Nat) : Nat :=
  match k / 2 ^ 80 with
  | 1 => 0x01
  | 2 => (match Config.slotType (k / 2 ^ 60 % 2 ^ 20) with | .nb => 0x04 | .gs => 0x05 | _ => 0x06)
  | 3 => 0x02 | 4 => 0x07 | 5 => 0x08 | _ => 0x0D

/-- A read of n bytes of a core's scratchpad, or of a sequencer's window, meets an uncorrectable word (R84, R400). -/
def Hw.spadLost (h : Hw) (core off n : Nat) : Hw := h.unreadable (core / 32) (spadUnit core) off (spadKey core off) n

/-- An uncorrectable word among n bytes read at an offset: recorded, and the trap at the reading strand (R84). -/
def Hw.uncorrectable (h : Hw) (off n : Nat) : Hw :=
  (h.spadLost (coreOf h.cur) off n).trap { cause := Cause.uncorrectable, stval := BitVec.ofNat 64 off }

/-- The bank, or the scratchpad, whose write-back buffer a word uses (R402). -/
def bankKey (k : Nat) : Nat × Nat :=
  match k / 2 ^ 80 with
  | 1 => (1, k / 2 ^ 60 % 2 ^ 20)
  | 3 => (k / 2 ^ 60, k % 2 ^ 60 / 2 ^ 25)
  | 2 => (k / 2 ^ 60, Config.codedBank (codedGroup k))
  | _ => (k / 2 ^ 60, 0)

/-- A corrected or rebuilt word enters its bank's write-back buffer. One that finds four entries there stands behind them in the two
ticks that the read waits, in which the oldest entries get their write cycles. -/
def Hw.writeBack (h : Hw) (slot b : Nat) (scrub : Bool) : Hw :=
  h.updDie slot fun d => { d with wbuf := d.wbuf ++ [(b, h.wtick, scrub)] }
def Hw.bufferFull (h : Hw) (slot b : Nat) : Bool :=
  decide (4 ≤ ((h.die slot).wbuf.filter fun e => bankKey e.1 == bankKey b).length)

/-- What a read finds and does about words in error among the n bytes at a key (R84, R400, R402): each correctable one is
corrected, each uncorrectable coded one rebuilt where its group allows it, both recorded and written back; any other
uncorrectable coded word is poisoned. Memory under its own standard's code only records (R403). It answers whether a full
buffer was met and whether a word was rebuilt (notes/assumptions/62.md). -/
def Hw.scanBy (h : Hw) (scrub : Bool) (slot unit k n : Nat) : Hw × Bool × Bool :=
  if h.pkg.single = [] ∧ h.pkg.bad = [] then (h, false, false)
  else
    let mine := fun (b : Nat) => wordIn k n b && (h.die slot).wbuf.all (·.1 != b)
    let far := fun (b : Nat) => decide (4 ≤ b / 2 ^ 80) && !codedKey b
    let one := h.pkg.single.filter mine
    let made := h.pkg.bad.filter fun b => mine b && h.rebuilds b
    let g := (one ++ made).foldl (fun (g : Hw × Bool) b =>
      let x := g.1.record slot 1 unit (b % 2 ^ 60) 0 none
      if far b then
        ((if b / 2 ^ 80 = 4 then x.updDie slot fun d => { d with hbmFixed := d.hbmFixed + 1 } else x).updPkg fun p =>
          { p with single := p.single.filter (· != b) }, g.2)
      else (x.writeBack slot b scrub, g.2 || g.1.bufferFull slot b)) (h, false)
    (g.1.poisonAt k n, g.2, made != [])

def Hw.scan (h : Hw) (slot unit k n : Nat) : Hw × Bool × Bool := h.scanBy false slot unit k n

/-- The ticks that what a read finds adds to it where no hold is taken (R401, R402). -/
def scanDelay (full made : Bool) : Nat := (if made then 36 else 0) + (if full then 2 else 0)

/-- An untimed read: a full buffer is a hold of 2 ticks in a strict partition, and delays the read in a queued one; a rebuild delays
it (R401, R402). -/
def Hw.untimedScan (h : Hw) (slot unit k n : Nat) : Hw × Nat :=
  let r := h.scan slot unit k n
  let p := h.partOf slot
  if r.2.1 && h.strictOf p then (r.1.holdFor p 2, scanDelay false r.2.2) else (r.1, scanDelay r.2.1 r.2.2)

/-- A timed read whose data lands `lat` ticks later. In a strict partition a full buffer is a hold of 2 ticks after the read's
tick, and a rebuild one of 36 ticks just before the landing; in a queued one both delay the read itself (R39, R401, R402). -/
def Hw.timedScan (h : Hw) (slot unit k n lat : Nat) : Hw × Nat :=
  let r := h.scan slot unit k n
  let p := h.partOf slot
  if h.strictOf p then
    let g := if r.2.1 then r.1.holdFor p 2 else r.1
    (if r.2.2 then
      (if lat ≤ 1 then g.holdFor p 36
       else { g with pend := g.pend ++ [⟨p, false, (g.part p).pclk + lat - 1, g.seq, .hold p 36⟩], seq := g.seq + 1 })
     else g, 0)
  else (r.1, scanDelay r.2.1 r.2.2)

/-- The words in error that a strand's read of its scratchpad or window finds, whose result lands `lat` ticks later; the ticks by
which the read is late. -/
def Hw.correctSpad (h : Hw) (off n lat : Nat) : Hw × Nat :=
  let c := coreOf h.cur
  h.timedScan (slotOf h.cur) (spadUnit c) (spadKey c off) n lat

/-- The same for two regions. -/
def Hw.correctBoth (h : Hw) (a n b k lat : Nat) : Hw × Nat :=
  let r := h.correctSpad a n lat
  let q := r.1.correctSpad b k lat
  (q.1, Nat.max r.2 q.2)

/-- Whether the strand's scratchpad holds an uncorrectable word among n bytes. -/
def Hw.badSpad (h : Hw) (off n : Nat) : Bool := h.badAt (spadKey (coreOf h.cur) off) n

/-! ### Scalar scratchpad accesses (R171-R173) -/

/-- INFO of a misaligned trap (R366). -/
def misInfo (n : Nat) (store sgn glob : Bool) (tok : Nat) (d : XReg) : Nat :=
  n + store.toNat * 16 + sgn.toNat * 32 + glob.toNat * 64 + tok * 128 + d.val * 1024

def Hw.misaligned (h : Hw) (ea : W64) (info : Nat) : Hw := h.trap { cause := Cause.misaligned, info := info, stval := ea }
def Hw.accessFault (h : Hw) (ea : W64) : Hw := h.trap { cause := Cause.access, stval := ea }

/-- n bytes extended to 64 bits. -/
def extend (n : Nat) (sgn : Bool) (v : Nat) : W64 := BitVec.ofInt 64 (bitsInt (8 * n) sgn v)

/-- A scalar load of n bytes (R171). Where the test for an occupied port stands among the checks the manual leaves open: here, in a
store and in an atomic it is made after the address and its alignment and before the words are read (DESIGN CHOICE,
notes/assumptions/78.md). -/
def loadSpad (m : Memory) (h : Hw) (d : XReg) (ea : W64) (n : Nat) (sgn : Bool) : Hw :=
  match scalarAddr h.cur ea n with
  | .access => h.accessFault ea
  | .misaligned => h.misaligned ea (misInfo n false sgn false 0 d)
  | .ok off =>
    if h.portBusy then h.occupied (h.stuck h.st.units.port)
    else if h.badSpad off n then h.uncorrectable off n
    else
      let v := Memory.readNat m (spadKey (coreOf h.cur) off) n
      let r := h.correctSpad off n 3
      ((r.1.takePort 1).landX d (extend n sgn v) (3 + r.2)).advance

/-- A scalar store of n bytes: whole words are visible at t+3, sub-words merge at t+5 (R172, R82). -/
def storeSpad (h : Hw) (ea : W64) (n : Nat) (v : W64) (d : XReg) : Hw :=
  match scalarAddr h.cur ea n with
  | .access => h.accessFault ea
  | .misaligned => h.misaligned ea (misInfo n true false false 0 d)
  | .ok off =>
    if h.portBusy then h.occupied (h.stuck h.st.units.port)
    else
      let act := PendAct.store (coreOf h.cur) (clusterOf h.cur) off (leBytes n v.toNat)
      if n < 4 then
        if h.badSpad (off / 4 * 4) 4 then h.uncorrectable off n
        else
          let r := h.correctSpad (off / 4 * 4) 4 5
          ((r.1.takePort 2).later (5 + r.2) act).advance
      else ((h.takePort 1).later 3 act).advance

/-- A scratchpad atomic of n bytes (R173); a misaligned one raises the access fault (R122). -/
def atomicSpad (h : Hw) (op : AtomOp) (n : Nat) (d a b : XReg) : Hw :=
  let ea := h.rx a
  match scalarAddr h.cur ea n with
  | .access => h.accessFault ea
  | .misaligned => h.accessFault ea
  | .ok off =>
    if h.portBusy then h.occupied (h.stuck h.st.units.port)
    else if h.badSpad off n then h.uncorrectable off n
    else
      let w := 2 ^ (8 * n)
      let act := PendAct.atomic (coreOf h.cur) (clusterOf h.cur) off n op ((h.rx b).toNat % w) ((h.rx d).toNat % w)
        (if d = 0 then none else some (h.cur, h.st.sup, d))
      let lat := if n < 4 then 5 else 4
      let r := h.correctSpad off n lat
      ((r.1.takePort (if n < 4 then 2 else 1)).later (lat + r.2) act).advance

/-- The new value of an atomic of n bytes (R173). -/
def atomNew (op : AtomOp) (n old y cmp : Nat) : Nat :=
  let w := 8 * n
  match op with
  | .add => (old + y) % 2 ^ w
  | .swp => y
  | .and => Nat.land old y
  | .or => Nat.lor old y
  | .xor => Nat.xor old y
  | .min => if bitsInt w true y < bitsInt w true old then y else old
  | .max => if bitsInt w true old < bitsInt w true y then y else old
  | .minu => if y < old then y else old
  | .maxu => if old < y then y else old
  | .cas => if old = cmp then y else old

/-! ### Explicit waits (R40) -/

/-- The strand waits at its group from the current tick on. -/
def Hw.waitOn (h : Hw) (w : Wait) : Hw := h.upd fun st => { st with wait := w, joined := none }

/-- A strand whose program counter stands at the group that it resumes at goes to a stub (R371). -/
def Strand.divertTo (st : Strand) (n : BitVec 20) (stub restore : W64) : Strand :=
  { st with stub := true, chk := n, resume := st.pc, restorePc := restore, pc := onGrid stub, diverting := none }

/-- A wait that is over: the next group issues at the next tick (R179); a member of a diverted bundle goes to its stub
(R371). -/
def Strand.goOn (st : Strand) (w : Nat) : Strand :=
  let g := { st.fallThrough with wait := .none, notBefore := w + 1, joined := none }
  match st.diverting with
  | none => g
  | some (n, stub, restore) => g.divertTo n stub restore

/-! ### The fault of a word that waited in a bundle (R29) -/

/-- A member of a bundle takes the abort of a trap of strand k: at its group of the bundle, whose loop and return state it has again. -/
def Strand.abortAt (st : Strand) (w i k : Nat) (old trapped : Strand) : Strand :=
  if st.status == .running && st.mode == .kernel then
    { ({ st with pc := old.pc, kb := { st.kb with loops := old.kb.loops, rets := old.kb.rets } }.enterTrap w i
        { cause := Cause.bundle, info := trapped.info.toNat, dcode := trapped.dcode.toNat }) with
      clu := BitVec.ofNat 2 (clusterOf k), bnd := true }
  else st

/-- Strand k has trapped at a word of a bundle that waited: no word of the bundle takes effect, and the other members take a bundle
abort. What of their words is still on its way is dropped (R29); what has landed meanwhile, and commands and accesses that have set
out, stay (DESIGN CHOICE, notes/assumptions/67.md). -/
def Hw.abortMates (h : Hw) (k : Nat) : Hw :=
  match (h.core (coreOf k)).bundle with
  | none => h
  | some b =>
    if (h.strand k).joined ≠ some b.lo ∨ (h.strand k).sup = false then h
    else
      let t := h.strand k
      let g : Hw := { h with pend := h.pend.filter fun q => !(decide (b.lo ≤ q.seq) && decide (q.seq < b.hi)) }
      let g := b.before.foldl (fun (g : Hw) x => g.updStrand x.1 fun st =>
        if x.1 = k then { st with bnd := true, joined := none } else st.abortAt g.wtick x.1 k x.2 t) g
      g.updCore (coreOf k) fun c => { c with bundle := none }

/-! ### Tokens (R92-R95) -/

def Strand.token (st : Strand) (sup : Bool) (k : Fin 8) : Token := (st.bankOf sup).tok.get k
def Strand.updToken (st : Strand) (sup : Bool) (k : Fin 8) (f : Token → Token) : Strand :=
  let b := st.bankOf sup
  st.setBank sup { b with tok := b.tok.set k (f (b.tok.get k)) }

def Token.add (t : Token) : Token := { t with pend := t.pend + 1 }
/-- A completion: PEND falls, and the first error stays with its code. -/
def Token.complete (t : Token) (code : Option Nat) : Token :=
  let u := { t with pend := t.pend - 1 }
  match code with
  | none => u
  | some c => if t.err then u else { u with err := true, code := c }

/-- The trap that a token's code names (R364). -/
def dataTrap (code : Nat) : TrapInfo :=
  if code = 0x0401 then { cause := Cause.brimMiss, dcode := code }
  else if code = 0x0403 then { cause := Cause.uncorrectable, dcode := code }
  else if code = 0x0404 then { cause := Cause.remote, dcode := code }
  else { cause := Cause.access, dcode := code }

/-! ### Untimed work that fences order (R104-R107, R116) -/

def UntimedOp.isRead : UntimedOp → Bool
  | .load _ _ _ | .atomic _ _ _ _ _ | .vload _ _ | .panel _ _ _ _ => true
  | .store _ | .afence _ | .arrival _ _ _ _ => false
def UntimedOp.isWrite : UntimedOp → Bool
  | .store _ | .atomic _ _ _ _ _ => true
  | _ => false

/-- Identifiers of the strand's untimed accesses still in flight. -/
def Hw.inFlight (h : Hw) (strand : Nat) (readsOnly : Bool) : List Nat :=
  (h.untimed.filter fun u => u.strand == strand && (!readsOnly || u.op.isRead)).map (·.id)

/-- A scratchpad write on its way that may be the strand's: a cluster writes through its own port, and the gather unit of the
core writes for every strand of it through port 4. -/
def PendAct.writesFor (strand : Nat) : PendAct → Bool
  | .swset c p _ _ => c == coreOf strand && p == clusterOf strand
  | .store c p _ _ => c == coreOf strand && (p == clusterOf strand || p == 4)
  | .atomic c p _ _ _ _ _ _ => c == coreOf strand && p == clusterOf strand
  | .vstRead _ _ _ c p _ _ => c == coreOf strand && p == clusterOf strand
  | .scatter _ _ _ _ _ i => i == strand
  | _ => false
/-- A scratchpad write on its way. -/
def PendAct.writesSpad : PendAct → Bool
  | .store _ _ _ _ | .swset _ _ _ _ | .atomic _ _ _ _ _ _ _ _ | .vstRead _ _ _ _ _ _ _ | .scatter _ _ _ _ _ _ => true
  | _ => false
def Hw.storesInFlight (h : Hw) (strand : Nat) : Bool := h.pend.any (·.act.writesFor strand)
/-- Those among the pending writes numbered below `seq`. -/
def Hw.storesBefore (h : Hw) (strand seq : Nat) : Bool :=
  h.pend.any fun p => decide (p.seq < seq) && p.act.writesFor strand

/-- Scratchpad writes on their way in a partition, of any strand, numbered below `seq`. -/
def Hw.storesOfPart (h : Hw) (p seq : Nat) : Bool :=
  h.pend.any fun q => q.part == p && decide (q.seq < seq) && q.act.writesSpad

/-- What fences and barriers order before later work has happened: the accesses named, the strand's stores before `seq`, and those
of its partition before `acq` (R106, R107, R109). -/
def Hw.clear (h : Hw) (strand seq acq : Nat) (after : List Nat) : Bool :=
  after.all (fun i => !h.untimed.any (·.id == i)) && !h.storesBefore strand seq &&
    !h.storesOfPart (h.partOf (slotOf strand)) acq

def addAll (xs ys : List Nat) : List Nat := xs ++ ys.filter fun y => !xs.contains y

/-- rel holds later writes and commands for every earlier access; acq holds later accesses for earlier reads; full does both
and holds later reads for earlier writes. Beyond strand scope, rel and full hold later untimed writes and commands for the
strand's earlier scratchpad stores, and full later untimed reads too (R106). Later timed accesses, scratchpad stores and `swset`
among them, are not held: they take their order from their tick alone (DEDUCED, notes/assumptions/91.md). -/
def Hw.fenceFor (h : Hw) (strand : Nat) (rel acq full wide : Bool) : Hw :=
  let all := h.inFlight strand false
  let rd := h.inFlight strand true
  h.updStrand strand fun st =>
    { st with
      fencedW := addAll st.fencedW (if rel || full then all else if acq then rd else [])
      fencedR := addAll st.fencedR (if full then all else if acq then rd else [])
      fencedSeq := if wide && (rel || full) then h.seq else st.fencedSeq
      fencedSeqR := if wide && full then h.seq else st.fencedSeqR }

/-- A wait on token k whose PEND is 0: on, or the data-fault trap, whose entry clears ERR and the code (R94); an asymmetric
fence that the token counted ends as a full fence, on either way (R116). In supervisor mode the wait that faults has no effect and the token
stays as it is (R357). -/
def Hw.tokenDone (h : Hw) (strand : Nat) (k : Fin 8) : Hw :=
  let st := h.strand strand
  let t := st.token st.sup k
  let g := if t.fence then h.fenceFor strand true true true true else h
  if t.err then
    ((g.updStrand strand fun st =>
      { (if st.sup then st else st.updToken false k fun _ => {}) with wait := .none }).trapOf strand (dataTrap t.code)).abortMates strand
  else
    g.updStrand strand fun st => (st.updToken st.sup k fun t => { t with fence := false }).goOn h.wtick

/-! ### Untimed accesses (R91-R95, R104-R106, R175) -/

/-- An untimed access accepted, adjusted by `f`: its token counts it, and it completes no earlier than a free time from now,
after the accesses that fences order before it (R92, R106, notes/assumptions/3.md). -/
def Hw.launchAs (h : Hw) (tok : Fin 8) (op : UntimedOp) (va : Nat) (ps : List (Place × Nat)) (f : Untimed → Untimed) : Hw :=
  let st := h.st
  let u : Untimed := f
    { id := h.fresh, strand := h.cur, sup := st.sup, tok := tok, op := op, va := va, pieces := ps.map fun x => (h.placed x.1, x.2)
      issued := h.wtick, due := h.wtick + 1 + Config.freeLatency h.fresh
      after := if op.isWrite then st.fencedW else st.fencedR
      afterSeq := if op.isWrite then st.fencedSeq else st.fencedSeqR
      afterAcq := st.acqSeq
      seg := (h.part h.myPart).seg }
  let g := { (h.upd fun st => st.updToken st.sup tok Token.add) with untimed := h.untimed ++ [u], fresh := h.fresh + 1 }
  -- a line request that has no response within 100 µs fails (R389)
  if ps.any fun x => (match x.1 with | .remote _ _ _ => true | _ => false) then
    g.at (h.wtick + usTicks h.pkg.mode 100) (.lineRequestTimeout u.id)
  else g
def Hw.launchUntimed (h : Hw) (tok : Fin 8) (op : UntimedOp) (va : Nat) (ps : List (Place × Nat)) : Hw :=
  h.launchAs tok op va ps id

/-- The traps of translation at issue (R175 steps 1 to 3). -/
def Hw.translationTrap (h : Hw) (code : Nat) (va : W64) : Hw :=
  if code = 0x0401 then h.trap { cause := Cause.brimMiss, stval := va } else h.accessFault va

/-- A token's PEND at 63: blocked, or the queue-overflow trap (R92). -/
def Hw.tokenFull (h : Hw) (tok : Fin 8) : Bool := decide (63 ≤ (h.st.token h.st.sup tok).pend)

/-- A global access of n bytes, of at most 8, under the checks of R175, in its order: the first three are of the address
itself, and an access that passes the fourth lies in one page. -/
def Hw.global (h : Hw) (va : W64) (n : Nat) (need : Need) (tok : Fin 8) (mis : Hw → Hw) (op : UntimedOp) : Hw :=
  match (h.die (slotOf h.cur)).piece va.toNat need false with
  | .error c => h.translationTrap c va
  | .ok p =>
    if va.toNat % n ≠ 0 then mis h
    else if h.tokenFull tok then h.block (0xFFF0 + tok.val)
    else ((h.updDie (slotOf h.cur) fun d => d.touch va.toNat n).launchUntimed tok op va.toNat [(p, n)]).advance

def tokOf (t : BitVec 3) : Fin 8 := Fin.ofNat 8 t.toNat

/-! ### Fetching code (R127, R341, R356) -/

/-- The word `retire`, which stands for a code stream of length 0 (R143, R341). -/
def retireWord : Nat := 0x44000010

/-- The word at a code address: of the strand's stream in kernel mode, of the supervisor image in supervisor mode; none
outside it. -/
def codeWord (m : Memory) (h : Hw) (strand a : Nat) : Option Nat :=
  let st := h.strand strand
  let p := h.partOf (slotOf strand)
  match st.mode with
  | .supervisor => if a + 4 ≤ (h.part p).supLen then some (Memory.readNat m (supKey p a) 4) else none
  | .kernel =>
    if st.codeLen = 0 then (if a = st.codeStart then some retireWord else none)
    else if st.codeStart ≤ a ∧ a + 4 ≤ st.codeStart + st.codeLen then some (Memory.readNat m (codeKey p a) 4) else none

/-- Length in bytes of the group whose first word stands at an address, by the LEN fields (R126, R133). A prefix that is an
orphan (R134) has no instruction word, and the manual gives such a group no extent: the next word is counted in it, whatever
its M and LEN. A group whose first word lies outside the code, or has LEN = 11, has no extent either, and is taken as 4 bytes (DESIGN
CHOICE, notes/assumptions/75.md). -/
def groupLen (code : Nat → Option Nat) (a : Nat) : Nat :=
  match code a with
  | none => 4
  | some w =>
    if w % 4 = 2 then (match code (a + 4) with | some w1 => if w1 % 4 = 1 then 12 else 8 | none => 4)
    else if w % 4 = 1 then 8 else 4

/-- The group that follows, in address order, the group that holds a word: groups are taken from `a` on. -/
def groupAfter (k : Nat) (code : Nat → Option Nat) (a last : Nat) : Nat :=
  match k with
  | 0 => last + 4
  | k + 1 =>
    let b := a + groupLen code a
    if last < b then b else groupAfter k code b last

/-- The address of the group after the one at an address, in kernel code (R360). -/
def kernelAfter (m : Memory) (h : Hw) (strand : Nat) (a : W64) : W64 :=
  let k := h.updStrand strand fun st => { st with mode := .kernel }
  a + BitVec.ofNat 64 (groupLen (codeWord m k strand) a.toNat)

end Sys2Proof.Machine
end

