-- ==== Sys2Proof/Machine/Arith.lean ====
section
/-! DEFINITION. Class C arithmetic: integer operations, constants, bit fields and counts (R150-R161). -/
namespace Sys2Proof.Machine
open Sys2Proof

/-- What a step of the machine answers. -/
abbrev Out := Host.Outcome State Fault Refusal

/-! ### Shapes -/

/-- A result of one tick from two registers. -/
def aluRR (f : W64 → W64 → W64) (d a b : XReg) (s : State) : Out :=
  issue s fun _ h => h.result d (f (h.rx a) (h.rx b)) 0 1
/-- A result of one tick from a register and a constant. -/
def aluRI (f : W64 → W64 → W64) (d a : XReg) (i : W64) (s : State) : Out :=
  issue s fun _ h => h.result d (f (h.rx a) i) 0 1
/-- A product, three ticks. -/
def mulRR (f : W64 → W64 → W64) (d a b : XReg) (s : State) : Out :=
  issue s fun _ h => h.result d (f (h.rx a) (h.rx b)) 0 3

/-- The result under an optional prefix: the wrapped result, or the exact signed result under SAT (R155). -/
def satResult (p : Option Prefix) (plain : W64) (exact : Int) : W64 × FlagBits :=
  match p with
  | none => (plain, 0)
  | some q =>
    let r := finishInt q.sat 64 true exact
    (BitVec.ofNat 64 r.1, r.2)

/-- add, sub, mul and addi (R154-R156). -/
def satOp (p : Option Prefix) (f : W64 → W64 → W64) (g : Int → Int → Int) (lat : Nat) (d : XReg) (h : Hw) (x y : W64) : Hw :=
  let r := satResult p (f x y) (g x.toInt y.toInt)
  h.result d r.1 r.2 lat

/-- The divider (R157): all ones and DZ for a zero divisor; 18 ticks, occupied for 16. -/
def divRR (f : W64 → W64 → W64) (d a b : XReg) (s : State) : Out :=
  issue s fun _ h =>
    if h.divBusy then h.occupied (h.stuck h.st.units.div)
    else if h.rx b = 0 then h.takeDiv.result d (BitVec.allOnes 64) fDZ 18
    else h.takeDiv.result d (f (h.rx a) (h.rx b)) 0 18

def boolW (b : Bool) : W64 := if b then 1 else 0
def shAmt (y : W64) : Nat := y.toNat % 64

def sMin (x y : W64) : W64 := if y.slt x then y else x
def sMax (x y : W64) : W64 := if x.slt y then y else x
def uMin (x y : W64) : W64 := if y < x then y else x
def uMax (x y : W64) : W64 := if x < y then y else x
def mulHigh (x y : W64) : W64 := BitVec.ofInt 64 (x.toInt * y.toInt / 2 ^ 64)
def mulHighU (x y : W64) : W64 := BitVec.ofNat 64 (x.toNat * y.toNat / 2 ^ 64)
def quot (x y : W64) : W64 := BitVec.ofInt 64 (x.toInt.tdiv y.toInt)
def remS (x y : W64) : W64 := BitVec.ofInt 64 (x.toInt.tmod y.toInt)

/-! ### Bit fields and counts (R159-R161) -/

/-- field(v, o, w). -/
def field (v : W64) (o w : Nat) : Nat := v.toNat / 2 ^ o % 2 ^ w
def bextZero (v : W64) (o w : Nat) : W64 := BitVec.ofNat 64 (field v o w)
def bextSign (v : W64) (o w : Nat) : W64 := BitVec.ofInt 64 (if w = 0 then 0 else bitsInt w true (field v o w))
/-- Bits o to o + n − 1 replaced by the low bits of x, where n of w bits fit. -/
def insertBits (old x : W64) (o w : Nat) : W64 :=
  let n := Nat.min w (64 - o)
  let mask : W64 := BitVec.ofNat 64 ((2 ^ n - 1) * 2 ^ o)
  (old &&& ~~~mask) ||| ((x <<< o) &&& mask)

def offOf (y : W64) : Nat := y.toNat % 256
def widOf (y : W64) : Nat := Nat.min (y.toNat / 256 % 256) 64
/-- WC = 0 stands for a width of 64 (R160). -/
def wcOf (c : BitVec 6) : Nat := if c = 0 then 64 else c.toNat

def countBits (k n : Nat) : Nat :=
  match k with
  | 0 => 0
  | k + 1 => n % 2 + countBits k (n / 2)
def trailing (k n : Nat) : Nat :=
  match k with
  | 0 => 0
  | k + 1 => if n % 2 = 1 then 0 else 1 + trailing k (n / 2)
def reverseBits (k n acc : Nat) : Nat :=
  match k with
  | 0 => acc
  | k + 1 => reverseBits k (n / 2) (acc * 2 + n % 2)

def leadingZeros (x : W64) : W64 := BitVec.ofNat 64 (64 - bitLen x.toNat)
def trailingZeros (x : W64) : W64 := BitVec.ofNat 64 (trailing 64 x.toNat)
def popCount (x : W64) : W64 := BitVec.ofNat 64 (countBits 64 x.toNat)
def bitReverse (x : W64) : W64 := BitVec.ofNat 64 (reverseBits 64 x.toNat 0)

/-! ### The instructions of R154 -/
def execAdd (d a b : XReg) (p : Option Prefix) (s : State) : Out :=
  issue s fun _ h => satOp p (· + ·) (· + ·) 1 d h (h.rx a) (h.rx b)
def execSub (d a b : XReg) (p : Option Prefix) (s : State) : Out :=
  issue s fun _ h => satOp p (· - ·) (· - ·) 1 d h (h.rx a) (h.rx b)
def execAnd (d a b : XReg) (s : State) : Out := aluRR (fun x y => x &&& y) d a b s
def execOr (d a b : XReg) (s : State) : Out := aluRR (fun x y => x ||| y) d a b s
def execXor (d a b : XReg) (s : State) : Out := aluRR (fun x y => x ^^^ y) d a b s
def execAndn (d a b : XReg) (s : State) : Out := aluRR (fun x y => x &&& ~~~y) d a b s
def execSll (d a b : XReg) (s : State) : Out := aluRR (fun x y => x <<< shAmt y) d a b s
def execSrl (d a b : XReg) (s : State) : Out := aluRR (fun x y => x >>> shAmt y) d a b s
def execSra (d a b : XReg) (s : State) : Out := aluRR (fun x y => x.sshiftRight (shAmt y)) d a b s
def execSlt (d a b : XReg) (s : State) : Out := aluRR (fun x y => boolW (x.slt y)) d a b s
def execSltu (d a b : XReg) (s : State) : Out := aluRR (fun x y => boolW (decide (x < y))) d a b s
def execMin (d a b : XReg) (s : State) : Out := aluRR (fun x y => sMin x y) d a b s
def execMax (d a b : XReg) (s : State) : Out := aluRR (fun x y => sMax x y) d a b s
def execMinu (d a b : XReg) (s : State) : Out := aluRR (fun x y => uMin x y) d a b s
def execMaxu (d a b : XReg) (s : State) : Out := aluRR (fun x y => uMax x y) d a b s
def execMul (d a b : XReg) (p : Option Prefix) (s : State) : Out :=
  issue s fun _ h => satOp p (· * ·) (· * ·) 3 d h (h.rx a) (h.rx b)
def execMulh (d a b : XReg) (s : State) : Out := mulRR mulHigh d a b s
def execMulhu (d a b : XReg) (s : State) : Out := mulRR mulHighU d a b s

/-! ### Division (R157) -/

def execDiv (d a b : XReg) (s : State) : Out := divRR quot d a b s
def execDivu (d a b : XReg) (s : State) : Out := divRR (fun x y => x / y) d a b s
def execRem (d a b : XReg) (s : State) : Out := divRR remS d a b s
def execRemu (d a b : XReg) (s : State) : Out := divRR (fun x y => x % y) d a b s

/-! ### Immediates and constants (R156, R158) -/

def execAddi (d a : XReg) (i : BitVec 10) (p : Option Prefix) (s : State) : Out :=
  issue s fun _ h => satOp p (· + ·) (· + ·) 1 d h (h.rx a) (sext 10 i)
def execAndi (d a : XReg) (i : BitVec 10) (s : State) : Out := aluRI (fun x y => x &&& y) d a (sext 10 i) s
def execOri (d a : XReg) (i : BitVec 10) (s : State) : Out := aluRI (fun x y => x ||| y) d a (sext 10 i) s
def execXori (d a : XReg) (i : BitVec 10) (s : State) : Out := aluRI (fun x y => x ^^^ y) d a (sext 10 i) s
def execSlti (d a : XReg) (i : BitVec 10) (s : State) : Out := aluRI (fun x y => boolW (x.slt y)) d a (sext 10 i) s
def execSltiu (d a : XReg) (i : BitVec 10) (s : State) : Out :=
  aluRI (fun x y => boolW (decide (x < y))) d a (sext 10 i) s
def execSlli (d a : XReg) (i : BitVec 10) (s : State) : Out := aluRI (fun x y => x <<< shAmt y) d a (i.setWidth 64) s
def execSrli (d a : XReg) (i : BitVec 10) (s : State) : Out := aluRI (fun x y => x >>> shAmt y) d a (i.setWidth 64) s
def execSrai (d a : XReg) (i : BitVec 10) (s : State) : Out :=
  aluRI (fun x y => x.sshiftRight (shAmt y)) d a (i.setWidth 64) s

def execLui (d : XReg) (i : BitVec 15) (s : State) : Out := issue s fun _ h => h.result d (sext 15 i <<< 10) 0 1
def execLi (d : XReg) (imm : BitVec 32) (s : State) : Out := issue s fun _ h => h.result d (sext 32 imm) 0 1
def execLih (d : XReg) (imm : BitVec 32) (s : State) : Out :=
  issue s fun _ h => h.result d (imm ++ (h.rx d).setWidth 32) 0 1
def execAdpc (d : XReg) (i : BitVec 15) (s : State) : Out :=
  issue s fun _ h => h.result d (h.st.wordAddr + sext 15 i <<< 2) 0 1

/-! ### Bit fields, counts and scaled addition (R159-R161) -/

def execBextZ (d a b : XReg) (s : State) : Out := aluRR (fun x y => bextZero x (offOf y) (widOf y)) d a b s
def execBextS (d a b : XReg) (s : State) : Out := aluRR (fun x y => bextSign x (offOf y) (widOf y)) d a b s
def execBins (d a b : XReg) (s : State) : Out :=
  issue s fun _ h => h.result d (insertBits (h.rx d) (h.rx a) (offOf (h.rx b)) (widOf (h.rx b))) 0 1
def execBextiZ (d a : XReg) (wc off : BitVec 6) (s : State) : Out :=
  issue s fun _ h => h.result d (bextZero (h.rx a) off.toNat (wcOf wc)) 0 1
def execBextiS (d a : XReg) (wc off : BitVec 6) (s : State) : Out :=
  issue s fun _ h => h.result d (bextSign (h.rx a) off.toNat (wcOf wc)) 0 1
def execBinsi (d a : XReg) (wc off : BitVec 6) (s : State) : Out :=
  issue s fun _ h => h.result d (insertBits (h.rx d) (h.rx a) off.toNat (wcOf wc)) 0 1

def execClz (d a : XReg) (s : State) : Out := issue s fun _ h => h.result d (leadingZeros (h.rx a)) 0 1
def execCtz (d a : XReg) (s : State) : Out := issue s fun _ h => h.result d (trailingZeros (h.rx a)) 0 1
def execPopc (d a : XReg) (s : State) : Out := issue s fun _ h => h.result d (popCount (h.rx a)) 0 1
def execBrev (d a : XReg) (s : State) : Out := issue s fun _ h => h.result d (bitReverse (h.rx a)) 0 1
def execShadd1 (d a b : XReg) (s : State) : Out := aluRR (fun x y => x * 2 + y) d a b s
def execShadd2 (d a b : XReg) (s : State) : Out := aluRR (fun x y => x * 4 + y) d a b s
def execShadd3 (d a b : XReg) (s : State) : Out := aluRR (fun x y => x * 8 + y) d a b s

end Sys2Proof.Machine
end

