-- ==== Sys2Proof/Machine/Access.lean ====
section
/-! DEFINITION. Scratchpad and global scalar accesses and atomics (R171-R176). -/
namespace Sys2Proof.Machine
open Sys2Proof

/-- Base plus sign-extended displacement (R171). -/
def Hw.ea (h : Hw) (a : XReg) (i : BitVec 10) : W64 := h.rx a + sext 10 i
def Hw.gea (h : Hw) (a : XReg) (disp : BitVec 24) : W64 := h.rx a + sext 24 disp

/-! ### Scratchpad loads and stores -/

def execLdS8 (d a : XReg) (i : BitVec 10) (s : State) : Out :=
  issue s fun m h => loadSpad m h d (h.ea a i) 1 true
def execLdS16 (d a : XReg) (i : BitVec 10) (s : State) : Out :=
  issue s fun m h => loadSpad m h d (h.ea a i) 2 true
def execLdS32 (d a : XReg) (i : BitVec 10) (s : State) : Out :=
  issue s fun m h => loadSpad m h d (h.ea a i) 4 true
def execLdZ8 (d a : XReg) (i : BitVec 10) (s : State) : Out :=
  issue s fun m h => loadSpad m h d (h.ea a i) 1 false
def execLdZ16 (d a : XReg) (i : BitVec 10) (s : State) : Out :=
  issue s fun m h => loadSpad m h d (h.ea a i) 2 false
def execLdZ32 (d a : XReg) (i : BitVec 10) (s : State) : Out :=
  issue s fun m h => loadSpad m h d (h.ea a i) 4 false
def execLd64 (d a : XReg) (i : BitVec 10) (s : State) : Out :=
  issue s fun m h => loadSpad m h d (h.ea a i) 8 false
def execSt8 (d a : XReg) (i : BitVec 10) (s : State) : Out :=
  issue s fun _ h => storeSpad h (h.ea a i) 1 (h.rx d) d
def execSt16 (d a : XReg) (i : BitVec 10) (s : State) : Out :=
  issue s fun _ h => storeSpad h (h.ea a i) 2 (h.rx d) d
def execSt32 (d a : XReg) (i : BitVec 10) (s : State) : Out :=
  issue s fun _ h => storeSpad h (h.ea a i) 4 (h.rx d) d
def execSt64 (d a : XReg) (i : BitVec 10) (s : State) : Out :=
  issue s fun _ h => storeSpad h (h.ea a i) 8 (h.rx d) d

/-! ### Scratchpad atomics -/

def execAadd8 (d a b : XReg) (s : State) : Out := issue s fun _ h => atomicSpad h .add 1 d a b
def execAswp8 (d a b : XReg) (s : State) : Out := issue s fun _ h => atomicSpad h .swp 1 d a b
def execAand8 (d a b : XReg) (s : State) : Out := issue s fun _ h => atomicSpad h .and 1 d a b
def execAor8 (d a b : XReg) (s : State) : Out := issue s fun _ h => atomicSpad h .or 1 d a b
def execAxor8 (d a b : XReg) (s : State) : Out := issue s fun _ h => atomicSpad h .xor 1 d a b
def execAmin8 (d a b : XReg) (s : State) : Out := issue s fun _ h => atomicSpad h .min 1 d a b
def execAmax8 (d a b : XReg) (s : State) : Out := issue s fun _ h => atomicSpad h .max 1 d a b
def execAminu8 (d a b : XReg) (s : State) : Out := issue s fun _ h => atomicSpad h .minu 1 d a b
def execAmaxu8 (d a b : XReg) (s : State) : Out := issue s fun _ h => atomicSpad h .maxu 1 d a b
def execAcas8 (d a b : XReg) (s : State) : Out := issue s fun _ h => atomicSpad h .cas 1 d a b
def execAadd16 (d a b : XReg) (s : State) : Out := issue s fun _ h => atomicSpad h .add 2 d a b
def execAswp16 (d a b : XReg) (s : State) : Out := issue s fun _ h => atomicSpad h .swp 2 d a b
def execAand16 (d a b : XReg) (s : State) : Out := issue s fun _ h => atomicSpad h .and 2 d a b
def execAor16 (d a b : XReg) (s : State) : Out := issue s fun _ h => atomicSpad h .or 2 d a b
def execAxor16 (d a b : XReg) (s : State) : Out := issue s fun _ h => atomicSpad h .xor 2 d a b
def execAmin16 (d a b : XReg) (s : State) : Out := issue s fun _ h => atomicSpad h .min 2 d a b
def execAmax16 (d a b : XReg) (s : State) : Out := issue s fun _ h => atomicSpad h .max 2 d a b
def execAminu16 (d a b : XReg) (s : State) : Out := issue s fun _ h => atomicSpad h .minu 2 d a b
def execAmaxu16 (d a b : XReg) (s : State) : Out := issue s fun _ h => atomicSpad h .maxu 2 d a b
def execAcas16 (d a b : XReg) (s : State) : Out := issue s fun _ h => atomicSpad h .cas 2 d a b
def execAadd32 (d a b : XReg) (s : State) : Out := issue s fun _ h => atomicSpad h .add 4 d a b
def execAswp32 (d a b : XReg) (s : State) : Out := issue s fun _ h => atomicSpad h .swp 4 d a b
def execAand32 (d a b : XReg) (s : State) : Out := issue s fun _ h => atomicSpad h .and 4 d a b
def execAor32 (d a b : XReg) (s : State) : Out := issue s fun _ h => atomicSpad h .or 4 d a b
def execAxor32 (d a b : XReg) (s : State) : Out := issue s fun _ h => atomicSpad h .xor 4 d a b
def execAmin32 (d a b : XReg) (s : State) : Out := issue s fun _ h => atomicSpad h .min 4 d a b
def execAmax32 (d a b : XReg) (s : State) : Out := issue s fun _ h => atomicSpad h .max 4 d a b
def execAminu32 (d a b : XReg) (s : State) : Out := issue s fun _ h => atomicSpad h .minu 4 d a b
def execAmaxu32 (d a b : XReg) (s : State) : Out := issue s fun _ h => atomicSpad h .maxu 4 d a b
def execAcas32 (d a b : XReg) (s : State) : Out := issue s fun _ h => atomicSpad h .cas 4 d a b
def execAadd64 (d a b : XReg) (s : State) : Out := issue s fun _ h => atomicSpad h .add 8 d a b
def execAswp64 (d a b : XReg) (s : State) : Out := issue s fun _ h => atomicSpad h .swp 8 d a b
def execAand64 (d a b : XReg) (s : State) : Out := issue s fun _ h => atomicSpad h .and 8 d a b
def execAor64 (d a b : XReg) (s : State) : Out := issue s fun _ h => atomicSpad h .or 8 d a b
def execAxor64 (d a b : XReg) (s : State) : Out := issue s fun _ h => atomicSpad h .xor 8 d a b
def execAmin64 (d a b : XReg) (s : State) : Out := issue s fun _ h => atomicSpad h .min 8 d a b
def execAmax64 (d a b : XReg) (s : State) : Out := issue s fun _ h => atomicSpad h .max 8 d a b
def execAminu64 (d a b : XReg) (s : State) : Out := issue s fun _ h => atomicSpad h .minu 8 d a b
def execAmaxu64 (d a b : XReg) (s : State) : Out := issue s fun _ h => atomicSpad h .maxu 8 d a b
def execAcas64 (d a b : XReg) (s : State) : Out := issue s fun _ h => atomicSpad h .cas 8 d a b

/-! ### Global loads, stores and atomics -/

/-- ldg of n bytes (R175). -/
def loadGlobal (h : Hw) (d a : XReg) (disp : BitVec 24) (tok : BitVec 3) (n : Nat) (sgn : Bool) : Hw :=
  let va := h.gea a disp
  h.global va n .read (tokOf tok) (fun h => h.misaligned va (misInfo n false sgn true tok.toNat d)) (.load d n sgn)

/-- stg of n bytes; the data are read at issue. -/
def storeGlobal (h : Hw) (d a : XReg) (disp : BitVec 24) (tok : BitVec 3) (n : Nat) : Hw :=
  let va := h.gea a disp
  h.global va n .write (tokOf tok) (fun h => h.misaligned va (misInfo n true false true tok.toNat d))
    (.store (leBytes n (h.rx d).toNat))

/-- A global atomic of n bytes (R176); a misaligned one raises the access fault (R122). -/
def atomicGlobal (h : Hw) (op : AtomOp) (n : Nat) (d a b : XReg) (disp : BitVec 24) (tok : BitVec 3) : Hw :=
  let va := h.gea a disp
  let w := 2 ^ (8 * n)
  h.global va n .both (tokOf tok) (fun h => h.accessFault va)
    (.atomic d n op ((h.rx b).toNat % w) ((h.rx d).toNat % w))

def execLdgS8 (d a : XReg) (disp : BitVec 24) (tok : BitVec 3) (s : State) : Out :=
  issue s fun _ h => loadGlobal h d a disp tok 1 true
def execLdgS16 (d a : XReg) (disp : BitVec 24) (tok : BitVec 3) (s : State) : Out :=
  issue s fun _ h => loadGlobal h d a disp tok 2 true
def execLdgS32 (d a : XReg) (disp : BitVec 24) (tok : BitVec 3) (s : State) : Out :=
  issue s fun _ h => loadGlobal h d a disp tok 4 true
def execLdgZ8 (d a : XReg) (disp : BitVec 24) (tok : BitVec 3) (s : State) : Out :=
  issue s fun _ h => loadGlobal h d a disp tok 1 false
def execLdgZ16 (d a : XReg) (disp : BitVec 24) (tok : BitVec 3) (s : State) : Out :=
  issue s fun _ h => loadGlobal h d a disp tok 2 false
def execLdgZ32 (d a : XReg) (disp : BitVec 24) (tok : BitVec 3) (s : State) : Out :=
  issue s fun _ h => loadGlobal h d a disp tok 4 false
def execLdg64 (d a : XReg) (disp : BitVec 24) (tok : BitVec 3) (s : State) : Out :=
  issue s fun _ h => loadGlobal h d a disp tok 8 false
def execStg8 (d a : XReg) (disp : BitVec 24) (tok : BitVec 3) (s : State) : Out :=
  issue s fun _ h => storeGlobal h d a disp tok 1
def execStg16 (d a : XReg) (disp : BitVec 24) (tok : BitVec 3) (s : State) : Out :=
  issue s fun _ h => storeGlobal h d a disp tok 2
def execStg32 (d a : XReg) (disp : BitVec 24) (tok : BitVec 3) (s : State) : Out :=
  issue s fun _ h => storeGlobal h d a disp tok 4
def execStg64 (d a : XReg) (disp : BitVec 24) (tok : BitVec 3) (s : State) : Out :=
  issue s fun _ h => storeGlobal h d a disp tok 8
def execAaddG32 (d a b : XReg) (disp : BitVec 24) (tok : BitVec 3) (s : State) : Out :=
  issue s fun _ h => atomicGlobal h .add 4 d a b disp tok
def execAswpG32 (d a b : XReg) (disp : BitVec 24) (tok : BitVec 3) (s : State) : Out :=
  issue s fun _ h => atomicGlobal h .swp 4 d a b disp tok
def execAandG32 (d a b : XReg) (disp : BitVec 24) (tok : BitVec 3) (s : State) : Out :=
  issue s fun _ h => atomicGlobal h .and 4 d a b disp tok
def execAorG32 (d a b : XReg) (disp : BitVec 24) (tok : BitVec 3) (s : State) : Out :=
  issue s fun _ h => atomicGlobal h .or 4 d a b disp tok
def execAxorG32 (d a b : XReg) (disp : BitVec 24) (tok : BitVec 3) (s : State) : Out :=
  issue s fun _ h => atomicGlobal h .xor 4 d a b disp tok
def execAminG32 (d a b : XReg) (disp : BitVec 24) (tok : BitVec 3) (s : State) : Out :=
  issue s fun _ h => atomicGlobal h .min 4 d a b disp tok
def execAmaxG32 (d a b : XReg) (disp : BitVec 24) (tok : BitVec 3) (s : State) : Out :=
  issue s fun _ h => atomicGlobal h .max 4 d a b disp tok
def execAminuG32 (d a b : XReg) (disp : BitVec 24) (tok : BitVec 3) (s : State) : Out :=
  issue s fun _ h => atomicGlobal h .minu 4 d a b disp tok
def execAmaxuG32 (d a b : XReg) (disp : BitVec 24) (tok : BitVec 3) (s : State) : Out :=
  issue s fun _ h => atomicGlobal h .maxu 4 d a b disp tok
def execAcasG32 (d a b : XReg) (disp : BitVec 24) (tok : BitVec 3) (s : State) : Out :=
  issue s fun _ h => atomicGlobal h .cas 4 d a b disp tok
def execAaddG64 (d a b : XReg) (disp : BitVec 24) (tok : BitVec 3) (s : State) : Out :=
  issue s fun _ h => atomicGlobal h .add 8 d a b disp tok
def execAswpG64 (d a b : XReg) (disp : BitVec 24) (tok : BitVec 3) (s : State) : Out :=
  issue s fun _ h => atomicGlobal h .swp 8 d a b disp tok
def execAandG64 (d a b : XReg) (disp : BitVec 24) (tok : BitVec 3) (s : State) : Out :=
  issue s fun _ h => atomicGlobal h .and 8 d a b disp tok
def execAorG64 (d a b : XReg) (disp : BitVec 24) (tok : BitVec 3) (s : State) : Out :=
  issue s fun _ h => atomicGlobal h .or 8 d a b disp tok
def execAxorG64 (d a b : XReg) (disp : BitVec 24) (tok : BitVec 3) (s : State) : Out :=
  issue s fun _ h => atomicGlobal h .xor 8 d a b disp tok
def execAminG64 (d a b : XReg) (disp : BitVec 24) (tok : BitVec 3) (s : State) : Out :=
  issue s fun _ h => atomicGlobal h .min 8 d a b disp tok
def execAmaxG64 (d a b : XReg) (disp : BitVec 24) (tok : BitVec 3) (s : State) : Out :=
  issue s fun _ h => atomicGlobal h .max 8 d a b disp tok
def execAminuG64 (d a b : XReg) (disp : BitVec 24) (tok : BitVec 3) (s : State) : Out :=
  issue s fun _ h => atomicGlobal h .minu 8 d a b disp tok
def execAmaxuG64 (d a b : XReg) (disp : BitVec 24) (tok : BitVec 3) (s : State) : Out :=
  issue s fun _ h => atomicGlobal h .maxu 8 d a b disp tok
def execAcasG64 (d a b : XReg) (disp : BitVec 24) (tok : BitVec 3) (s : State) : Out :=
  issue s fun _ h => atomicGlobal h .cas 8 d a b disp tok

end Sys2Proof.Machine
end

