-- ==== Sys2Proof/Machine/Vector.lean ====
section
/-! DEFINITION. Class V, core: transfers, moves, bitwise operations, floating-point and integer arithmetic, compares, masks
and conversion (R195-R213), with the lining of the floating-point lanes (R409). -/
namespace Sys2Proof.Machine
open Sys2Proof

/-! ### Elements under a mask (R196, R200) -/

/-- Results of elements i, i + 1, …, each with its draw. -/
def elemsFrom (k i : Nat) (us : List Nat) (f : Nat → Nat → Nat × FlagBits) : List (Nat × FlagBits) :=
  match k with
  | 0 => []
  | k + 1 => f i (us.headD 0) :: elemsFrom k (i + 1) us.tail f

/-- The flags that the unmasked elements raise. -/
def flagsOf (k : BitVec 1024) (w i : Nat) (xs : List (Nat × FlagBits)) : FlagBits :=
  match xs with
  | [] => 0
  | x :: t => (if elemOn k w i then x.2 else 0) ||| flagsOf k w (i + 1) t

/-- A register of elements that all fill their slots, its tag and its flags (R198): the masked slots stay. -/
def Hw.vresult (h : Hw) (d : VRegNo) (w : Nat) (mask : BitVec 1024) (tag : Tag) (lat occ : Nat)
    (xs : List (Nat × FlagBits)) : Hw :=
  (((h.takeVec occ).landV d (packReg w (xs.map (·.1))) (writeMask mask w) tag lat).landFlags (flagsOf mask w 0 xs) lat).advance

/-- The tag checks of R197: each register's tag accepted, then all tags equal. -/
def Hw.tagCheck (h : Hw) (ok : Tag → Bool) (rs : List VRegNo) : Option VRegNo :=
  match h.badTag ok rs with
  | some r => some r
  | none =>
    match rs with
    | [] => none
    | r :: _ => rs.find? fun q => (h.vreg q).tag != (h.vreg r).tag

def anyTag (_ : Tag) : Bool := true
def isFpTag (t : Tag) : Bool := t == tF32 || t == tB16 || t == tH16 || t == tF64
def wide (t : Tag) : Bool := t == tF64 || t == tI64

/-! ### The lining (R409) -/

/-- The top five bits of a significand: 1 and 4 fraction bits, the rest truncated. -/
def FVal.coarse : FVal → FVal
  | .fin s m e => if 5 < bitLen m then .fin s (m / 2 ^ (bitLen m - 5)) (e + (bitLen m : Int) - 5) else .fin s m e
  | v => v

/-- Sign, exponent and the top 4 fraction bits of a nonzero finite value. -/
def FVal.parts : FVal → Option (Bool × Int × Nat)
  | .fin s m e => if m = 0 then none else some (s, e + (bitLen m : Int) - 1, m * 16 / 2 ^ (bitLen m - 1) - 16)
  | _ => none

/-- The largest exponent among terms. -/
def topOf (ts : List FVal) : Int :=
  ts.foldl (fun a v => match v.parts with | some (_, e, _) => if a < e then e else a | none => a) (-5000)

/-- Whether a main result diverges from its shadow: exempt results do not. -/
def diverges (f : FloatFmt) (main : Nat) (shadow : FVal) (top : Int) : Bool :=
  match (f.unpack main).parts with
  | none => false
  | some (s, e, fr) =>
    if e < 1 - (f.bias : Int) ∨ e + 2 < top then false
    else
      match shadow.parts with
      | none => true
      | some (s', e', fr') =>
        s != s' || decide (1 < (e - e').natAbs) || (e == e' && decide (1 < ((fr : Int) - (fr' : Int)).natAbs))

/-- A coarse result under the modifiers, and the exponent of its largest term with the same scale. -/
def shadowOf (m : Mods) (x : Exact) (ts : List FVal) : FVal × Int := ((x.modify m).v.coarse, topOf ts + m.scale)

/-- A vector result of a lined path. A physical upset flips bits of one slot of it; when the shadow of an element of that
slot diverges, neither the result nor its flags land, the trap follows at the landing tick, and SRSEED, which the draws would
leave at `seed`, stays (R66). Without an upset the main result and its shadow agree (notes/assumptions/6.md). -/
def Hw.vlined (h : Hw) (seed : Nat) (lined : Bool) (f : FloatFmt) (shadow : Nat → FVal × Int) (d : VRegNo) (mask : BitVec 1024)
    (tag : Tag) (lat occ : Nat) (xs : List (Nat × FlagBits)) : Hw :=
  match h.st.upset with
  | none => (h.setSeed seed).vresult d f.width mask tag lat occ xs
  | some (slot, bits) =>
    if lined = false ∨ maskBit mask slot = false then (h.setSeed seed).vresult d f.width mask tag lat occ xs
    else
      let data := packReg f.width (xs.map (·.1)) ^^^ (bits.setWidth 32768 <<< (32 * slot))
      let n := 32 / f.width
      let g := (h.takeVec occ).upd fun st => { st with upset := none }
      if (List.range n).any fun i =>
          diverges f (elemAt data f.width (slot * n + i)) (shadow (slot * n + i)).1 (shadow (slot * n + i)).2 then
        (g.later lat (.lining h.cur h.st.pc (d.val * 1024 + slot) [])).advance
      else (((g.setSeed seed).landV d data mask tag lat).landFlags (flagsOf mask f.width 0 xs) lat).advance

/-! ### Scratchpad transfers (R201, R202) -/

/-- a := xa + 64 × sext(DISP). -/
def Hw.vea (h : Hw) (a : XReg) (disp : BitVec 20) : W64 := h.rx a + (sext 20 disp <<< 6)

/-- KiB q of n rows: rows 4q to at most 4q + 3. -/
def kibRows (n q : Nat) : Nat := Nat.min 4 (n - 4 * q)
def kibs (n : Nat) : Nat := (n + 3) / 4

/-- The bytes of a register's data from an offset on. -/
def regBytes (data : BitVec 32768) (off n : Nat) : List Byte :=
  (List.range n).map fun i => data.extractLsb' (8 * (off + i)) 8

/-- A register's data from bytes at a key, low rows first. -/
def dataAt (m : Memory) (key n : Nat) : BitVec 32768 := BitVec.ofNat 32768 (Memory.readNat m key n)

/-- The checks of a transfer of n bytes, the port taken for occ ticks, and what it does at its offset, with the ticks by which
words in error make it late. Where the test for an occupied unit stands among the steps of R197 the manual leaves open: it is
made after the address check and before the sampled data (DESIGN CHOICE, notes/assumptions/78.md). -/
def transfer (h : Hw) (ea : W64) (n occ : Nat) (reads : Bool) (f : Nat → Nat → Hw → Hw) : Hw :=
  match transferAddr h.cur ea n with
  | .ok off =>
    if h.portBusy then h.occupied (h.stuck h.st.units.port)
    else if reads && h.badSpad off n then h.uncorrectable off n
    else
      let r := if reads then h.correctSpad off n 3 else (h, 0)
      (f off r.2 (r.1.takePort occ)).advance
  | _ => h.accessFault ea

def execVld (v : VRegNo) (a : XReg) (t : Tag) (disp : BitVec 20) (nr : BitVec 4) (s : State) : Out :=
  issue s fun m h =>
    let n := nr.toNat + 1
    transfer h (h.vea a disp) (256 * n) (kibs n) true fun off late g =>
      let data := dataAt m (spadKey (coreOf h.cur) off) (256 * n)
      (List.range (kibs n)).foldl (fun (g : Hw) q =>
        g.later (3 + q + late) (.v h.cur v data (rowsMask (4 * q) (kibRows n q)) (if q = 0 then some t else none))) g

def execVst (v : VRegNo) (a : XReg) (disp : BitVec 20) (nr : BitVec 4) (s : State) : Out :=
  issue s fun _ h =>
    let n := nr.toNat + 1
    let c := coreOf h.cur
    let p := clusterOf h.cur
    transfer h (h.vea a disp) (256 * n) (kibs n) false fun off _ g =>
      (List.range (kibs n)).foldl (fun (g : Hw) j =>
        if j = 0 then g.later 3 (.store c p off (regBytes (h.vreg v).data 0 (256 * kibRows n 0)))
        else g.later j (.vstRead h.cur v j c p (off + 1024 * j) (256 * kibRows n j))) g

def execKld (k : KRegNo) (a : XReg) (disp : BitVec 20) (s : State) : Out :=
  issue s fun m h =>
    transfer h (h.vea a disp) 128 1 true fun off late g =>
      g.landK k (BitVec.ofNat 1024 (Memory.readNat m (spadKey (coreOf h.cur) off) 128)) (3 + late)
def execKst (k : KRegNo) (a : XReg) (disp : BitVec 20) (s : State) : Out :=
  issue s fun _ h =>
    transfer h (h.vea a disp) 128 1 false fun off _ g =>
      g.later 3 (.store (coreOf h.cur) (clusterOf h.cur) off (leBytes 128 (h.kreg k).toNat))
def execBld (c : BRegNo) (a : XReg) (disp : BitVec 20) (s : State) : Out :=
  issue s fun m h =>
    transfer h (h.vea a disp) 1024 1 true fun off late g =>
      g.later (3 + late) (.b h.cur c (BitVec.ofNat 8192 (Memory.readNat m (spadKey (coreOf h.cur) off) 1024)) (BitVec.allOnes 1024))
def execBst (c : BRegNo) (a : XReg) (disp : BitVec 20) (s : State) : Out :=
  issue s fun _ h =>
    transfer h (h.vea a disp) 1024 1 false fun off _ g =>
      g.later 3 (.store (coreOf h.cur) (clusterOf h.cur) off (leBytes 1024 (h.breg c).toNat))

/-! ### Global transfers of a register (R203) -/

/-- The checks of R175 in its order, with an alignment of 64 bytes that raises the access fault. Where the test for an occupied
path stands among them the manual leaves open: it is made after the alignment and before the token's count
(DESIGN CHOICE, notes/assumptions/78.md). -/
def Hw.globalV (h : Hw) (va : W64) (need : Need) (tok : Fin 8) (occ : Nat) (op : UntimedOp) : Hw :=
  match (h.die (slotOf h.cur)).pieces va.toNat 4096 need false with
  | .error c => h.translationTrap c va
  | .ok ps =>
    if va.toNat % 64 ≠ 0 then h.accessFault va
    else if h.gpathBusy then h.occupied (h.stuck h.st.units.gpath)
    else if h.tokenFull tok then h.block (0xFFF0 + tok.val)
    else
      (((h.takeGpath occ).updDie (slotOf h.cur) fun d => d.touch va.toNat 4096).launchUntimed tok op va.toNat ps).advance

def execVldg (v : VRegNo) (a : XReg) (t : Tag) (disp : BitVec 24) (tok : BitVec 3) (s : State) : Out :=
  issue s fun _ h => h.globalV (h.rx a + sext 24 disp) .read (tokOf tok) 1 (.vload v t)
def execVstg (v : VRegNo) (a : XReg) (disp : BitVec 24) (tok : BitVec 3) (s : State) : Out :=
  issue s fun _ h =>
    h.globalV (h.rx a + sext 24 disp) .write (tokOf tok) 4 (.store (regBytes (h.vreg v).data 0 4096))

/-! ### Moves and element access (R204) -/

/-- A slot-for-slot result under a tag, two ticks. -/
def Hw.vslots (h : Hw) (d : VRegNo) (data : BitVec 32768) (mask : BitVec 1024) (tag : Tag) : Hw :=
  ((h.takeVec 4).landV d data (writeMask mask (elemWidth tag)) tag 2).advance

def execVmov (d a : VRegNo) (c : Option KRegNo) (s : State) : Out :=
  issue s fun _ h =>
    if h.vecBusy then h.occupied (h.stuck h.st.units.vec) else h.vslots d (h.vreg a).data (h.mask c) (h.vreg a).tag

def execVsel (d a b : VRegNo) (k : Option KRegNo) (s : State) : Out :=
  issue s fun _ h =>
    match h.tagCheck anyTag [a, b] with
    | some r => h.formatFault r.val
    | none =>
      if h.vecBusy then h.occupied (h.stuck h.st.units.vec)
      else ((h.takeVec 4).landV d (merge (h.vreg b).data (h.vreg a).data (h.mask k)) allSlotsMask (h.vreg a).tag 2).advance

def execVsplat (v : VRegNo) (a : XReg) (t : Tag) (s : State) : Out :=
  issue s fun _ h =>
    if h.vecBusy then h.occupied (h.stuck h.st.units.vec)
    else h.vslots v (genReg (elemWidth t) fun _ => (h.rx a).toNat) allSlotsMask t

/-- Slot or element number that xb names under a tag, and its width. -/
def elemNo (t : Tag) (x : W64) : Nat × Nat := if wide t then (64, x.toNat % 512) else (32, x.toNat % 1024)

def execVins (v : VRegNo) (a b : XReg) (s : State) : Out :=
  issue s fun _ h =>
    if h.vecBusy then h.occupied (h.stuck h.st.units.vec)
    else
      let w := (elemNo (h.vreg v).tag (h.rx b)).1
      let n := (elemNo (h.vreg v).tag (h.rx b)).2
      let data : BitVec 32768 := BitVec.ofNat 32768 ((h.rx a).toNat % 2 ^ w) <<< (w * n)
      let mask : BitVec 1024 := if w = 64 then 3 <<< (2 * n) else 1 <<< n
      ((h.takeVec 1).later 2 (.v h.cur v data mask none)).advance

def execVext (v : VRegNo) (a b : XReg) (s : State) : Out :=
  issue s fun _ h =>
    if h.vecBusy then h.occupied (h.stuck h.st.units.vec)
    else
      let e := elemNo (h.vreg v).tag (h.rx b)
      ((h.takeVec 1).landX a (BitVec.ofNat 64 (elemAt (h.vreg v).data e.1 e.2)) 2).advance

/-! ### Bitwise operations and shifts (R205) -/

def vbit (f : BitVec 32768 → BitVec 32768 → BitVec 32768) (d a b : VRegNo) (c : Option KRegNo) (s : State) : Out :=
  issue s fun _ h =>
    if h.vecBusy then h.occupied (h.stuck h.st.units.vec)
    else h.vslots d (f (h.vreg a).data (h.vreg b).data) (h.mask c) (h.vreg a).tag

def execVand (d a b : VRegNo) (c : Option KRegNo) (s : State) : Out := vbit (fun x y => x &&& y) d a b c s
def execVor (d a b : VRegNo) (c : Option KRegNo) (s : State) : Out := vbit (fun x y => x ||| y) d a b c s
def execVxor (d a b : VRegNo) (c : Option KRegNo) (s : State) : Out := vbit (fun x y => x ^^^ y) d a b c s
def execVnot (d a : VRegNo) (c : Option KRegNo) (s : State) : Out := vbit (fun x _ => ~~~x) d a a c s

def isShiftTag (t : Tag) : Bool := isIntTag t || t == tNONE

/-- A shift of elements of w bits by the low log2(w) bits of the other element. -/
def vshift (f : Nat → Nat → Nat → Nat) (d a b : VRegNo) (c : Option KRegNo) (s : State) : Out :=
  issue s fun _ h =>
    match h.tagCheck isShiftTag [a, b] with
    | some r => h.formatFault r.val
    | none =>
      if h.vecBusy then h.occupied (h.stuck h.st.units.vec)
      else
        let w := elemWidth (h.vreg a).tag
        h.vslots d (genReg w fun n => f w ((h.vreg a).elem n) ((h.vreg b).elem n % w)) (h.mask c) (h.vreg a).tag

def execVsll (d a b : VRegNo) (c : Option KRegNo) (s : State) : Out := vshift (fun w x n => x * 2 ^ n % 2 ^ w) d a b c s
def execVsrl (d a b : VRegNo) (c : Option KRegNo) (s : State) : Out := vshift (fun _ x n => x / 2 ^ n) d a b c s
def execVsra (d a b : VRegNo) (c : Option KRegNo) (s : State) : Out :=
  vshift (fun w x n => intBits w (bitsInt w true x / ((2 ^ n : Nat) : Int))) d a b c s

/-! ### Floating-point arithmetic (R206, R207) -/

/-- An operation of major 0x08: its exact result from va, vb and vd, and the shadow's result with the terms that enter it
(R409). -/
structure FpOp where
  exact : RMode → FVal → FVal → FVal → Exact
  /-- the same, truncating at every step -/
  coarse : FVal → FVal → FVal → Exact
  terms : FVal → FVal → FVal → List FVal
  /-- lined in FULL and EFFICIENT, and in GUARD -/
  linedFull : Bool
  slow : Bool

/-- Whether a lined path compares in the power mode in force. -/
def Hw.liningOn (h : Hw) (full : Bool) : Bool := full || h.pkg.mode == .guarded

/-- vmin and vmax are not lined, and no 64-bit result is. -/
def FpOp.lined (o : FpOp) (h : Hw) (big : Bool) : Bool := (o.linedFull || (o.slow && h.liningOn false)) && !big

/-- A member of major 0x08 on the registers that it reads. -/
def vfp (o : FpOp) (d : VRegNo) (a b c : VRegNo) (rs : List VRegNo) (k : Option KRegNo) (p : Option Prefix) (s : State) : Out :=
  issue s fun _ h =>
    match h.tagCheck isFpTag rs with
    | some r => h.formatFault r.val
    | none =>
      if h.vecBusy then h.occupied (h.stuck h.st.units.vec)
      else
        let tag := (h.vreg a).tag
        let f := (fmtOf tag).getD b32
        let big := wide tag
        let m := h.mods p
        let us := drawsIf m (perReg tag) h.st.srseed.toNat
        let val := fun (r : VRegNo) n => f.unpack ((h.vreg r).elem n)
        let xs := elemsFrom (perReg tag) 0 us.1 fun n u => f.finish false m u (o.exact m.mode (val a n) (val b n) (val c n))
        let shadow := fun n =>
          let x := (val a n).coarse
          let y := (val b n).coarse
          let z := (val c n).coarse
          shadowOf m (o.coarse x y z) (o.terms x y z)
        let lat := if o.slow then (if big then 40 else 20) else (if big then 10 else 4)
        let occ := if o.slow then (if big then 32 else 16) else (if big then 8 else 4)
        h.vlined us.2 (o.lined h big) f shadow d (h.mask k) tag lat occ xs

def opAdd : FpOp := ⟨fun m a b _ => exAdd m a b, fun a b _ => exAdd .rtz a b, fun a b _ => [a, b], true, false⟩
def opSub : FpOp := ⟨fun m a b _ => exAdd m a b.neg, fun a b _ => exAdd .rtz a b.neg, fun a b _ => [a, b], true, false⟩
def opMul : FpOp := ⟨fun _ a b _ => exMul a b, fun a b _ => exMul a b, fun a b _ => [a, b, (exMul a b).v], true, false⟩
def opFma : FpOp :=
  ⟨fun m a b c => exFma m a b c, fun a b c => exAdd .rtz (exMul a b).v.coarse c, fun a b c => [a, b, c, (exMul a b).v],
   true, false⟩
def opFms : FpOp :=
  ⟨fun m a b c => exFma m a.neg b c, fun a b c => exAdd .rtz (exMul a.neg b).v.coarse c,
   fun a b c => [a, b, c, (exMul a b).v], true, false⟩
def opMinMax (max : Bool) : FpOp :=
  ⟨fun _ a b _ => exMinMax max a b, fun a b _ => exMinMax max a b, fun a b _ => [a, b], false, false⟩
def opDiv : FpOp := ⟨fun _ a b _ => exDiv a b, fun a b _ => exDiv a b, fun a b _ => [a, b], false, true⟩
def opSqrt : FpOp := ⟨fun _ a _ _ => exSqrt a, fun a _ _ => exSqrt a, fun a _ _ => [a], false, true⟩
def opRsqrt : FpOp := ⟨fun _ a _ _ => exRsqrt a, fun a _ _ => exRsqrt a, fun a _ _ => [a], false, true⟩

def execVadd (d a b : VRegNo) (c : Option KRegNo) (p : Option Prefix) (s : State) : Out := vfp opAdd d a b d [a, b] c p s
def execVsub (d a b : VRegNo) (c : Option KRegNo) (p : Option Prefix) (s : State) : Out := vfp opSub d a b d [a, b] c p s
def execVmul (d a b : VRegNo) (c : Option KRegNo) (p : Option Prefix) (s : State) : Out := vfp opMul d a b d [a, b] c p s
def execVfma (d a b : VRegNo) (c : Option KRegNo) (p : Option Prefix) (s : State) : Out := vfp opFma d a b d [a, b, d] c p s
def execVfms (d a b : VRegNo) (c : Option KRegNo) (p : Option Prefix) (s : State) : Out := vfp opFms d a b d [a, b, d] c p s
def execVmin (d a b : VRegNo) (c : Option KRegNo) (p : Option Prefix) (s : State) : Out :=
  vfp (opMinMax false) d a b d [a, b] c p s
def execVmax (d a b : VRegNo) (c : Option KRegNo) (p : Option Prefix) (s : State) : Out :=
  vfp (opMinMax true) d a b d [a, b] c p s
def execVdiv (d a b : VRegNo) (c : Option KRegNo) (p : Option Prefix) (s : State) : Out := vfp opDiv d a b d [a, b] c p s
def execVsqrt (d a : VRegNo) (c : Option KRegNo) (p : Option Prefix) (s : State) : Out := vfp opSqrt d a a d [a] c p s
def execVrsqrt (d a : VRegNo) (c : Option KRegNo) (p : Option Prefix) (s : State) : Out := vfp opRsqrt d a a d [a] c p s

/-! ### Integer arithmetic (R208) -/

/-- A member of major 0x09: its exact result from signed va, vb and vd (the width given). Wrapping it is the result
without a prefix. -/
def vint (f : Nat → Int → Int → Int → Int) (mul : Bool) (d a b : VRegNo) (rs : List VRegNo) (k : Option KRegNo)
    (p : Option Prefix) (s : State) : Out :=
  issue s fun _ h =>
    match h.tagCheck isIntTag rs with
    | some r => h.formatFault r.val
    | none =>
      if h.vecBusy then h.occupied (h.stuck h.st.units.vec)
      else
        let tag := (h.vreg a).tag
        let w := elemWidth tag
        let big := wide tag
        let val := fun (r : VRegNo) n => bitsInt w true ((h.vreg r).elem n)
        let xs := elemsFrom (perReg tag) 0 [] fun n _ =>
          finishInt (match p with | some q => q.sat | none => 0) w true (f w (val a n) (val b n) (val d n))
        h.vresult d w (h.mask k) tag (if big then 6 else if mul then 5 else 4) (if big then 8 else 4) xs

def iMin (x y : Int) : Int := if y < x then y else x
def iMax (x y : Int) : Int := if x < y then y else x
/-- The element that the unsigned comparison chooses, read as signed. -/
def iMinu (w : Nat) (x y : Int) : Int := if intBits w y < intBits w x then y else x
def iMaxu (w : Nat) (x y : Int) : Int := if intBits w x < intBits w y then y else x

def execViadd (d a b : VRegNo) (c : Option KRegNo) (p : Option Prefix) (s : State) : Out :=
  vint (fun _ x y _ => x + y) false d a b [a, b] c p s
def execVisub (d a b : VRegNo) (c : Option KRegNo) (p : Option Prefix) (s : State) : Out :=
  vint (fun _ x y _ => x - y) false d a b [a, b] c p s
def execVimul (d a b : VRegNo) (c : Option KRegNo) (p : Option Prefix) (s : State) : Out :=
  vint (fun _ x y _ => x * y) true d a b [a, b] c p s
def execVimad (d a b : VRegNo) (c : Option KRegNo) (p : Option Prefix) (s : State) : Out :=
  vint (fun _ x y z => x * y + z) true d a b [a, b, d] c p s
def execVimin (d a b : VRegNo) (c : Option KRegNo) (p : Option Prefix) (s : State) : Out :=
  vint (fun _ x y _ => iMin x y) false d a b [a, b] c p s
def execVimax (d a b : VRegNo) (c : Option KRegNo) (p : Option Prefix) (s : State) : Out :=
  vint (fun _ x y _ => iMax x y) false d a b [a, b] c p s
def execViminu (d a b : VRegNo) (c : Option KRegNo) (p : Option Prefix) (s : State) : Out :=
  vint (fun w x y _ => iMinu w x y) false d a b [a, b] c p s
def execVimaxu (d a b : VRegNo) (c : Option KRegNo) (p : Option Prefix) (s : State) : Out :=
  vint (fun w x y _ => iMaxu w x y) false d a b [a, b] c p s
def execViabs (d a : VRegNo) (c : Option KRegNo) (p : Option Prefix) (s : State) : Out :=
  vint (fun _ x _ _ => (x.natAbs : Int)) false d a a [a] c p s

/-! ### Compares (R209) -/

def isCmpTag (t : Tag) : Bool := t == tF32 || t == tI32 || t == tF64 || t == tI64

/-- The outcome of a compare of two elements, from −1, 0, 1 for less, equal, greater, and its flag. `quiet`: only a
signalling NaN raises NV. -/
def cmpElem (t : Tag) (f : Int → Bool) (ne quiet : Bool) (x y : Nat) : Bool × FlagBits :=
  match fmtOf t with
  | none =>
    let u := bitsInt (elemWidth t) true x
    let v := bitsInt (elemWidth t) true y
    (f (if u < v then -1 else if u = v then 0 else 1), 0)
  | some g =>
    let u := g.unpack x
    let v := g.unpack y
    if u.isNan ∨ v.isNan then (ne, if !quiet || u.isSnan || v.isSnan then fNV else 0)
    else (f (fcmp u v), 0)

def vcmp (f : Int → Bool) (ne quiet : Bool) (k : KRegNo) (a b : VRegNo) (c : Option KRegNo) (s : State) : Out :=
  issue s fun _ h =>
    match h.tagCheck isCmpTag [a, b] with
    | some r => h.formatFault r.val
    | none =>
      if h.vecBusy then h.occupied (h.stuck h.st.units.vec)
      else
        let tag := (h.vreg a).tag
        let w := elemWidth tag
        let mask := h.mask c
        let xs := elemsFrom (perReg tag) 0 [] fun n _ =>
          let r := cmpElem tag f ne quiet ((h.vreg a).elem n) ((h.vreg b).elem n)
          (if r.1 && elemOn mask w n then 3 else 0, r.2)
        let bits := BitVec.ofNat 1024 (packNat (w / 32) (xs.map (·.1)))
        (((h.takeVec (if w = 64 then 8 else 4)).landK k bits 3).landFlags (flagsOf mask w 0 xs) 3).advance

def execVceq (k : KRegNo) (a b : VRegNo) (c : Option KRegNo) (s : State) : Out := vcmp (fun r => r == 0) false true k a b c s
def execVcne (k : KRegNo) (a b : VRegNo) (c : Option KRegNo) (s : State) : Out := vcmp (fun r => r != 0) true true k a b c s
def execVclt (k : KRegNo) (a b : VRegNo) (c : Option KRegNo) (s : State) : Out :=
  vcmp (fun r => decide (r < 0)) false false k a b c s
def execVcle (k : KRegNo) (a b : VRegNo) (c : Option KRegNo) (s : State) : Out :=
  vcmp (fun r => decide (r ≤ 0)) false false k a b c s
def execVcgt (k : KRegNo) (a b : VRegNo) (c : Option KRegNo) (s : State) : Out :=
  vcmp (fun r => decide (0 < r)) false false k a b c s
def execVcge (k : KRegNo) (a b : VRegNo) (c : Option KRegNo) (s : State) : Out :=
  vcmp (fun r => decide (0 ≤ r)) false false k a b c s

/-! ### Mask registers (R210) -/

def kop (f : BitVec 1024 → BitVec 1024 → BitVec 1024) (d a b : KRegNo) (s : State) : Out :=
  issue s fun _ h =>
    if h.maskBusy then h.occupied (h.stuck h.st.units.mask) else (h.takeMask.landK d (f (h.kreg a) (h.kreg b)) 1).advance
def execKand (d a b : KRegNo) (s : State) : Out := kop (fun x y => x &&& y) d a b s
def execKor (d a b : KRegNo) (s : State) : Out := kop (fun x y => x ||| y) d a b s
def execKxor (d a b : KRegNo) (s : State) : Out := kop (fun x y => x ^^^ y) d a b s
def execKnot (d a : KRegNo) (s : State) : Out := kop (fun x _ => ~~~x) d a a s

def kcount (f : Nat → Nat) (k : KRegNo) (d : XReg) (s : State) : Out :=
  issue s fun _ h =>
    if h.maskBusy then h.occupied (h.stuck h.st.units.mask) else (h.takeMask.landX d (BitVec.ofNat 64 (f (h.kreg k).toNat)) 2).advance
def execKpop (k : KRegNo) (d : XReg) (s : State) : Out := kcount (countBits 1024) k d s
def execKffs (k : KRegNo) (d : XReg) (s : State) : Out := kcount (trailing 1024) k d s

/-! ### Conversion (R211-R213) -/

def isCvtTag (t : Tag) : Bool := isIntTag t || isFpTag t || t == tE4 || t == tE5

/-- An integer value after ABS, NEG and SCALE, rounded to an integer, then narrowed (R213). -/
def intToInt (m : Mods) (u : Nat) (w : Nat) (sgn : Bool) (v : Int) : Nat × FlagBits :=
  match ((ofInt v).modify m).v with
  | .fin s k e =>
    let r := roundTo m.mode s k e false 0 u
    let t := finishInt m.sat w sgn (signed s r.1)
    (t.1, t.2 ||| (if r.2 then fNX else 0))
  | _ => (0, 0)

/-- A float to an integer under the modifiers (R69, R67): the range check of R69 makes SAT 000 and 001 alike. -/
def floatToInt (m : Mods) (u : Nat) (w : Nat) (sgn : Bool) (x : Exact) : Nat × FlagBits :=
  let r := toInt m.mode u w sgn (x.modify m)
  let t := satInt m.sat w sgn r.1
  (intBits w t, r.2 ||| (if t = r.1 then 0 else fSAT))

/-- conv() of R213 for one element. -/
def convElem (src dst : Tag) (ovf sgn : Bool) (m : Mods) (u x : Nat) : Nat × FlagBits :=
  match fmtOf src, fmtOf dst with
  | some f, some g => g.finish ovf m u { v := f.unpack x, flags := (f.unpack x).snanFlag }
  | some f, none => floatToInt m u (elemWidth dst) sgn { v := f.unpack x }
  | none, some g => g.finish ovf m u (ofInt (bitsInt (elemWidth src) sgn x))
  | none, none => intToInt m u (elemWidth dst) sgn (bitsInt (elemWidth src) sgn x)

/-- Source and destination element of the n-th written element (R212). -/
def cvtPlace (ns nd hh n : Nat) : Nat × Nat :=
  if ns ≤ nd then (n, n / ns * nd + hh * ns + n % ns) else (n / nd * ns + hh * nd + n % nd, n)

def execVcvt (d a : VRegNo) (t : Tag) (o g : Bool) (hh : BitVec 4) (p : Option Prefix) (s : State) : Out :=
  issue s fun _ h =>
    let src := (h.vreg a).tag
    if isCvtTag src = false then h.formatFault a.val
    else
      let ns := perRow src
      let nd := perRow t
      if (g && !isIntTag src && !isIntTag t) ∨ Nat.max ns nd / Nat.min ns nd ≤ hh.toNat then h.fault Cause.reserved
      else if h.vecBusy then h.occupied (h.stuck h.st.units.vec)
      else
        let big := wide src || wide t
        let lat := if big then 8 else 6
        let occ := if big then 8 else 4
        let m := h.mods p
        let k := Nat.min ns nd
        let us := drawsIf m (16 * k) h.st.srseed.toNat
        let xs := elemsFrom (16 * k) 0 us.1 fun n u => convElem src t o g m u ((h.vreg a).elem (cvtPlace ns nd hh.toNat n).1)
        let old := (h.vreg d).data
        let w := elemWidth t
        -- the elements of every row in order: the written ones from xs, the others as they stand
        let place := fun e =>
          let i := e / nd
          let c := e % nd
          if ns ≤ nd then (if hh.toNat * ns ≤ c ∧ c < hh.toNat * ns + ns then some (i * ns + (c - hh.toNat * ns)) else none)
          else some e
        let vals := (xs.map (·.1)).toArray
        let mask := BitVec.ofNat 1024 (packNat 1 ((List.range 1024).map fun n =>
          match place (n * 32 / w) with | some _ => 1 | none => 0))
        let data := genReg w fun e => match place e with | some n => vals.getD n 0 | none => elemAt old w e
        let fl := xs.foldr (fun x acc => x.2 ||| acc) 0
        let h1 := h.setSeed us.2
        let land := fun (h : Hw) (data : BitVec 32768) => (((h.takeVec occ).landV d data mask t lat).landFlags fl lat).advance
        match h.st.upset, fmtOf t with
        | some (slot, bits), some f =>
          if h.liningOn false = false ∨ wide t ∨ maskBit mask slot = false then land h1 data
          else
            let bad := data ^^^ (bits.setWidth 32768 <<< (32 * slot))
            let n := 32 / w
            let h2 := h.upd fun st => { st with upset := none }
            let sv := fun e =>
              match place e, fmtOf src with
              | some i, some fs => (fs.unpack ((h.vreg a).elem (cvtPlace ns nd hh.toNat i).1)).coarse
              | some i, none =>
                (ofInt (bitsInt (elemWidth src) g ((h.vreg a).elem (cvtPlace ns nd hh.toNat i).1))).v.coarse
              | none, _ => .fin false 0 0
            if (List.range n).any fun i =>
                diverges f (elemAt bad w (slot * n + i)) (shadowOf m { v := sv (slot * n + i) } [sv (slot * n + i)]).1
                  (shadowOf m { v := sv (slot * n + i) } [sv (slot * n + i)]).2 then
              ((h2.takeVec occ).later lat (.lining h.cur h.st.pc (d.val * 1024 + slot) [])).advance
            else land (h2.setSeed us.2) bad
        | _, _ => land h1 data

end Sys2Proof.Machine
end

