-- ==== Sys2Proof/Machine/Quant.lean ====
section
/-! DEFINITION. The FP4 tile and its checks (R56-R60), quantising and dequantising (R214-R218). -/
namespace Sys2Proof.Machine
open Sys2Proof

/-! ### Tiles (R57-R60) -/

/-- An E3M5 block scale in units of 2^(−7) (R57). -/
def scaleUnits (c : Nat) : Nat := if c < 32 then c else (32 + c % 32) * 2 ^ (c / 32 - 1)
def scaleVal (c : Nat) : FVal := .fin false (scaleUnits c) (-7)

/-- A tile header (R59). -/
structure TileHead where
  fmt : Nat
  capc : Nat
  count : Nat
  band : Nat
  zeros : Bool
  deriving DecidableEq, Repr

def tileHead (w : Nat) : TileHead :=
  { fmt := w % 256, capc := w / 2 ^ 8 % 256, count := w / 2 ^ 16 % 65536, band := w / 2 ^ 32 % 65536
    zeros := w / 2 ^ 49 == 0 }

def TileHead.cap (t : TileHead) : Nat := if t.capc = 1 then 32 else if t.capc = 2 then 64 else if t.capc = 3 then 128 else 0
/-- Positive, finite and normal in BF16. -/
def posNormal (b : Nat) : Bool := decide (0x0080 ≤ b) && decide (b < 0x7F80)
/-- R60 step 1. -/
def TileHead.ok (t : TileHead) : Bool :=
  t.fmt == 7 && decide (t.capc ≤ 3) && decide (t.count ≤ t.cap) && (t.band == 0 || posNormal t.band) && t.zeros

/-- A thimble entry (R59). -/
structure Thimble where
  val : Nat
  row : Nat
  col : Nat
  bit1 : Bool
  neg : Bool
  deriving DecidableEq, Repr

def thimbleOf (w : Nat) : Thimble :=
  { val := w / 65536, row := w / 1024 % 64, col := w / 4 % 256, bit1 := w / 2 % 2 == 1, neg := w % 2 == 1 }
def Thimble.pos (e : Thimble) : Nat := e.row * 256 + e.col
def Thimble.bits (e : Thimble) : Nat := e.val * 65536 + e.row * 1024 + e.col * 4 + e.neg.toNat
/-- R60 step 2. -/
def Thimble.ok (e : Thimble) : Bool := posNormal e.val && !e.bit1
def Thimble.value (e : Thimble) : FVal := if e.neg then (bf16.unpack e.val).neg else bf16.unpack e.val
def ascending (l : List Nat) : Bool :=
  match l with
  | a :: b :: t => decide (a < b) && ascending (b :: t)
  | _ => true

def thimblesAt (m : Memory) (key n : Nat) : List Thimble :=
  (List.range n).map fun k => thimbleOf (Memory.readNat m (key + 4 * k) 4)

/-! ### The quantiser parameter row (R215) -/

structure QParams where
  thr : Nat
  addr : Nat
  ovp : Bool
  part : Nat
  row0 : Nat
  scnt : Nat
  zeros : Bool
  deriving DecidableEq, Repr

/-- The parameters of row 0 of vb; slot 3 counts only for a vqnt with OVP = 1. -/
def qparams (v : VecReg) (quant : Bool) : QParams :=
  let c := v.slot 2
  let ovp := quant && c / 16 % 2 == 1
  { thr := v.slot 0, addr := v.slot 1 % 2 ^ 21, ovp := ovp, part := c / 2 % 8, row0 := 32 * (c % 2)
    scnt := v.slot 3 % 2 ^ 21
    zeros := v.slot 1 / 2 ^ 21 == 0 && c / 32 == 0 && (!ovp || v.slot 3 / 2 ^ 21 == 0) }

/-- The access fault of a parameter row, the tile's CAP entries left out. -/
def QParams.bad (q : QParams) (w : Nat) : Bool :=
  !q.zeros || q.addr % 64 != 0 || decide (Config.spadSize < q.addr + 10304) || decide (64 ≤ q.part * w) ||
    (q.ovp && q.scnt % 4 != 0)

def isQuantTag (t : Tag) : Bool := t == tF32 || t == tB16 || t == tH16
def isParamTag (t : Tag) : Bool := t == tI32 || t == tNONE

/-- The format fault of a tile header: no register is at fault, and the manual gives no INFO for it, so INFO is free
(notes/assumptions/35.md). -/
def Hw.tileFault (h : Hw) : Hw := h.used.trap { cause := Cause.format, info := h.freeVal }
def Hw.thimbleFault (h : Hw) (step : Nat) : Hw := h.trap { cause := Cause.thimble, info := step }

/-- The checks that vqnt and vdqnt share: parameters, units, the header. `f` goes on with the header. The units are tested
before the sampled data, the CAP range and the header (DESIGN CHOICE, notes/assumptions/78.md); STVAL of the access fault is TADDR whichever
check fails, SCNT, PART and the must-be-zero bits included (DESIGN CHOICE, notes/assumptions/79.md). -/
def quantChecks (m : Memory) (h : Hw) (q : QParams) (w : Nat) (f : TileHead → Nat → Hw) : Hw :=
  let key := spadKey (coreOf h.cur) q.addr
  if q.bad w then h.accessFault (BitVec.ofNat 64 q.addr)
  else
    let hd := tileHead (Memory.readNat m key 64)
    if h.vecBusy ∨ h.portBusy then h.occupied (h.stuck h.st.units.port)
    else if h.badSpad q.addr 64 then h.uncorrectable q.addr 64
    else if hd.capc ≤ 3 ∧ Config.spadSize < q.addr + 10304 + 4 * hd.cap then h.accessFault (BitVec.ofNat 64 q.addr)
    else if hd.ok = false then h.tileFault
    else f hd key

/-! ### vqnt (R216, R217) -/

/-- What the elections of a vqnt have gathered. -/
structure QState where
  cnt : Nat
  new : List Thimble := []
  nsat : Nat := 0
  first : Option Nat := none
  flags : FlagBits := 0
  slots : List Nat := []
  scales : List Nat := []

def absVal : FVal → FVal
  | .fin _ m e => .fin false m e | .inf _ => .inf false | v => v

/-- Whether an element is elected. -/
def elected (thr : FVal) (x : FVal) : Bool :=
  match x with
  | .fin _ _ _ => !thr.isNan && decide (0 ≤ fcmp (absVal x) thr) && decide (0 ≤ fcmp (absVal x) (.fin false 1 (-126)))
  | _ => false

/-- The largest magnitude of those not elected. -/
def maxAbs (xs : List (FVal × Bool)) : FVal :=
  xs.foldl (fun a x => if x.2 || x.1.isNan then a else if fcmp a (absVal x.1) < 0 then absVal x.1 else a) (.fin false 0 0)

/-- The smallest E3M5 code c from c0 on, of k, with 6 × value(c) ≥ m; 0xFF when none is. -/
def scaleFor (k c : Nat) (m : FVal) : Nat :=
  match k with
  | 0 => 0xFF
  | k + 1 => if 0 ≤ fcmp (.fin false (6 * scaleUnits c) (-7)) m then c else scaleFor k (c + 1) m

/-- The thimble entry of an elected element: VAL rounds to BF16 by RNE; infinity becomes 0x7F7F and sets OF
(notes/assumptions/34.md). -/
def electEntry (row col : Nat) (x : FVal) : Thimble × FlagBits :=
  match x with
  | .fin s m e =>
    let r := bf16.roundFin false .rne 0 false m e false
    if r.1 = 0x7F80 then ({ val := 0x7F7F, row := row, col := col, bit1 := false, neg := s }, fOF)
    else ({ val := r.1, row := row, col := col, bit1 := false, neg := s }, 0)
  | _ => ({ val := 0, row := row, col := col, bit1 := false, neg := false }, 0)

/-- One element of a block: its code. -/
def quantElem (mode : RMode) (cap row col s : Nat) (x : FVal) (el : Bool) (u : Nat) (q : QState) : QState × Nat :=
  if el then
    if q.cnt < cap then
      let e := electEntry row col x
      let first := match q.first with | none => some (row * 256 + col) | some p => some p
      ({ q with first := first, cnt := q.cnt + 1, new := q.new ++ [e.1], flags := q.flags ||| e.2 }, 8)
    else ({ q with nsat := q.nsat + 1 }, if x.sign then 0xF else 7)
  else if s = 0 then ({ q with flags := q.flags ||| (if x.isNan then fNV else 0) }, 0)
  else
    let r := e2m1.deliver false mode u (exDiv x (scaleVal s))
    ({ q with flags := q.flags ||| r.2 }, r.1)

/-- The elements of a block in order. -/
def quantElems (mode : RMode) (cap row col s : Nat) (xs : List (FVal × Bool)) (us : List Nat) (e : Nat) (q : QState) :
    QState × Nat :=
  match xs with
  | [] => (q, 0)
  | (x, el) :: t =>
    let r := quantElem mode cap row (col + e) s x el (us.headD 0) q
    let r2 := quantElems mode cap row col s t us.tail (e + 1) r.1
    (r2.1, r.2 + 16 * r2.2)

/-- Block (i, j) of the source. -/
def quantBlock (mo : Mods) (f : FloatFmt) (v : VecReg) (thr : FVal) (cap row0 wp w : Nat) (us : List Nat) (q : QState)
    (b : Nat) : QState :=
  let i := b / w
  let j := wp + b % w
  let xs := (List.range 8).map fun e =>
    let x := (({ v := f.unpack (v.elem (i * 8 * w + b % w * 8 + e)) } : Exact).modify mo).v
    (x, elected thr x)
  let s := scaleFor 256 0 (maxAbs xs)
  let r := quantElems mo.mode cap (row0 + 2 * i + j / 32) (8 * (j % 32)) s xs ((us.drop (8 * b)).take 8) 0 q
  { r.1 with slots := r.1.slots ++ [r.2], scales := r.1.scales ++ [s] }

/-- Slot (or byte) numbers of the blocks written, as a mask. -/
def blockMask (wp w : Nat) : BitVec 1024 :=
  BitVec.ofNat 1024 (packNat 64 ((List.range 16).map fun _ => (2 ^ w - 1) * 2 ^ wp))

/-- Values of the blocks, n bits each, at their places. -/
def blockData (n wp w : Nat) (xs : List Nat) : Nat :=
  packNat (64 * n) ((List.range 16).map fun i => packNat n ((xs.drop (i * w)).take w) * 2 ^ (n * wp))

/-- A draw for each element of the slots that vqnt writes, 128w; R217 names 64w positions of rows 0 to 15, where it describes
128w (R66; notes/assumptions/23.md). -/
def quantDraws (w : Nat) : Nat := 128 * w

def execVqnt (d a b : VRegNo) (c : BRegNo) (p : Option Prefix) (s : State) : Out :=
  issue s fun m h =>
    match h.badTag isQuantTag [a], h.badTag isParamTag [b] with
    | some r, _ => h.formatFault r.val
    | none, some r => h.formatFault r.val
    | none, none =>
      let v := h.vreg a
      let w := if v.tag = tF32 then 8 else 16
      let q := qparams (h.vreg b) true
      quantChecks m h q w fun hd key =>
        let last := q.addr + 10304 + 4 * (hd.count - 1)
        if hd.count ≠ 0 ∧ h.badSpad last 4 = true then h.uncorrectable last 4
        else
          let mo := h.mods p
          let us := drawsIf mo (quantDraws w) h.st.srseed.toNat
          let f := (fmtOf v.tag).getD b32
          let r := (List.range (16 * w)).foldl
            (quantBlock mo f v (b32.unpack q.thr) hd.cap q.row0 (w * q.part) w us.1) { cnt := hd.count }
          let prev := (thimbleOf (Memory.readNat m (key + 10304 + 4 * (hd.count - 1)) 4)).pos
          if hd.count ≠ 0 ∧ (match r.first with | some x => decide (x ≤ prev) | none => false) = true then h.thimbleFault 3
          else if q.ovp = false ∧ r.nsat ≠ 0 then h.trap { cause := Cause.thimbleOver, info := r.nsat }
          else
            let core := coreOf h.cur
            let port := clusterOf h.cur
            let wp := w * q.part
            let r1 := h.correctBoth q.addr 64 last (if hd.count = 0 then 0 else 4) 8
            let h1 := ((r1.1.setSeed us.2).takeVec 4).takePort 2
            let lat := 8 + r1.2
            let h2 := h1.landV d (BitVec.ofNat 32768 (blockData 32 wp w r.slots)) (blockMask wp w) tF4 lat
            let h3 := h2.later lat (.b h.cur c (BitVec.ofNat 8192 (blockData 8 wp w r.scales)) (blockMask wp w))
            let h4 := h3.later lat (.store core port (q.addr + 10304 + 4 * hd.count) (r.new.flatMap fun e => leBytes 4 e.bits))
            let h5 := h4.later lat (.store core port (q.addr + 2) (leBytes 2 r.cnt))
            let h6 := if r.nsat = 0 then h5
              else (h5.later lat (.atomic core port (q.addr + 6) 1 .or 1 0 none)).later lat
                (.atomic core port q.scnt 4 .add (r.nsat % 2 ^ 32) 0 none)
            (h6.landFlags r.flags lat).advance

/-! ### vdqnt (R218) -/

/-- The value of element n of a register's row i, from its slot; none for an escape with no entry at its position. -/
def dequant (v : VecReg) (scales : BitVec 8192) (band : FVal) (es : List Thimble) (row0 wp n : Nat) : Option FVal :=
  let i := n / 64
  let e := n % 64
  let j := wp + e / 8
  let code := elemAt v.data 4 ((64 * i + j) * 8 + e % 8)
  if code = 8 then
    (es.find? fun t => t.row == row0 + 2 * i + j / 32 && t.col == 8 * (j % 32) + e % 8).map Thimble.value
  else
    let sc := (scales.extractLsb' (8 * (64 * i + j)) 8).toNat
    some (exMul (exMul band (scaleVal sc)).v (e2m1.unpack code)).v

def execVdqnt (d a b : VRegNo) (c : BRegNo) (p : Option Prefix) (s : State) : Out :=
  issue s fun m h =>
    match h.badTag (· == tF4) [a], h.badTag isParamTag [b] with
    | some r, _ => h.formatFault r.val
    | none, some r => h.formatFault r.val
    | none, none =>
      let q := qparams (h.vreg b) false
      quantChecks m h q 8 fun hd key =>
        let es := thimblesAt m (key + 10304) hd.count
        if h.badSpad (q.addr + 10304) (4 * hd.count) then h.uncorrectable (q.addr + 10304) (4 * hd.count)
        else if es.all Thimble.ok = false then h.thimbleFault 2
        else if ascending (es.map Thimble.pos) = false then h.thimbleFault 3
        else
          let mo := h.mods p
          let us := drawsIf mo 1024 h.st.srseed.toNat
          let vals := (List.range 1024).map (dequant (h.vreg a) (h.breg c) (bf16.unpack hd.band) es q.row0 (8 * q.part))
          if vals.any Option.isNone then h.thimbleFault 4
          else
            let arr := (vals.map fun x => x.getD (.fin false 0 0)).toArray
            let xs := elemsFrom 1024 0 us.1 fun n u => b32.finish false mo u { v := arr.getD n (.fin false 0 0) }
            let r1 := h.correctBoth q.addr 64 (q.addr + 10304) (4 * hd.count) 8
            ((r1.1.setSeed us.2).takePort 1).vresult d 32 allSlotsMask tF32 (8 + r1.2) 4 xs

end Sys2Proof.Machine
end

