-- ==== Sys2Proof/Machine/VShape.lean ====
section
/-! DEFINITION. Class V, shape: axis moves and reductions, table permute, partition, gather and scatter, compress and
expand (R74, R227-R232). -/
namespace Sys2Proof.Machine
open Sys2Proof

/-- A result made of whole slots, with a latency of its own. -/
def Hw.vshape (h : Hw) (d : VRegNo) (data : BitVec 32768) (mask : BitVec 1024) (tag : Tag) (lat : Nat) : Hw :=
  ((h.takeVec 4).landV d data mask tag lat).advance

/-! ### Axis moves (R227) -/

/-- A slot-for-slot move: slot n of vd is slot f tag n of va. -/
def vmoveBy (f : Tag → Nat → Nat) (lat : Nat) (d a : VRegNo) (s : State) : Out :=
  issue s fun _ h =>
    if h.vecBusy then h.occupied (h.stuck h.st.units.vec)
    else
      let v := h.vreg a
      h.vshape d (genReg 32 fun n => v.slot (f v.tag n)) allSlotsMask v.tag lat

def rotrSlot (k : Nat) (t : Tag) (n : Nat) : Nat := n / 64 * 64 + (n % 64 + (if wide t then 2 * k else k)) % 64
def bcrSlot (k : Nat) (t : Tag) (n : Nat) : Nat := n / 64 * 64 + (if wide t then 2 * (k % 32) + n % 2 else k)
def rotcSlot (k : Nat) (_ : Tag) (n : Nat) : Nat := (n / 64 + k) % 16 * 64 + n % 64
def bccSlot (k : Nat) (_ : Tag) (n : Nat) : Nat := k * 64 + n % 64

def execVrotr (d a : VRegNo) (n : BitVec 8) (s : State) : Out := vmoveBy (rotrSlot n.toNat) 2 d a s
def execVbcr (d a : VRegNo) (n : BitVec 8) (s : State) : Out := vmoveBy (bcrSlot n.toNat) 2 d a s
def execVrotc (d a : VRegNo) (n : BitVec 8) (s : State) : Out := vmoveBy (rotcSlot n.toNat) 4 d a s
def execVbcc (d a : VRegNo) (n : BitVec 8) (s : State) : Out := vmoveBy (bccSlot n.toNat) 3 d a s

/-! ### Reductions (R74, R228) -/

inductive Red where
  | sum | max | min
  deriving DecidableEq, Repr

/-- One level of a pairwise tree. -/
def pairUp {α : Type} (f : α → α → α) (xs : List α) : List α :=
  match xs with
  | a :: b :: t => f a b :: pairUp f t
  | _ => xs
/-- The tree, in at most k levels. -/
def pairTree {α : Type} (k : Nat) (f : α → α → α) (xs : List α) : List α :=
  match k with
  | 0 => xs
  | k + 1 => match xs with | _ :: _ :: _ => pairTree k f (pairUp f xs) | _ => xs

/-- A node of a floating-point tree: its code in format f and the flags so far. -/
def redNode (r : Red) (f : FloatFmt) (x y : Nat × FlagBits) : Nat × FlagBits :=
  let a := f.unpack x.1
  let b := f.unpack y.1
  let z := f.deliver false .rne 0 (match r with | .sum => exAdd .rne a b | .max => exMinMax true a b | .min => exMinMax false a b)
  (z.1, z.2 ||| (x.2 ||| y.2))

/-- The tree's result in format f. -/
def redFloat (r : Red) (f : FloatFmt) (xs : List (Nat × FlagBits)) : Nat × FlagBits :=
  (pairTree 10 (redNode r f) xs).headD (0, 0)

def redInt (r : Red) (xs : List Int) : Int :=
  (pairTree 10 (match r with | .sum => (· + ·) | .max => iMax | .min => iMin) xs).headD 0

/-- Element numbers of a row, or of a column of elements. -/
def axisElems (row : Bool) (per g : Nat) : List Nat :=
  if row then (List.range per).map fun e => g * per + e else (List.range 16).map fun i => i * per + g

def isRedTag (t : Tag) : Bool := isFpTag t || isIntTag t

/-- ABS, NEG and SAT on the exact result of an integer reduction; RND and SCALE are ignored (R228) (notes/assumptions/39.md). -/
def redFinish (m : Mods) (w : Nat) (x : Int) : Nat × FlagBits :=
  let y := if m.abs then (x.natAbs : Int) else x
  finishInt m.sat w true (if m.neg then -y else y)

/-- A member of majors 0x0F and 0x10, FN 2 to 4. -/
def vred (r : Red) (row : Bool) (d a : VRegNo) (c : Option KRegNo) (p : Option Prefix) (s : State) : Out :=
  issue s fun _ h =>
    match h.badTag isRedTag [a] with
    | some q => h.formatFault q.val
    | none =>
      if h.vecBusy then h.occupied (h.stuck h.st.units.vec)
      else
        let v := h.vreg a
        let tag := v.tag
        let w := elemWidth tag
        let per := perRow tag
        let mask := h.mask c
        let lat := if row then 7 else 5
        let groups := List.range (if row then 16 else per)
        let grp := fun n => if row then n / per else n % per
        match fmtOf tag with
        | none =>
          let m := match p with | none => ({} : Mods) | some _ => h.mods p
          let res := (groups.map fun g => redFinish m w (redInt r ((axisElems row per g).map fun n =>
            if elemOn mask w n then bitsInt w true (v.elem n) else 0))).toArray
          h.vresult d w allSlotsMask tag lat 4 (elemsFrom (perReg tag) 0 [] fun n _ => res.getD (grp n) (0, 0))
        | some f =>
          let m := h.mods p
          let tf := if tag = tF64 then b64 else b32
          let leaf := fun n => if elemOn mask w n then f.cvt tf false .rne 0 (v.elem n) else (0, 0)
          let res := (groups.map fun g => redFloat r tf ((axisElems row per g).map leaf)).toArray
          let us := drawsIf m (perReg tag) h.st.srseed.toNat
          let xs := elemsFrom (perReg tag) 0 us.1 fun n u =>
            let t := res.getD (grp n) (0, 0)
            let y := f.finish false m u { v := tf.unpack t.1 }
            (y.1, y.2 ||| t.2)
          let shadow := fun n =>
            let vs := (axisElems row per (grp n)).map fun e => if elemOn mask w e then (f.unpack (v.elem e)).coarse else .fin false 0 0
            shadowOf m { v := (pairTree 10 (fun x y => (exAdd .rtz x y).v.coarse) vs).headD (.fin false 0 0) } vs
          let lined := r == .sum && tag == tF32 && h.liningOn false
          h.vlined us.2 lined f shadow d allSlotsMask tag lat 4 xs

def execVsumr (d a : VRegNo) (c : Option KRegNo) (p : Option Prefix) (s : State) : Out := vred .sum true d a c p s
def execVmaxr (d a : VRegNo) (c : Option KRegNo) (p : Option Prefix) (s : State) : Out := vred .max true d a c p s
def execVminr (d a : VRegNo) (c : Option KRegNo) (p : Option Prefix) (s : State) : Out := vred .min true d a c p s
def execVsumc (d a : VRegNo) (c : Option KRegNo) (p : Option Prefix) (s : State) : Out := vred .sum false d a c p s
def execVmaxc (d a : VRegNo) (c : Option KRegNo) (p : Option Prefix) (s : State) : Out := vred .max false d a c p s
def execVminc (d a : VRegNo) (c : Option KRegNo) (p : Option Prefix) (s : State) : Out := vred .min false d a c p s

/-! ### Table permute (R229) -/

/-- Byte x of the table of row i in n registers from va on; the fill outside it. -/
def tableByte (h : Hw) (a : VRegNo) (n : Nat) (fill : Nat) (i x : Nat) : Nat :=
  if x < 256 * n then elemAt (h.vreg (Fin.ofNat 16 (a.val + x / 256))).data 8 (256 * i + x % 256) else fill

def execVtbl (d a b : VRegNo) (nm : BitVec 3) (half : Bool) (f : BitVec 4) (s : State) : Out :=
  issue s fun _ h =>
    match h.badTag (· == tI16) [b] with
    | some r => h.formatFault r.val
    | none =>
      if h.vecBusy then h.occupied (h.stuck h.st.units.vec)
      else
        let n := nm.toNat + 1
        let hf := if half then 1 else 0
        let row := fun i => packNat 8 ((List.range 128).map fun e =>
          tableByte h a n (f.toNat * 0x11) i ((h.vreg b).elem (128 * i + e))) * 2 ^ (1024 * hf)
        let data := BitVec.ofNat 32768 (packNat 2048 ((List.range 16).map row))
        let mask := BitVec.ofNat 1024 (packNat 64 ((List.range 16).map fun _ => (2 ^ 32 - 1) * 2 ^ (32 * hf)))
        h.vshape d data mask (h.vreg a).tag (4 + (n + 1) / 2)

/-! ### Partition, gather and scatter (R230, R231) -/

/-- The slots of an outcome in ascending order, 0xFFFF after them. -/
def listSlots (k : BitVec 1024) (on : Bool) : List Nat :=
  let xs := (List.range 1024).filter fun n => maskBit k n == on
  xs ++ List.replicate (1024 - xs.length) 0xFFFF

def execVpart (d : VRegNo) (x e : XReg) (k : KRegNo) (s : State) : Out :=
  issue s fun _ h =>
    if h.vecBusy then h.occupied (h.stuck h.st.units.vec)
    else
      let m := h.kreg k
      let c1 := countBits 1024 m.toNat
      let data := packReg 16 (listSlots m true ++ listSlots m false)
      let g := ((h.takeVec 4).landV d data allSlotsMask tI16 4).landX x (BitVec.ofNat 64 c1) 4
      (if x = e then g else g.landX e (BitVec.ofNat 64 (1024 - c1)) 4).advance

/-- Entry e of half h of an index list. -/
def indexAt (v : VecReg) (half : Bool) (e : Nat) : Nat := elemAt v.data 16 ((if half then 1024 else 0) + e)

def execVgath (d a b : VRegNo) (half : Bool) (s : State) : Out :=
  issue s fun _ h =>
    match h.badTag (· == tI16) [b] with
    | some r => h.formatFault r.val
    | none =>
      if h.vecBusy then h.occupied (h.stuck h.st.units.vec)
      else
        let data := genReg 32 fun e =>
          let x := indexAt (h.vreg b) half e
          if x < 1024 then (h.vreg a).slot x else 0
        h.vshape d data allSlotsMask (h.vreg a).tag 5

/-- The last entry of an index list that names slot n, if any does. -/
def lastNaming (v : VecReg) (half : Bool) (n : Nat) : Option Nat :=
  (List.range 1024).foldl (fun acc e => if indexAt v half e = n then some e else acc) none

def execVscat (d a b : VRegNo) (half : Bool) (s : State) : Out :=
  issue s fun _ h =>
    match h.badTag (· == tI16) [b] with
    | some r => h.formatFault r.val
    | none =>
      if h.vecBusy then h.occupied (h.stuck h.st.units.vec)
      else
        let src := (List.range 1024).map (lastNaming (h.vreg b) half)
        let mask := BitVec.ofNat 1024 (packNat 1 (src.map fun x => if x.isSome then 1 else 0))
        let data := packReg 32 (src.map fun x => match x with | some e => (h.vreg a).slot e | none => 0)
        h.vshape d data mask (h.vreg a).tag 5

/-! ### Compress and expand (R232) -/

/-- The units of a register and which are selected. -/
def units (v : VecReg) (mask : BitVec 1024) : List (Nat × Bool) :=
  let w := if wide v.tag then 64 else 32
  (List.range (32768 / w)).map fun n => (elemAt v.data w n, elemOn mask w n)

def compress (us : List (Nat × Bool)) (fill : Nat) : List Nat :=
  let xs := (us.filter (·.2)).map (·.1)
  xs ++ List.replicate (us.length - xs.length) fill

def expand (sel : List Bool) (xs : List Nat) (fill : Nat) : List Nat :=
  match sel with
  | [] => []
  | b :: t => if b then xs.headD 0 :: expand t xs.tail fill else fill :: expand t xs fill

def vpack (f : List (Nat × Bool) → Nat → List Nat) (d a : VRegNo) (fill : BitVec 4) (c : Option KRegNo) (s : State) : Out :=
  issue s fun _ h =>
    if h.vecBusy then h.occupied (h.stuck h.st.units.vec)
    else
      let v := h.vreg a
      let w := if wide v.tag then 64 else 32
      h.vshape d (packReg w (f (units v (h.mask c)) (fill.toNat * 0x1111111111111111 % 2 ^ w))) allSlotsMask v.tag 5

def execVcomp (d a : VRegNo) (f : BitVec 4) (c : Option KRegNo) (s : State) : Out := vpack compress d a f c s
def execVexpd (d a : VRegNo) (f : BitVec 4) (c : Option KRegNo) (s : State) : Out :=
  vpack (fun us fill => expand (us.map (·.2)) (us.map (·.1)) fill) d a f c s

end Sys2Proof.Machine
end

