-- ==== Sys2Proof/Machine/KStep.lean ====
section
/-! DEFINITION. The K-step of the matrix arrays to the bit (R74-R78), the tile checks of R60, and the helper sums of the
latent modes (R259). -/
namespace Sys2Proof.Machine
open Sys2Proof

/-! ### The extended format (R75, R77) -/

/-- ±q × 2^e, with bit w − 1 of q set unless q is zero, for a significand of w bits. -/
structure XVal where
  s : Bool
  q : Nat
  e : Int
  deriving DecidableEq, Repr

/-- An exact value in the extended format; a wider significand is truncated. -/
def xnorm (w : Nat) (s : Bool) (m : Nat) (e : Int) : XVal :=
  let n := bitLen m
  if m = 0 then ⟨s, 0, 0⟩
  else if n ≤ w then ⟨s, m * 2 ^ (w - n), e - ((w - n : Nat) : Int)⟩
  else ⟨s, m / 2 ^ (n - w), e + ((n - w : Nat) : Int)⟩

def xadd (w : Nat) (a b : XVal) : XVal :=
  if a.q = 0 ∧ b.q = 0 then ⟨a.s && b.s, 0, 0⟩
  else if a.q = 0 then b
  else if b.q = 0 then a
  else
    let e := if a.e < b.e then b.e else a.e
    let x := a.q / 2 ^ (e - a.e).toNat
    let y := b.q / 2 ^ (e - b.e).toNat
    if a.s = b.s then xnorm w a.s (x + y) e
    else if x = y then ⟨false, 0, 0⟩
    else if y < x then xnorm w a.s (x - y) e
    else xnorm w b.s (y - x) e

/-- An extended value times a finite one, truncated to w bits. -/
def xmul (w : Nat) (a : XVal) (v : FVal) : XVal :=
  match v with
  | .fin s m e => xnorm w (a.s != s) (a.q * m) (a.e + e)
  | _ => a

def xof (w : Nat) (v : FVal) : XVal := match v with | .fin s m e => xnorm w s m e | _ => ⟨false, 0, 0⟩

/-- The sum of a list by the pairwise tree. -/
def xtree (w : Nat) (xs : List XVal) : XVal := (pairTree 10 (xadd w) xs).headD ⟨false, 0, 0⟩

/-! ### Special values (R76) -/

/-- What the special products of a sum amount to: nothing, a NaN, or an infinity of one sign; and NV. -/
structure Special where
  nan : Bool := false
  pos : Bool := false
  neg : Bool := false
  flags : FlagBits := 0
  deriving DecidableEq, Repr

def Special.add (p : Special) (a b : FVal) : Special :=
  let x := exMul a b
  let p := { p with flags := p.flags ||| x.flags }
  match x.v with
  | .nan _ => { p with nan := true }
  | .inf s => if s then { p with neg := true } else { p with pos := true }
  | .fin _ _ _ => p

def specialOf (ps : List (FVal × FVal)) : Special := ps.foldl (fun p x => p.add x.1 x.2) {}
/-- NV for infinities of both signs, whatever stands beside them. -/
def Special.nv (p : Special) : FlagBits := p.flags ||| (if p.pos && p.neg then fNV else 0)
def Special.value (p : Special) : Option FVal :=
  if p.nan || (p.pos && p.neg) then some (.nan false) else if p.pos then some (.inf false)
  else if p.neg then some (.inf true) else none

/-- A sum, rounded once by RNE to a format; a special value in its place. -/
def roundSum (f : FloatFmt) (p : Special) (t : XVal) : Nat × FlagBits :=
  let r := f.deliver false .rne 0 { v := match p.value with | some v => v | none => .fin t.s t.q t.e }
  (r.1, r.2 ||| p.nv)

/-! ### The K-step (R76) -/

/-- A row or a column of a K-step: values without scales (+0 for an escape), block-scale codes (none for formats without
scales), band scale, and the thimble entries that lie in it, by position. -/
structure KRow where
  vals : List FVal
  blk : List Nat := []
  band : FVal := .fin false 1 0
  outs : List (Nat × FVal) := []

def KRow.out? (r : KRow) (k : Nat) : Option FVal := (r.outs.find? (·.1 == k)).map (·.2)
/-- val(): an element with its block scale; 0 for an escape. -/
def KRow.val (r : KRow) (k : Nat) : FVal :=
  let v := r.vals.getD k (.fin false 0 0)
  if r.blk = [] then v else (exMul v (scaleVal (r.blk.getD (k / 8) 0))).v

/-- Group sums of 8, scaled. -/
def groupScale (w : Nat) (a b : KRow) (gs : List XVal) : List XVal :=
  if a.blk = [] then gs
  else (List.range gs.length).map fun g =>
    xmul w (gs.getD g ⟨false, 0, 0⟩) (exMul (scaleVal (a.blk.getD g 0)) (scaleVal (b.blk.getD g 0))).v

/-- y of k_step, rounded to f, on a significand of w bits. -/
def kStepY (w : Nat) (f : FloatFmt) (a b : KRow) : Nat × FlagBits :=
  let ps := a.vals.zip b.vals
  let prods := ps.map fun x => xof w (exMul x.1 x.2).v
  let gs := groupScale w a b (pairUp (xadd w) (pairUp (xadd w) (pairUp (xadd w) prods)))
  let t := xmul w (xtree w gs) (exMul a.band b.band).v
  let t := a.outs.foldl (fun t o =>
    let other := match b.out? o.1 with | some v => v | none => (exMul (b.val o.1) b.band).v
    xadd w t (xof w (exMul o.2 other).v)) t
  let t := b.outs.foldl (fun t o =>
    if (a.out? o.1).isSome then t else xadd w t (xof w (exMul (exMul (a.val o.1) a.band).v o.2).v)) t
  roundSum f (specialOf ps) t

/-- round_rne(acc + y). -/
def accAdd (f : FloatFmt) (acc y : Nat) : Nat × FlagBits := f.deliver false .rne 0 (exAdd .rne (f.unpack acc) (f.unpack y))

def kStep (a b : KRow) (acc : Nat) : Nat × FlagBits :=
  let y := kStepY 64 b32 a b
  let r := accAdd b32 acc y.1
  (r.1, y.2 ||| r.2)

/-- The exact sum of a K-step of INT8 (R78). -/
def intDot (a b : List Nat) : Int := (a.zip b).foldl (fun s x => s + bitsInt 8 true x.1 * bitsInt 8 true x.2) 0

/-- The addition to an INT32 accumulator, wrapping or saturating (R78). -/
def accInt (sat : Bool) (acc : Nat) (y : Int) : Nat × FlagBits := finishInt (if sat then 1 else 0) 32 true (bitsInt 32 true acc + y)

/-! ### FP4 tiles in bytes (R59, R60) -/

/-- A tile through a function that gives its bytes. -/
def tileHeadAt (rd : Nat → Byte) : TileHead := tileHead (leNat ((List.range 64).map rd))
def tileSize (capc : Nat) : Nat := 10304 + 4 * ({ fmt := 7, capc := capc, count := 0, band := 0, zeros := true } : TileHead).cap
def tileCode (rd : Nat → Byte) (row col : Nat) : Nat :=
  let b := (rd (64 + 128 * row + col / 2)).toNat
  if col % 2 = 0 then b % 16 else b / 16
def tileScale (rd : Nat → Byte) (row g : Nat) : Nat := (rd (8256 + 32 * row + g)).toNat
def tileEntries (rd : Nat → Byte) (n : Nat) : List Thimble :=
  (List.range n).map fun k => thimbleOf (leNat ((List.range 4).map fun i => rd (10304 + 4 * k + i)))
def tileEscapes (rd : Nat → Byte) : List Nat := (List.range 16384).filter fun p => tileCode rd (p / 256) (p % 256) == 8

/-- The first step of R60 that a tile fails, 0 when it is valid. -/
def tileCheck (rd : Nat → Byte) : Nat :=
  let hd := tileHeadAt rd
  if hd.ok = false then 1
  else
    let es := tileEntries rd hd.count
    let pos := es.map Thimble.pos
    let esc := tileEscapes rd
    if es.all Thimble.ok = false then 2
    else if ascending pos = false ∨ esc.length ≠ hd.count then 3
    else if esc ≠ pos then 4
    else 0

/-- Row of a tile as an operand of a K-step; the codes may come from elsewhere. -/
def tileRow (rd codes : Nat → Byte) (row : Nat) : KRow :=
  let hd := tileHeadAt rd
  { vals := (List.range 256).map fun c =>
      let x := tileCode codes row c
      if x = 8 then .fin false 0 0 else e2m1.unpack x
    blk := (List.range 32).map (tileScale rd row)
    band := bf16.unpack hd.band
    outs := ((tileEntries rd hd.count).filter (·.row == row)).map fun e => (e.col, e.value) }

/-- The exact value of an element of a tile: band × block scale × code, or its thimble entry (R58, R59). -/
def tileVal (rd : Nat → Byte) (row col : Nat) : FVal :=
  let r := tileRow rd rd row
  match r.out? col with
  | some v => v
  | none => (exMul (r.val col) r.band).v

/-! ### Rows of the other formats -/

def codesOf (rd : Nat → Byte) (w n : Nat) : List Nat :=
  (List.range n).map fun i => leNat ((List.range (w / 8)).map fun b => rd (i * (w / 8) + b))
def floatRow (rd : Nat → Byte) (f : FloatFmt) (n : Nat) : KRow := { vals := (codesOf rd f.width n).map f.unpack }

/-! ### Helper sums of the latent modes (R259) -/

/-- xsum_r over pairs of rank elements, rounded once to a format. -/
def xsumR (f : FloatFmt) (ps : List (FVal × FVal)) : Nat × FlagBits :=
  let terms := ps.map fun x => xof 64 (exMul x.1 x.2).v
  let t := (List.range (ps.length / 64)).foldl (fun t q => xadd 64 t (xtree 64 ((terms.drop (64 * q)).take 64))) ⟨false, 0, 0⟩
  roundSum f (specialOf ps) t

/-- bf16_rne(ksum(u, v)). -/
def ksumB (u v : List FVal) : Nat × FlagBits := kStepY 64 bf16 { vals := u } { vals := v }

end Sys2Proof.Machine
end

