-- ==== Sys2Proof/Machine/Control.lean ====
section
/-! DEFINITION. Control transfer and hardware loops (R162-R169). -/
namespace Sys2Proof.Machine
open Sys2Proof

/-- A branch to a word offset when a condition on two registers holds (R162). -/
def branch (c : W64 → W64 → Bool) (d a : XReg) (i : BitVec 10) (s : State) : Out :=
  issue s fun _ h =>
    if c (h.rx d) (h.rx a) then h.upd fun st => st.branchTo (st.wordAddr + sext 10 i <<< 2) else h.advance

def execBeq (d a : XReg) (i : BitVec 10) (s : State) : Out := branch (fun x y => x == y) d a i s
def execBne (d a : XReg) (i : BitVec 10) (s : State) : Out := branch (fun x y => x != y) d a i s
def execBlt (d a : XReg) (i : BitVec 10) (s : State) : Out := branch (fun x y => x.slt y) d a i s
def execBge (d a : XReg) (i : BitVec 10) (s : State) : Out := branch (fun x y => !x.slt y) d a i s
def execBltu (d a : XReg) (i : BitVec 10) (s : State) : Out := branch (fun x y => decide (x < y)) d a i s
def execBgeu (d a : XReg) (i : BitVec 10) (s : State) : Out := branch (fun x y => !decide (x < y)) d a i s

def execJmp (i : BitVec 20) (s : State) : Out :=
  issue s fun _ h => h.upd fun st => st.branchTo (st.wordAddr + sext 20 i <<< 2)

/-- Pushes an address onto the return-address store (R165). -/
def Strand.push (st : Strand) (a : W64) : Strand := st.updBank fun b => { b with rets := a :: b.rets }

/-- A call to a target: overflow first, then a target off the word grid (R164). -/
def callTo (target : Hw → W64) (s : State) : Out :=
  issue s fun _ h =>
    if 16 ≤ h.st.bank.rets.length then h.trap { cause := Cause.overflow, info := 16 }
    else if (target h).toNat % 4 ≠ 0 then h.fault Cause.access
    else h.upd fun st => (st.push (st.wordAddr + 4)).goTo (target h)

def execCall (i : BitVec 20) (s : State) : Out := callTo (fun h => h.st.wordAddr + sext 20 i <<< 2) s
def execCallr (a : XReg) (s : State) : Out := callTo (fun h => h.rx a) s

def execJr (a : XReg) (s : State) : Out :=
  issue s fun _ h =>
    if (h.rx a).toNat % 4 ≠ 0 then h.fault Cause.access else h.upd fun st => st.branchTo (h.rx a)

/-- The end of the innermost hook, when its `ret` pops the address that reflection pushed: where a strict kernel holds for the
trap, the hold lasts 16 ticks more (R365). -/
def Hw.endHook (h : Hw) (depth : Nat) : Hw :=
  match h.st.hooks with
  | [] => h
  | (d, holds) :: rest =>
    if h.st.mode = .kernel ∧ d = depth then
      let w := h.returnTick h.cur holds
      let g := h.upd fun st => { st with inTrap := !rest.isEmpty, hooks := rest, notBefore := w, thawed := st.thawed && !rest.isEmpty }
      if holds then g.holdUntil h.myPart w else g
    else h

def execRet (s : State) : Out :=
  issue s fun _ h =>
    match h.st.bank.rets with
    | [] => h.fault Cause.underflow
    | t :: rest =>
      if t.toNat % 4 ≠ 0 then h.fault Cause.access
      else (h.upd fun st => (st.updBank fun b => { b with rets := rest }).goTo t).endHook rest.length

/-! ### Hardware loops (R166-R168) -/

/-- Loop i lies within loop j (R170). -/
def Loop.within (i j : Loop) : Bool := decide (j.start ≤ i.start) && decide (i.last < j.last)

/-- The checks of R167 in order: the number of the first that fails. -/
def loopCheck (b : Bank) (n : LoopNo) (l : Loop) (ofs : Int) : Option Nat :=
  if ofs < 2 then some 1
  else if ofs > 257 then some 2
  else if (b.loops.get n).act then some 3
  else if [0, 1, 2].any fun j : LoopNo => (b.loops.get j).act && !l.within (b.loops.get j) then some 4
  else none

/-- loop and loopi with count n and the signed word offset of the last word. -/
def startLoop (m : Memory) (h : Hw) (n : LoopNo) (count : BitVec 32) (ofs : BitVec 32) : Hw :=
  let a := h.st.wordAddr
  let l : Loop := { act := true, count := count, start := a + 8, last := a + sext 32 ofs <<< 2 }
  match loopCheck h.st.bank n l ofs.toInt with
  | some k => h.trap { cause := Cause.loop, info := k }
  | none =>
    if count = 0 then
      h.upd fun st => { st with
        pc := BitVec.ofNat 64 (groupAfter 256 (codeWord m h h.cur) l.start.toNat l.last.toNat) }
    else h.upd fun st => { st.updBank (fun b => { b with loops := b.loops.set n l }) with pc := l.start }

def execLoop (n : LoopNo) (a : XReg) (ofs : BitVec 32) (s : State) : Out :=
  issue s fun m h => startLoop m h n ((h.rx a).setWidth 32) ofs
def execLoopi (n : LoopNo) (count : BitVec 15) (ofs : BitVec 32) (s : State) : Out :=
  issue s fun m h => startLoop m h n (count.setWidth 32) ofs

end Sys2Proof.Machine
end

