-- ==== Sys2Proof/Machine/Sync.lean ====
section
/-! DEFINITION. Sync words, token and sync-word waits, fences, the asymmetric fence and barriers (R98-R116, R177-R184). -/
namespace Sys2Proof.Machine
open Sys2Proof

/-! ### Sync words (R98-R100, R177, R179) -/

/-- The address check of a sync word (R177). -/
def syncAddr (strand : Nat) (ea : W64) : Option Nat :=
  if hasSpad strand = false ∨ Config.spadSize ≤ ea.toNat ∨ ea.toNat % 16 ≠ 0 then none else some ea.toNat

/-- Arms a sync word: TARGET written, COUNT and the status cleared, GEN kept, visible at t+3 (R99); both double words are
rewritten, so an error in any of its words is cleared. -/
def execSwset (a b : XReg) (s : State) : Out :=
  issue s fun _ h =>
    match syncAddr h.cur (h.rx a) with
    | none => h.accessFault (h.rx a)
    | some off =>
      if h.portBusy then h.occupied (h.stuck h.st.units.port)
      else
        let c := coreOf h.cur
        let p := clusterOf h.cur
        ((h.takePort 1).later 3 (.swset c p off ((h.rx b).toNat % 2 ^ 32))).advance

/-- (GEN − G*) mod 2^32 < 2^31 (R100). -/
def genReached (gen target : BitVec 32) : Bool := decide ((gen - target).toNat < 2 ^ 31)

/-- GEN of the sync word at an offset of a core's scratchpad. -/
def genAt (m : Memory) (core off : Nat) : BitVec 32 := BitVec.ofNat 32 (Memory.readNat m (spadKey core (off + 4)) 4)

/-- A test of a sync-word wait: an uncorrectable word traps at that test (R179). -/
def Hw.syncTest (h : Hw) (strand off : Nat) : Hw :=
  if h.badAt (spadKey (coreOf strand) off) 16 then
    (((h.updStrand strand fun st => { st with wait := .none }).spadLost (coreOf strand) off 16).trapOf
      strand { cause := Cause.uncorrectable, stval := BitVec.ofNat 64 off }).abortMates strand
  else h.updStrand strand fun st => st.goOn h.wtick

def execWaitG (a b : XReg) (s : State) : Out :=
  issue s fun m h =>
    match syncAddr h.cur (h.rx a) with
    | none => h.accessFault (h.rx a)
    | some off =>
      let g := (h.rx b).setWidth 32
      if h.badAt (spadKey (coreOf h.cur) off) 16 ∨ genReached (genAt m (coreOf h.cur) off) g = true then h.syncTest h.cur off
      else h.waitOn (.sync off g)

/-- The wait on a sync word is met, or its word turned uncorrectable. -/
def syncMet (m : Memory) (h : Hw) (strand off : Nat) (g : BitVec 32) : Bool :=
  h.badAt (spadKey (coreOf strand) off) 16 || genReached (genAt m (coreOf strand) off) g

/-! ### Tokens (R94, R178) -/

def execWaitK (k : BitVec 5) (s : State) : Out :=
  issue s fun _ h =>
    let t : Fin 8 := Fin.ofNat 8 k.toNat
    if (h.st.token h.st.sup t).pend = 0 then h.tokenDone h.cur t else h.waitOn (.token t)

/-! ### Fences (R106, R180) -/

def execFence (c : BitVec 3) (k : BitVec 2) (s : State) : Out :=
  issue s fun _ h =>
    let rel := k == 1 || k == 3
    let g := h.fenceFor h.cur rel (k == 2 || k == 3) (k == 3) (c != 0)
    (if rel && c == 2 then g.upd fun st => { st with dieReleases := st.dieReleases + 1 } else g).advance

/-- afence: counted on a token; the request reaches its die after the route's latency, and returns (R116). A slot that is
not a healthy die of the partition, or that no route reaches, completes the token in error. On the issuer's own die the
promotion takes place at once and the afence acts as `fence full, part`. -/
def execAfence (t : BitVec 3) (l : BitVec 6) (s : State) : Out :=
  issue s fun _ h =>
    let slot := l.toNat
    let tok := tokOf t
    if h.tokenFull tok then h.block (0xFFF0 + tok.val)
    else if h.reaches h.myPart (slotOf h.cur) slot = false then
      (h.launchUntimed tok (.afence slot) 0 [(.fail 0x0408, 0)]).advance
    else
      let lat := h.latency h.myPart (slotOf h.cur) slot
      let g := h.launchAs tok (.afence slot) 0 [] fun u => { u with due := u.due + 2 * lat, after := h.inFlight h.cur false }
      let g := g.upd fun st => st.updToken st.sup tok fun t => { t with fence := true }
      if slot = slotOf h.cur then ((g.fenceFor h.cur true true true true).soon (.afencePromotion h.cur tok.val slot)).advance
      else (g.carry h.myPart (slotOf h.cur) slot (.afencePromotion h.cur tok.val slot)).advance

/-! ### Barriers (R42-R45, R109, R182-R184) -/

/-- Linear team index (R23). -/
def linearTeam (cls idx : Nat) : Nat := if cls = 0 then idx else if cls = 1 then 144 + idx else 336 + idx
def Hw.teamIndex (h : Hw) (core : Nat) : Nat := match (h.core core).team with | some (c, i) => linearTeam c i | none => 0

/-- The GRPSET slot of a group number. -/
def Core.grp (c : Core) (g : Nat) : Option GrpSlot := c.grps.find? (·.num == g)
def Core.updGrp (c : Core) (g : Nat) (f : GrpSlot → GrpSlot) : Core :=
  { c with grps := c.grps.map fun x => if x.num = g then f x else x }

/-- What an arrival waits for: the accesses named, and in queued mode the strand's scratchpad stores as well (R109). In strict mode a
store may stand still in the hold of the very barrier, and it is the release that orders it (DEDUCED, notes/assumptions/93.md). -/
def Hw.mustWait (h : Hw) (waitFor : List Nat) : Bool := waitFor != [] || (!h.strict && h.storesInFlight h.cur)

/-- The arrival of a team at its barrier, sent when the strand's earlier accesses are over; at once when there are none. -/
def Hw.sendArrival (h : Hw) (g : GrpSlot) (waitFor : List Nat) : Hw :=
  let p := h.myPart
  let c := h.teamIndex (coreOf h.cur)
  if h.mustWait waitFor = false then
    h.carry p (slotOf h.cur) (h.master p) (.barrierArrival p g.num c g.phase.toNat)
  else
    { h with
      untimed := h.untimed ++ [{ id := h.fresh, strand := h.cur, sup := false, tok := 0, op := .arrival p g.num c g.phase.toNat
                                 pieces := [], due := h.wtick, after := waitFor
                                 afterSeq := if h.strict then 0 else h.seq, seg := (h.part p).seg }]
      fresh := h.fresh + 1 }

/-- An arrival that the team has made in this tick waits for another strand's accesses as well: arrivals of one tick count as
one and each is a release, and the last to be over sets out (R109, R183). -/
def Hw.joinArrival (h : Hw) (g : GrpSlot) (waitFor : List Nat) : Hw :=
  let p := h.myPart
  let c := h.teamIndex (coreOf h.cur)
  if h.mustWait waitFor = false then h
  else ({ h with flight := h.flight.filter (fun e => e.2 != Event.barrierArrival p g.num c g.phase.toNat) }).sendArrival g waitFor

/-- An arrival: the first of a phase is sent to the partition master, after the strand's earlier accesses, which it
releases; those of the same tick join it, and later ones are merged (R183, R109). -/
def Hw.arrive (h : Hw) (g : GrpSlot) : Hw :=
  let waitFor := h.inFlight h.cur false
  if g.pending then (if g.arrivedAt = some h.wtick then h.joinArrival g waitFor else h)
  else (h.updCore (coreOf h.cur) fun x => x.updGrp g.num fun y =>
    { y with pending := true, arrivedAt := some h.wtick }).sendArrival g waitFor

/-- The wait of barw and barrw: over when PENDING is 0, and the status lands one tick later (R184). -/
def Hw.barrierDone (h : Hw) (strand g : Nat) (d : XReg) : Hw :=
  let v : W64 := match (h.core (coreOf strand)).grp g with
    | some x => (if x.err then 65536 else 0) + x.code.setWidth 64
    | none => 0
  let h1 := if d = 0 then h else h.pendFor strand 1 (.x strand (h.strand strand).sup d v)
  h1.updStrand strand fun st => st.goOn h.wtick

def Hw.pendingAt (h : Hw) (core g : Nat) : Bool := match (h.core core).grp g with | some x => x.pending | none => false

/-- The group named by a barrier instruction, or the access fault (R44, R153, R183) (notes/assumptions/30.md). -/
def withGroup (g : Nat) (h : Hw) (f : GrpSlot → Hw) : Hw :=
  if h.st.sup then h.advance
  else
    match (h.core (coreOf h.cur)).grp g with
    | none => h.fault Cause.access
    | some x => f x

def execBarr (g : BitVec 8) (s : State) : Out := issue s fun _ h => withGroup g.toNat h fun x => (h.arrive x).advance

def Hw.barrierWait (h : Hw) (g : Nat) (d : XReg) : Hw :=
  if h.pendingAt (coreOf h.cur) g then h.waitOn (.barrier g d) else h.barrierDone h.cur g d

def execBarw (g : BitVec 8) (d : XReg) (s : State) : Out :=
  issue s fun _ h => withGroup g.toNat h fun _ => h.barrierWait g.toNat d
def execBarrw (g : BitVec 8) (d : XReg) (s : State) : Out :=
  issue s fun _ h => withGroup g.toNat h fun x => (h.arrive x).barrierWait g.toNat d

end Sys2Proof.Machine
end

