-- ==== Sys2Proof/Machine/System.lean ====
section
/-! DEFINITION. Anchors, checkpoints, drain and retire, time waits, the special registers and the system instructions
(R185-R194, R356-R376). -/
namespace Sys2Proof.Machine
open Sys2Proof

/-! ### System instructions (R193, R194, R376, R387) -/

def execNop (s : State) : Out := issue s fun _ h => h.advance
def execTrap (n : BitVec 15) (s : State) : Out :=
  issue s fun _ h => h.trap { cause := Cause.trap, info := n.toNat }

/-- With SDBG.BKEN set, the partition freezes at the next tick and the trap is entered when the freeze ends (R376); in
supervisor mode the trap is a machine check either way (R357). -/
def execBrk (n : BitVec 15) (s : State) : Out :=
  issue s fun _ h =>
    if (h.part h.myPart).bken && !h.st.sup then
      (h.upd fun st =>
        { st with held := some { cause := Cause.brk, info := n.setWidth 16, clu := BitVec.ofNat 2 (clusterOf h.cur) } }).updPart
        h.myPart fun p => { p with freezeNext := true }
    else h.trap { cause := Cause.brk, info := n.toNat }

/-- Drops every entry of the die's walker caches at the next tick (R387): what a walk reads in the issue tick itself is
read before. -/
def execWcinv (s : State) : Out :=
  issue s fun _ h => ((h.updDie (slotOf h.cur) fun d => { d with wcache := [] })).advance

/-- The data-fault trap that a code names (R364), taken again by the supervisor at an emulated access (R366). -/
def Strand.reenter (st : Strand) (t : TrapInfo) (w : Nat) : Strand :=
  { st with
    cause := t.cause, info := BitVec.ofNat 16 t.info, dcode := BitVec.ofNat 16 t.dcode, stval := t.stval
    nxt := false, emu := false, rfl_ := false, pc := st.svec, notBefore := w + 2 }

/-- What EMU does at sret (R366): the load's value, the token's error, or (none) the supervisor entered again. -/
def Strand.emulated (st : Strand) : Option Strand :=
  let i := st.info.toNat
  let store := i / 16 % 2 == 1
  let glob := i / 64 % 2 == 1
  if st.sflt then
    if glob then
      some (st.updToken false (Fin.ofNat 8 (i / 128)) fun t => { t with err := true, code := st.sfcode.toNat })
    else none
  else if store then some st
  else some { st with kb := st.kb.writeX (Fin.ofNat 32 (i / 1024)) st.semu }

/-- The end of a trap: EMU, then RFL, then the return (R360, R365, R366) (notes/assumptions/18.md). A return to an address off
the word grid is an access fault and has no effect (R127); causes that are never reflected return as without RFL (R363). -/
def Hw.leaveTrap (m : Memory) (h : Hw) : Hw :=
  let w := h.returnTick h.cur h.st.holding
  let after := kernelAfter m h h.cur h.st.sepc
  let len := (kernelAfter m h h.cur h.st.trapPc - h.st.trapPc).toNat
  let strict := h.strict
  match (if h.st.emu then h.st.emulated else some h.st) with
  | none => h.upd fun st => st.reenter { dataTrap st.sfcode.toNat with stval := st.stval, dcode := st.sfcode.toNat } h.wtick
  | some st =>
    if st.rfl_ ∧ st.hookEn ∧ Cause.reflects st.cause = true then
      if 16 ≤ st.kb.rets.length then
        h.setStrand h.cur (st.reenter { cause := Cause.overflow, info := 16 } h.wtick)
      else h.setStrand h.cur { st.reflect after with notBefore := h.wtick + 1 }
    else if st.sepc.toNat % 4 ≠ 0 ∧ ¬ (strict = true ∧ st.nxt = true) then h.fault Cause.access
    else if st.holding then (h.setStrand h.cur (st.returnTo strict after len w)).holdUntil h.myPart w
    else h.setStrand h.cur (st.returnTo strict after len w)

def execSret (s : State) : Out := issue s fun m h => h.leaveTrap m

/-! ### Anchors and checkpoints (R30, R185, R186, R368-R372) -/

/-- Trap entry for a delivery before a group issues: SEPC names that group, NXT is 0; reflected when HOOK.EN is 1, and
entered as return-store overflow when the store is full (R280, R359, R365). -/
def Hw.deliverTrap (h : Hw) (k : Nat) (reflectable : Bool) (t : TrapInfo) : Hw :=
  h.updStrand k fun st =>
    let e := { st.enterTrap h.wtick k t with nxt := false }
    if reflectable && st.hookEn then
      if 16 ≤ st.kb.rets.length then
        { st.enterTrap h.wtick k { cause := Cause.overflow, info := 16 } with nxt := false }
      else e.reflect e.sepc
    else e

/-- The view number of a fabric group. -/
def Part.viewOf (p : Part) (g : Nat) : BitVec 32 :=
  match p.fabs.find? (·.num == g) with | some f => f.view | none => 0

/-- The view-change trap owed to a strand, taken now (notes/assumptions/29.md). -/
def Hw.takeView (h : Hw) (k : Nat) : Hw :=
  match (h.strand k).viewTrap with
  | none => h
  | some g =>
    let v := ((h.part (h.partOf (slotOf k))).viewOf g).toNat % 65536
    ((h.updStrand k fun st => { st with viewTrap := none, wait := .none, joined := none }).deliverTrap k true
      { cause := Cause.viewChange, info := g, dcode := v })

/-- The quorum-lost trap owed to a strand, taken now (R281). -/
def Hw.takeLost (h : Hw) (k : Nat) : Hw :=
  match (h.strand k).quorumLost with
  | none => h
  | some g =>
    ((h.updStrand k fun st => { st with quorumLost := none, wait := .none, joined := none }).deliverTrap k false
      { cause := Cause.quorumLost, info := g, dcode := 0x0502 })

/-- The first strand's anchor at a schedule tick closes the segment. -/
def Part.anchorHere (p : Part) (w : Nat) : Part :=
  if p.anchors.any (·.at_ == p.stick) then p
  else { p with anchors := p.anchors ++ [{ at_ := p.stick, wall := w, seg := p.seg }], seg := p.seg + 1 }

/-- A lock-step member that issues kernel code: its SYNCMASK bit is set (R26). -/
def Hw.member (h : Hw) (k : Nat) : Bool :=
  !isSeq k && (h.strand k).status == .running && (h.strand k).mode == .kernel && !(h.strand k).inTrap &&
    (h.core (coreOf k)).syncmask.getLsbD (clusterOf k)

/-- Ignored in queued mode and in supervisor mode; in strict mode the stamp is checked, the segment closes, and a view change
owed to the strand is delivered before its next group (R30, R38, R185, R280), in a bundle when all its words have taken effect. -/
def execAnchor (i : BitVec 20) (s : State) : Out :=
  issue s fun _ h =>
    if h.st.sup || !h.strict then h.advance
    else if (h.part h.myPart).stick % 2 ^ 20 ≠ i.toNat then h.trap { cause := Cause.deviation, info := 0 }
    else
      let t := (h.part h.myPart).stick
      let g := ((h.updPart h.myPart fun p => p.anchorHere h.wtick).upd fun st => { st with anchored := some t }).advance
      if h.member h.cur && h.st.gsync then g else g.takeView h.cur

/-- Class of a strand in the checkpoint table: that of its team, 3 for a sequencer (R368). -/
def strandClass (h : Hw) (k : Nat) : Nat :=
  if isSeq k then 3 else match (h.core (coreOf k)).team with | some (c, _) => c | none => 3

/-- The checkpoint entries of a strand (notes/assumptions/31.md). -/
def Hw.chkEntries (h : Hw) (k : Nat) : List ChkEntry :=
  match (h.part (h.partOf (slotOf k))).kernel with
  | some kn => (kn.chktab.getD []).filter fun e => e.cls == strandClass h k && e.cluster == (if isSeq k then 0 else clusterOf k)
  | none => []

/-- The stub pair of a code address: the first entry that covers it (R369). -/
def Hw.stubFor (h : Hw) (k a : Nat) : Option StubEntry :=
  match (h.part (h.partOf (slotOf k))).kernel with
  | some kn => (kn.stubtab.getD []).find? fun e => decide (e.fr ≤ a) && decide (a < e.till)
  | none => none

/-- Diverts a strand whose program counter stands at the group it resumes at, to a stub; one whose own word still waits goes
there when the wait ends. The kernel stops (R371). -/
def Hw.divert (h : Hw) (k : Nat) (e : StubEntry) (n : BitVec 20) : Hw :=
  (h.updStrand k fun st =>
    if st.wait = .none then st.divertTo n (BitVec.ofNat 64 e.stub) (BitVec.ofNat 64 e.restore)
    else { st with diverting := some (n, BitVec.ofNat 64 e.stub, BitVec.ofNat 64 e.restore) }).updPart
    (h.partOf (slotOf k)) fun p => { p with kernel := p.kernel.map fun kn =>
      { kn with phase := match kn.phase with | .running => .stopping | x => x } }

def execChkpt (n : BitVec 20) (s : State) : Out :=
  issue s fun _ h =>
    if h.st.sup then h.advance
    else
      match (h.chkEntries h.cur).find? (·.n == n.toNat) with
      | none => h.fault Cause.reserved
      | some e =>
        if h.st.stub then h.waitOn .park
        else if h.strict ∧ e.ctick ≠ (h.part h.myPart).stick then h.trap { cause := Cause.deviation, info := 4 }
        else if (h.part h.myPart).preemptPend then
          match h.stubFor h.cur h.st.pc.toNat with
          | none => h.fault Cause.reserved
          | some e => h.advance.divert h.cur e n
        else h.advance

/-! ### Drain and retire (R46, R188, R265) -/

/-- The queues of a team or of a die sequencer but for its array queue, and its untimed work, are empty (R46). -/
def Hw.drainedBut (h : Hw) (strand : Nat) : Bool :=
  let c := coreOf strand
  let k := h.core c
  [0, 1, 2, 3].all (fun i => (h.strand (c * 4 + i)).unaccepted == 0) &&
    h.pend.all (fun q => match q.act with | .isectLand c' _ _ _ _ _ => c' != c | _ => true) && k.iq.isEmpty && k.eq.isEmpty &&
    h.untimed.all (fun u => coreOf u.strand != c) &&
    (h.part (h.partOf (slotOf strand))).timed.all (fun t => coreOf t.strand != c) &&
    h.dies.all fun d => d.2.gemv.all (fun x => x.core != c) && d.2.queues.all fun q => q.2.cmds.all fun x => x.core != c

/-- All of them are empty. -/
def Hw.drained (h : Hw) (strand : Nat) : Bool := h.drainedBut strand && (h.core (coreOf strand)).aq.isEmpty

/-- All strands of a core have retired. -/
def Hw.teamDone (h : Hw) (core : Nat) : Bool :=
  if core % 32 = 24 then (h.strand (core * 4)).status == .retired
  else [0, 1, 2, 3].all fun c => (h.strand (core * 4 + c)).status == .retired

/-- The strand ends; with the team's last, the die counter falls (R46, R47). -/
def Hw.endStrand (h : Hw) (k : Nat) : Hw :=
  let g := h.updStrand k fun st => { st with status := .retired, wait := .none, retiredAt := some h.wtick }
  if g.teamDone (coreOf k) then
    let g := g.updDie (slotOf k) fun d => { d with counter := d.counter - 1 }
    if (g.die (slotOf k)).counter = 0 then g.soon (.dieCompletion (slotOf k)) else g
  else g

/-- A drain that finds its conditions met: an operand-fetch fault owed to the strand is taken (R265), and stays owed where
supervisor mode only records it (R357); a retire ends the strand. -/
def Hw.drainDone (h : Hw) (k : Nat) (w : Wait) : Hw :=
  match (h.strand k).owed with
  | some (c, code, info) =>
    ((h.updStrand k fun st => { st with owed := if st.sup then st.owed else none, wait := .none }).trapOf k
      { cause := c, info := info.toNat, dcode := code.toNat }).abortMates k
  | none =>
    match w with
    | .retire => h.endStrand k
    | _ => h.updStrand k fun st => st.goOn h.wtick

def execDrain (s : State) : Out :=
  issue s fun _ h => if h.drained h.cur then h.drainDone h.cur .drain else h.waitOn .drain
def execRetire (s : State) : Out :=
  issue s fun _ h =>
    if h.st.sup then h.advance
    else if h.drained h.cur then h.drainDone h.cur .retire else h.waitOn .retire

/-! ### Time waits (R189) -/

def execTwait (a : XReg) (s : State) : Out :=
  issue s fun _ h => if h.rx a ≤ h.ftime then h.advance else h.waitOn (.ftime (h.rx a))
def execWaitw (a : XReg) (s : State) : Out :=
  issue s fun _ h => if (h.rx a).toNat ≤ h.wtick then h.advance else h.waitOn (.wtick (h.rx a))

/-! ### Special registers: reading (R17, R25, R37, R42, R87, R93, R165, R170, R190-R192, R353, R358) -/

def teamReg (h : Hw) : Nat :=
  if isSeq h.cur then 3 * 65536
  else match (h.core (coreOf h.cur)).team with | some (c, i) => c * 65536 + i | none => 0
def nteamReg (h : Hw) : Nat :=
  match (h.part h.myPart).kernel with | some k => k.ng * 2 ^ 32 + k.nv * 2 ^ 16 + k.nm | none => 0
def strandReg (h : Hw) : Nat :=
  slotOf h.cur * 256 + (if isSeq h.cur then 4 else clusterOf h.cur)
def grpsetReg (h : Hw) : Nat :=
  let gs := (h.core (coreOf h.cur)).grps
  gs.foldr (fun g acc => g.num + 256 * acc) 0 + (2 ^ gs.length - 1) * 2 ^ 32

def healthCode : Health → Nat
  | .good => 0 | .failed => 1 | .withdrawn => 2 | .absent => 3

/-- Healthy dies of a type in the partition, as the mix view counts them. -/
def mixCount (p : Part) (n : Nat) (t : Nat) : Nat :=
  p.mixView.countP fun e => e.type == t && e.bound && e.part == n && e.health == .good
def mixvReg (h : Hw) : Nat :=
  let p := h.part h.myPart
  let n := h.myPart
  let c := mixCount p n
  p.mixView.countP (fun e => e.type != 0) * 2 ^ 56 + c 1 * 2 ^ 48 + c 2 * 2 ^ 40 + c 3 * 2 ^ 32 + c 4 * 2 ^ 24 +
    c 5 * 2 ^ 16 + c 6 * 2 ^ 8 + n
def mixslotReg (h : Hw) : Nat :=
  match (h.part h.myPart).mixView[h.st.mixsel.toNat]? with
  | none => 3 * 2 ^ 22
  | some e =>
    if e.type = 0 then 3 * 2 ^ 22
    else
      let inp := e.bound && e.part == h.myPart
      e.type * 2 ^ 28 + e.step * 2 ^ 24 + healthCode e.health * 2 ^ 22 + inp.toNat * 2 ^ 21 +
        (if inp && e.health == .good then e.cap else 0)

def stickReg (h : Hw) : Nat := if h.strict then (h.part h.myPart).stick else h.wtick - h.st.startTick
def wsphReg (h : Hw) : Nat :=
  if Config.slotType (slotOf h.cur) = .mx then
    let ph := (h.die (slotOf h.cur)).wsph
    let act := decide (ph % 2048 < 512)
    (if act then ph / 2048 else (ph / 2048 + 1) % 16) * 2 ^ 16 + act.toNat * 2 ^ 15 + ph
  else 0
def tokstReg (h : Hw) : Nat :=
  let ts := h.st.bank.tok.toList
  ts.foldr (fun t acc => t.pend + 64 * acc) 0 + ts.foldr (fun t acc => t.err.toNat + 2 * acc) 0 * 2 ^ 56
def viewnoReg (h : Hw) : Nat :=
  h.st.viewSlot.toNat * 2 ^ 62 +
    (match (h.core (coreOf h.cur)).grps[h.st.viewSlot.toNat]? with
     | some g => ((h.part h.myPart).viewOf g.num).toNat
     | none => 0)
def hookReg (st : Strand) : Nat := st.hookAddr.toNat / 4 * 4 + st.hookEn.toNat
def lcReg (l : Loop) : Nat := l.act.toNat * 2 ^ 63 + l.count.toNat

def sstatReg (st : Strand) : Nat :=
  st.emu.toNat * 1024 + st.rfl_.toNat * 512 + st.nxt.toNat * 256 + st.bnd.toNat * 128 + st.sflt.toNat * 64
def prstatReg (h : Hw) : Nat :=
  (h.part h.myPart).preemptPend.toNat * 2 ^ 32 + h.st.stub.toNat * 2 ^ 31 + h.st.chk.toNat
def sdbgReg (h : Hw) : Nat := (h.part h.myPart).frozen.toNat * 4 + (h.part h.myPart).bken.toNat
def gwctlReg (g : GraphCtx) : Nat :=
  g.node * 2 ^ 48 + g.limit.toNat * 2 ^ 35 + g.fault.toNat * 2 ^ 34 + g.refused.toNat * 2 ^ 33 + g.run.toNat * 2 ^ 32 +
    g.endv * 2 ^ 16 + g.part
/-- The graph contexts answer only to the die sequencer of SW0 (R358). -/
def ownsWalker (strand : Nat) : Bool := strand == seqOf 0

/-- A kernel-accessible register (R191); none for a number that the table does not list (notes/assumptions/73.md). -/
def readKernelReg (h : Hw) (n : Nat) : Option Nat :=
  let b := h.st.bank
  match n with
  | 0x000 => some (teamReg h) | 0x001 => some (nteamReg h) | 0x002 => some (strandReg h) | 0x003 => some (grpsetReg h)
  | 0x004 => some (mixvReg h) | 0x005 => some h.st.mixsel.toNat | 0x006 => some (mixslotReg h)
  | 0x008 => some (stickReg h) | 0x009 => some h.wtick | 0x00A => some h.ftime.toNat
  | 0x00B => some (if h.strict then (h.part h.myPart).holds else 0)
  | 0x00C => some (wsphReg h) | 0x00D => some (tokstReg h)
  | 0x010 => some h.st.flags.toNat | 0x011 => some h.st.rndm.toNat | 0x012 => some h.st.srseed.toNat
  | 0x013 => some (if isSeq h.cur then 0 else (h.core (coreOf h.cur)).syncmask.toNat)
  | 0x014 => some (hookReg h.st) | 0x015 => some (viewnoReg h) | 0x018 => some b.rets.length
  | 0x020 => some (lcReg (b.loops.get 0)) | 0x021 => some (lcReg (b.loops.get 1)) | 0x022 => some (lcReg (b.loops.get 2))
  | 0x024 => some (b.loops.get 0).start.toNat | 0x025 => some (b.loops.get 1).start.toNat
  | 0x026 => some (b.loops.get 2).start.toNat
  | 0x028 => some (b.loops.get 0).last.toNat | 0x029 => some (b.loops.get 1).last.toNat
  | 0x02A => some (b.loops.get 2).last.toNat
  | _ => none

/-- A supervisor register (R358). -/
def readSupReg (h : Hw) (n : Nat) : Option Nat :=
  let st := h.st
  match n with
  | 0x800 => some (sstatReg st) | 0x801 => some st.scauseVal.toNat | 0x802 => some st.sepc.toNat
  | 0x803 => some st.stval.toNat | 0x804 => some st.svec.toNat | 0x805 => some st.semu.toNat
  | 0x806 => some st.sfcode.toNat | 0x808 => some (st.ssave.get 0).toNat | 0x809 => some (st.ssave.get 1).toNat
  | 0x80A => some (st.ssave.get 2).toNat | 0x80B => some (st.ssave.get 3).toNat | 0x80C => some st.kxsel.toNat
  | 0x80D => some (st.kb.readX (Fin.ofNat 32 st.kxsel.toNat)).toNat | 0x810 => some (prstatReg h) | 0x811 => some 0
  | 0x812 => some (sdbgReg h) | 0x814 => some (h.part h.myPart).sctx.toNat
  | _ =>
    if 0x820 ≤ n ∧ n < 0x830 then
      some (if ownsWalker h.cur then gwctlReg (h.pkg.graphs.get (Fin.ofNat 16 (n - 0x820))) else 0)
    else none

/-- The value of a register, or the trap (R190, R358). -/
def Hw.csr (h : Hw) (n : Nat) : Except (BitVec 8) Nat :=
  if n < 0x800 then (match readKernelReg h n with | some v => .ok v | none => .error Cause.reserved)
  else if h.st.sup then (match readSupReg h n with | some v => .ok v | none => .error Cause.reserved)
  else .error Cause.illegal

def execCsrr (d : XReg) (r : BitVec 12) (s : State) : Out :=
  issue s fun _ h =>
    match h.csr r.toNat with
    | .ok v => h.result d (BitVec.ofNat 64 v) 0 1
    | .error c => h.fault c

/-! ### Special registers: writing -/

/-- The loops of a bank after a write of LCn, LSn or LEn (R170). -/
def Bank.writeLoop (b : Bank) (num : Nat) (v : W64) : Bank :=
  let n : LoopNo := Fin.ofNat 3 (num % 4)
  let l := b.loops.get n
  let a := v >>> 2 <<< 2
  let l' :=
    if num < 0x24 then { l with act := v.getLsbD 63, count := v.setWidth 32 }
    else if num < 0x28 then { l with start := a } else { l with last := a }
  { b with loops := b.loops.set n l' }

/-- The loop-nesting fault of such a write: an active loop that fails check 1 or 2, or two active loops of which neither
lies within the other (R170). -/
def Bank.loopFault (b : Bank) : Option Nat :=
  let ls := b.loops.toList.filter (·.act)
  if ls.any fun l => decide (l.last < l.start) then some 1
  else if ls.any fun l => decide ((l.last - l.start).toNat / 4 + 1 > 256) then some 2
  else
    let ix : List (LoopNo × LoopNo) := [(0, 1), (0, 2), (1, 2)]
    if ix.any fun p =>
      let x := b.loops.get p.1
      let y := b.loops.get p.2
      x.act && y.act && !x.within y && !y.within x then some 4 else none

/-- A write that takes effect at the next tick. -/
def Hw.csrEvent (h : Hw) (e : Event) : Hw := (h.later 1 (.event e)).advance

/-- SYNCMASK: of the writes of one tick, that of the lowest cluster stands (R26). -/
def Hw.writeMask (h : Hw) (v : W64) : Hw :=
  if isSeq h.cur then h.advance
  else
    let due := h.tick + 1
    let mine := fun (q : Pend) => match q.act with
      | .event (.syncmaskWrite k _) => coreOf k == coreOf h.cur && q.due == due
      | _ => false
    let lower := h.pend.any fun q => mine q && (match q.act with
      | .event (.syncmaskWrite k _) => decide (k < h.cur) | _ => false)
    if lower then h.advance
    else ({ h with pend := h.pend.filter fun q => !mine q }).csrEvent (.syncmaskWrite h.cur v)

/-- KEND: bit 0 clear ends the kernel, set requests a restart (R367, R410). -/
def Hw.writeKend (h : Hw) (v : W64) : Hw :=
  if v.getLsbD 0 then h.csrEvent (.kernelRestart h.myPart) else (h.endKernel h.myPart 0x0608).advance

/-- SDBG: BKEN is stored; writing 1 to RES ends a freeze (R358, R376). -/
def Hw.writeSdbg (h : Hw) (v : W64) : Hw :=
  let g := h.later 1 (.event (.registerWrite h.cur 0x812 v))
  if v.getLsbD 1 then g.csrEvent (.sdbgResume h.myPart) else g.advance

/-- csrw (R190): effective at t+1; a write to a read-only register is ignored. -/
def Hw.csrWrite (h : Hw) (r : BitVec 12) (v : W64) : Hw :=
  let n := r.toNat
  let k := h.cur
  match h.csr n with
  | .error c => h.fault c
  | .ok _ =>
    if n = 0x010 then h.csrEvent (.flagsWrite k v)
    else if n = 0x011 then h.csrEvent (.rndmWrite k v)
    else if n = 0x012 then h.csrEvent (.srseedWrite k v)
    else if n = 0x013 then h.writeMask v
    else if 0x020 ≤ n ∧ n < 0x02B then
      match (h.st.bank.writeLoop n v).loopFault with
      | some c => h.trap { cause := Cause.loop, info := c }
      | none => h.csrEvent (.loopRegisterWrite k r v)
    else if n = 0x80D then h.csrEvent (.kxvalWrite k (Fin.ofNat 32 h.st.kxsel.toNat) v)
    else if n = 0x811 then h.writeKend v
    else if n = 0x812 then h.writeSdbg v
    else h.csrEvent (.registerWrite k r v)

def execCsrw (d : XReg) (r : BitVec 12) (s : State) : Out := issue s fun _ h => h.csrWrite r (h.rx d)

/-! ### The register writes that take effect at t+1 -/

/-- A write of SYNCMASK for all four strands (R26). -/
def execSyncmaskWrite (strand : Nat) (val : BitVec 64) (s : State) : Out :=
  happen s fun s => s.updHw fun h => h.updCore (coreOf strand) fun c => { c with syncmask := val.setWidth 4 }
/-- FLAGS replaced; the bits raised in the same tick are ORed in when they land (R68). -/
def execFlagsWrite (strand : Nat) (val : BitVec 64) (s : State) : Out :=
  happen s fun s => s.updHw fun h => h.updStrand strand fun st => { st with flags := val.setWidth 6 }
/-- 000 and 111 store 001 (R65). -/
def execRndmWrite (strand : Nat) (val : BitVec 64) (s : State) : Out :=
  happen s fun s => s.updHw fun h => h.updStrand strand fun st =>
    let m : BitVec 3 := val.setWidth 3
    { st with rndm := if m = 0 ∨ m = 7 then 1 else m }
/-- 0 stores 1 (R65). -/
def execSrseedWrite (strand : Nat) (val : BitVec 64) (s : State) : Out :=
  happen s fun s => s.updHw fun h => h.updStrand strand fun st =>
    { st with srseed := if val.setWidth 32 = (0 : BitVec 32) then 1 else val.setWidth 32 }
/-- LCn, LSn, LEn of the bank in use (R170). -/
def execLoopRegisterWrite (strand : Nat) (num : BitVec 12) (val : BitVec 64) (s : State) : Out :=
  happen s fun s => s.updHw fun h => h.updStrand strand fun st => st.updBank fun b => b.writeLoop num.toNat val
/-- Kernel xn (R358). -/
def execKxvalWrite (strand : Nat) (n : XReg) (val : BitVec 64) (s : State) : Out :=
  happen s fun s => s.updHw fun h => h.updStrand strand fun st => { st with kb := st.kb.writeX n val }

/-- SSTAT: EMU, RFL, and NXT but in strict mode; SFLT is cleared by a 1 (R358). -/
def Strand.writeSstat (st : Strand) (strict : Bool) (v : W64) : Strand :=
  { st with
    emu := v.getLsbD 10, rfl_ := v.getLsbD 9, nxt := if strict then st.nxt else v.getLsbD 8
    sflt := st.sflt && !v.getLsbD 6 }
def Strand.writeScause (st : Strand) (v : W64) : Strand :=
  { st with
    dcode := v.extractLsb' 48 16, info := v.extractLsb' 32 16, clu := v.extractLsb' 24 2, cause := v.setWidth 8 }
/-- GWCTL: NODE is ignored while the context runs; LIMIT, FAULT, REFUSED are cleared by a 1 (R353). -/
def GraphCtx.write (g : GraphCtx) (v : W64) : GraphCtx :=
  { g with
    node := if g.run then g.node else (v.extractLsb' 48 16).toNat
    limit := g.limit && !v.getLsbD 35, fault := g.fault && !v.getLsbD 34, refused := g.refused && !v.getLsbD 33
    endv := (v.extractLsb' 16 16).toNat, part := (v.extractLsb' 0 3).toNat }

/-- Any register without a row of its own (R190, R358); numbers that are read-only or not listed change nothing. -/
def Hw.registerWrite (h : Hw) (strand num : Nat) (v : W64) : Hw :=
  let p := h.partOf (slotOf strand)
  match num with
  | 0x005 => h.updStrand strand fun st => { st with mixsel := v.setWidth 6 }
  | 0x014 => h.updStrand strand fun st => { st with hookAddr := v >>> 2 <<< 2, hookEn := v.getLsbD 0 }
  | 0x015 => h.updStrand strand fun st => { st with viewSlot := v.extractLsb' 62 2 }
  | 0x800 => h.updStrand strand fun st => st.writeSstat (h.strictOf p) v
  | 0x801 => h.updStrand strand fun st => st.writeScause v
  | 0x802 => h.updStrand strand fun st => { st with sepc := v }
  | 0x803 => h.updStrand strand fun st => { st with stval := v }
  | 0x804 => h.updStrand strand fun st => { st with svec := v >>> 2 <<< 2 }
  | 0x805 => h.updStrand strand fun st => { st with semu := v }
  | 0x806 => h.updStrand strand fun st => { st with sfcode := v.setWidth 16 }
  | 0x808 => h.updStrand strand fun st => { st with ssave := st.ssave.set 0 v }
  | 0x809 => h.updStrand strand fun st => { st with ssave := st.ssave.set 1 v }
  | 0x80A => h.updStrand strand fun st => { st with ssave := st.ssave.set 2 v }
  | 0x80B => h.updStrand strand fun st => { st with ssave := st.ssave.set 3 v }
  | 0x80C => h.updStrand strand fun st => { st with kxsel := v.setWidth 5 }
  | 0x812 => h.updPart p fun q => { q with bken := v.getLsbD 0 }
  | 0x814 => h.updPart p fun q => { q with sctx := v >>> 26 <<< 26 }
  | _ =>
    if 0x820 ≤ num ∧ num < 0x830 ∧ ownsWalker strand = true then
      let g := num - 0x820
      let c := h.pkg.graphs.get (Fin.ofNat 16 g)
      let h1 := h.updPkg fun k => { k with graphs := k.graphs.set (Fin.ofNat 16 g) (c.write v) }
      if v.getLsbD 4 ∧ c.run = false then h1.soon (.graphContextStart g) else h1
    else h

def execRegisterWrite (strand : Nat) (num : BitVec 12) (val : BitVec 64) (s : State) : Out :=
  happen s fun s => s.updHw fun h => h.registerWrite strand num.toNat val

end Sys2Proof.Machine
end

