-- ==== Sys2Proof/Machine/Matrix.lean ====
section
/-! DEFINITION. Class M: leases, panels, the two channels of an array and their ticks, matrix multiply and the latent modes,
accumulator operations, tiles and the cuff, status, operand-fetch faults, base-die GEMV (R246-R266, R349, R406-R408). -/
namespace Sys2Proof.Machine
open Sys2Proof

/-! ### Arrays and their queues -/

def Hw.arr (h : Hw) (slot a : Nat) : ArrayState := (h.die slot).arrays.get (Fin.ofNat 3 a)
def Hw.updArr (h : Hw) (slot a : Nat) (f : ArrayState → ArrayState) : Hw :=
  h.updDie slot fun d => { d with arrays := d.arrays.set (Fin.ofNat 3 a) (f (d.arrays.get (Fin.ofNat 3 a))) }
/-- The array of a core (R246). -/
def arrOf (core : Nat) : Nat := core % 32 / 4
def arrCores (slot a : Nat) : List Nat := (List.range 4).map fun p => slot * 32 + 4 * a + p

/-- Order of issue; of commands issued in one tick the requester key decides (R250, R350). -/
def ArrCmd.before (x c : ArrCmd) : Bool :=
  decide (x.issued < c.issued) || (x.issued == c.issued && (decide (x.strand < c.strand) || (x.strand == c.strand && decide (x.id < c.id))))

def insertCmd (c : ArrCmd) (l : List ArrCmd) : List ArrCmd :=
  match l with
  | [] => [c]
  | x :: t => if c.before x then c :: x :: t else x :: insertCmd c t
/-- The commands of an array's four queues in order of issue. -/
def Hw.arrCmds (h : Hw) (slot a : Nat) : List ArrCmd :=
  ((arrCores slot a).flatMap fun c => (h.core c).aq).foldl (fun acc c => insertCmd c acc) []
def Hw.cmd? (h : Hw) (slot a id : Nat) : Option ArrCmd := (h.arrCmds slot a).find? (·.id == id)
def Hw.updCmd (h : Hw) (slot a id : Nat) (f : ArrCmd → ArrCmd) : Hw :=
  (arrCores slot a).foldl (fun g c => g.updCore c fun x =>
    { x with aq := x.aq.map fun y => if y.id = id then f y else y }) h
def Hw.dropCmd (h : Hw) (slot a id : Nat) : Hw :=
  (arrCores slot a).foldl (fun g c => g.updCore c fun x => { x with aq := x.aq.filter (·.id != id) }) h

/-- The pipeline tick of the partition of a die. -/
def Hw.ptick (h : Hw) (slot : Nat) : Nat := (h.part (h.partOf slot)).pclk

/-- A pending act of an array, on the pipeline clock of its partition. -/
def Hw.pendArr (h : Hw) (slot lat : Nat) (a : PendAct) : Hw :=
  { h with pend := h.pend ++ [⟨h.partOf slot, false, h.ptick slot + lat, h.seq, a⟩], seq := h.seq + 1 }

/-- A time after every tick: the end of something still in progress. -/
def never : Nat := 2 ^ 62

/-! ### Latent descriptors (R255) -/

structure Desc where
  h : Nat
  d : Nat
  r : Nat
  lfmt : Nat
  wuv : Nat
  wuk : Nat
  ok : Bool
  deriving DecidableEq, Repr

def descOf (v : BitVec 128) : Desc :=
  let n := v.toNat
  let hh := n / 2 ^ 104 % 256
  let dc := n / 2 ^ 102 % 4
  let r := 64 * (n / 2 ^ 99 % 8 + 1)
  let d := 64 * 2 ^ dc
  let wuv := n / 2 ^ 32 % 2 ^ 32
  let wuk := n % 2 ^ 32
  let fits := fun o => o % 256 == 0 && decide (o + 2 * hh * d * r ≤ 2 ^ 29)
  { h := hh, d := d, r := r, lfmt := n / 2 ^ 98 % 2, wuv := wuv, wuk := wuk
    ok := hh != 0 && dc != 3 && n / 2 ^ 112 == 0 && n / 2 ^ 64 % 2 ^ 34 == 0 && fits wuv && fits wuk }

def Desc.tag (d : Desc) : Tag := if d.lfmt = 0 then tE4 else tF4

/-! ### Refresh windows (R85, R88, R254) -/

/-- Whether a bank is in its window at a phase. -/
def inWindow (ph bank : Nat) : Bool := decide ((ph + 32768 * 2 - 2048 * bank) % 32768 < 512)
/-- Banks of the bytes from lo on. -/
def banksOf (lo n : Nat) : List Nat := (List.range ((lo + n - 1) / 2 ^ 25 - lo / 2 ^ 25 + 1)).map (lo / 2 ^ 25 + ·)

/-- The phase at a pipeline tick from now on. -/
def Hw.phaseAt (h : Hw) (slot τ : Nat) : Nat := ((h.die slot).wsph + (τ - h.ptick slot)) % 32768

/-- The chunks of a latent slice: bytes of rows 16j to 16j + 15 (R258). Columns of the slice that are read as +0 count as read, for the
refresh windows: 512 bytes of each row (DESIGN CHOICE, notes/assumptions/92.md). -/
def sliceBase (lat : Nat) (d : Desc) (hd : Nat) : Nat := (if lat = 1 ∨ lat = 3 then d.wuk else d.wuv) + 2 * (hd * d.d)
def sliceBanks (lat : Nat) (d : Desc) (hd j : Nat) : List Nat :=
  (List.range 16).flatMap fun i => banksOf (sliceBase lat d hd + 2 * (d.h * d.d) * (16 * j + i)) 512

/-- Ticks until the chunks have been read from a phase on, chunks in a window waiting. -/
def readTicks (k ph : Nat) (chunks : List (List Nat)) : Nat :=
  match k, chunks with
  | 0, _ => chunks.length
  | _, [] => 0
  | k + 1, c :: t => if c.any (inWindow ph) then 1 + readTicks k (ph + 1) (c :: t) else 1 + readTicks k (ph + 1) t

/-! ### Footprints: the ticks of a compute command, counted from its start (R251, R256-R261) -/

structure Foot where
  reads : List (Nat × Nat) := []
  lands : List (Nat × Nat) := []
  ports : List Nat := []
  len : Nat := 1

def mulRate (t : Tag) : Nat :=
  if t = tB16 ∨ t = tH16 then 2 else if t = tE4 ∨ t = tE5 ∨ t = tI8 then 4 else if t = tF4 then 8 else 1
def mulBytes (t : Tag) : Nat :=
  if t = tB16 ∨ t = tH16 then 512 else if t = tE4 ∨ t = tE5 ∨ t = tI8 then 256 else if t = tF4 then 0 else 1024
def accTag (t : Tag) : Tag := if t = tI8 then tI32 else if t = tF64 then tF64 else tF32

/-- P of R258: ticks between rows of a latent mode. -/
def latStep (lat : Nat) (d : Desc) : Nat := if lat = 3 ∨ lat = 4 then (d.r + 255) / 256 else 1

/-- The entry tick of row i, after a prologue of pro ticks. -/
def entryTick (fmt : Tag) (lat : Nat) (d : Desc) (pro i : Nat) : Nat :=
  if lat ≠ 0 then pro + latStep lat d * i
  else if fmt = tF4 then 11 * (i / 64) + 3 + i % 64 / 8
  else i / mulRate fmt
/-- The same in a command that goes on with row r after a pre-emption: the slice, or the head of the row's tile, is read again
(R263, notes/assumptions/81.md). -/
def entryFrom (fmt : Tag) (lat : Nat) (d : Desc) (pro r i : Nat) : Nat :=
  if lat ≠ 0 then pro + latStep lat d * (i - r)
  else entryTick fmt lat d pro i - (if fmt = tF4 then 11 * (r / 64) else r / mulRate fmt)
def landDelay (lat : Nat) : Nat := if lat = 0 then 24 else 32

/-- Bytes of an output row of mread (R261). -/
def readBytes (rt t : Tag) : Nat :=
  if rt = tF64 ∧ t = tF32 then 512 else if elemWidth t = 16 then 512 else if elemWidth t = 8 then 256 else 1024

/-- The ticks of a command, or of the rows from r on of an mmma. -/
def ArrOp.foot (op : ArrOp) (pro : Nat) (r : Nat := 0) : Foot :=
  match op with
  | .mmma _ _ ar m fmt lat desc _ _ _ _ _ =>
    let d := descOf desc
    let per := if fmt = tF64 then 2 else 1
    let left := (List.range (m - r)).map (r + ·)
    let rows := left.flatMap fun i => (List.range per).map fun k => (ar + per * i + k, entryFrom fmt lat d pro r i + landDelay lat)
    let heads := if fmt = tF4 ∧ lat = 0 then
        (List.range ((m + 63) / 64 - r / 64)).flatMap fun q => [11 * q, 11 * q + 1, 11 * q + 2] else []
    { reads := rows, lands := rows
      ports := heads ++ left.map fun i => entryFrom fmt lat d pro r i
      len := entryFrom fmt lat d pro r (m - 1) + 1 }
  | .mzero ar m _ => { lands := (List.range m).map fun i => (ar + i, 1 + i / 4), len := (m - 1) / 4 + 1 }
  | .mread _ ar m rt t _ _ _ _ =>
    let b := readBytes rt t
    let n := (m * b + 1023) / 1024
    { reads := (List.range m).map fun i => (ar + i, i * b / 1024), ports := List.range n, len := n }
  | .mwrite _ ar m _ => { lands := (List.range m).map fun i => (ar + i, 3 + i), ports := List.range m, len := m }
  | .mscale _ ar m _ _ _ =>
    { reads := (List.range m).map fun i => (ar + i, 1 + i), lands := (List.range m).map fun i => (ar + i, 5 + i)
      ports := [0], len := m + 1 }
  | .mtile ar m keep =>
    if keep then { reads := (List.range m).map fun i => (ar + i, i / 4), len := (m - 1) / 4 + 1 } else {}
  | _ => {}

/-! ### Starting (R250, R251) -/

def ArrOp.isLoad : ArrOp → Bool
  | .mbld src _ _ _ _ _ _ _ _ => src != 2
  | .mlat _ => true
  | _ => false
def ArrOp.isGlobal : ArrOp → Bool
  | .mbld src _ _ _ _ _ _ _ _ => src == 2
  | _ => false
def ArrOp.isCompute (op : ArrOp) : Bool := !op.isLoad && !op.isGlobal
/-- The B slots (0, 1) and the latent register (2) that a command reads, and those that it writes. -/
def ArrOp.slotsRead : ArrOp → List Nat
  | .mmma bs _ _ _ _ lat _ _ _ _ _ _ => if lat = 0 then [bs] else [bs, 2]
  | _ => []
def ArrOp.slotsWritten : ArrOp → List Nat
  | .mbld _ bs _ _ _ _ _ _ _ => [bs]
  | .mlat _ => [2]
  | _ => []

/-- The chunk list of a latent prologue. -/
def ArrOp.chunks (op : ArrOp) : List (List Nat) :=
  match op with
  | .mmma _ _ _ _ _ lat desc _ _ hd _ _ =>
    if lat = 0 then [] else (List.range ((descOf desc).r / 16)).map (sliceBanks lat (descOf desc) hd)
  | _ => []
def ArrOp.prologue (op : ArrOp) (ph : Nat) : Nat := readTicks 40000 ph op.chunks

def slotTick (v : Vector Nat 3) (b : Nat) : Nat := v.get (Fin.ofNat 3 b)

/-- Whether a compute command may start at a tick. `before`: the earlier commands that have not started. -/
def ArrayState.computeReady (a : ArrayState) (before : List ArrCmd) (c : ArrCmd) (f : Foot) (τ : Nat) : Bool :=
  decide (c.issued + 1 ≤ τ) && decide (a.compFree ≤ τ) && before.all (fun x => !x.op.isCompute) &&
    f.reads.all (fun r => decide (amGet a.rowLand r.1 0 ≤ τ + r.2)) &&
    f.lands.all (fun r => decide (amGet a.rowLand r.1 0 < τ + r.2) && decide (amGet a.rowRead r.1 0 < τ + r.2)) &&
    c.op.slotsRead.all fun b =>
      decide (slotTick a.slotWritten b < τ) && before.all fun x => !(x.op.isLoad && x.op.slotsWritten.contains b)

def ArrayState.loadReady (a : ArrayState) (before : List ArrCmd) (c : ArrCmd) (τ : Nat) : Bool :=
  decide (c.issued + 1 ≤ τ) && decide (a.loadFree ≤ τ) && before.all (fun x => !x.op.isLoad) &&
    c.op.slotsWritten.all fun b =>
      decide (slotTick a.slotRead b < τ) && before.all fun x => !x.op.slotsRead.contains b

def setTick (v : Vector Nat 3) (b τ : Nat) : Vector Nat 3 := v.set (Fin.ofNat 3 b) τ
def amMax (l : List (Nat × Nat)) (k v : Nat) : List (Nat × Nat) := if amGet l k 0 < v then amSet l k v else l

/-- Books a compute command that starts at τ. -/
def ArrayState.bookCompute (a : ArrayState) (c : ArrCmd) (f : Foot) (τ : Nat) : ArrayState :=
  { a with
    compFree := τ + f.len
    portTicks := a.portTicks.filter (fun x => decide (τ ≤ x)) ++ f.ports.map (τ + ·)
    rowRead := f.reads.foldl (fun l r => amMax l r.1 (τ + r.2)) a.rowRead
    rowLand := f.lands.foldl (fun l r => amMax l r.1 (τ + r.2)) a.rowLand
    slotRead := c.op.slotsRead.foldl (fun v b => setTick v b (Nat.max (slotTick v b) (τ + f.len - 1))) a.slotRead }

/-- Books a load-channel command that starts at τ: a panel load is in progress until its last chunk is read. -/
def ArrayState.bookLoad (a : ArrayState) (c : ArrCmd) (τ : Nat) : ArrayState :=
  match c.op with
  | .mlat _ => { a with loadFree := τ + 1, slotWritten := setTick a.slotWritten 2 (τ + 1) }
  | .mbld _ bs _ _ _ _ _ _ _ =>
    { a with load := some { id := c.id }, loadFree := never, slotWritten := setTick a.slotWritten bs never }
  | _ => a

/-- Chunks of a panel load. -/
def ArrOp.chunkSize : ArrOp → Nat
  | .mbld src _ _ _ _ _ _ _ _ => if src = 0 then 1024 else 8192
  | _ => 1
def ArrOp.chunkCount : ArrOp → Nat
  | .mbld src _ _ _ _ _ bytes _ _ => (bytes + (if src = 0 then 1024 else 8192) - 1) / (if src = 0 then 1024 else 8192)
  | _ => 0
/-- Whether the next chunk of a load can be read at τ: a free port tick, or a bank outside its window. The array port is one for the
array: a scratchpad load of one core waits for the stream of another core of the array (DEDUCED from R250, notes/assumptions/92.md). -/
def ArrayState.canRead (a : ArrayState) (op : ArrOp) (next ph τ : Nat) : Bool :=
  match op with
  | .mbld src _ addr _ _ _ bytes _ _ =>
    if src = 0 then !a.portTicks.contains τ
    else (banksOf (addr + 8192 * next) (Nat.min 8192 (bytes - 8192 * next))).all fun b => !inWindow ph b
  | _ => true
/-- One chunk read at τ; after the last, the channel is free and the slot's last write is known. -/
def ArrayState.readChunk (a : ArrayState) (op : ArrOp) (p : LoadProg) (τ : Nat) : ArrayState :=
  if p.next + 1 < op.chunkCount then { a with load := some { p with next := p.next + 1 } }
  else
    { a with load := none, loadFree := τ + 1
             slotWritten := op.slotsWritten.foldl (fun v b => setTick v b (τ + 1)) a.slotWritten }

/-- Commands issued before c that have not started and that their lease admits. -/
def beforeCmd (cs : List ArrCmd) (c : ArrCmd) : List ArrCmd := cs.filter fun x => x.before c && !x.started && x.admitted
def nextOf (cs : List ArrCmd) (p : ArrOp → Bool) : Option ArrCmd := cs.find? fun c => !c.started && c.admitted && p c.op
def markStarted (cs : List ArrCmd) (id : Nat) : List ArrCmd := cs.map fun c => if c.id = id then { c with started := true } else c

/-- The start tick of a command in strict mode, where every start is known at issue (R250): the channels run forward from
the tick after issue until it starts; `ph` is the refresh phase at τ (notes/assumptions/22.md). -/
def ArrayState.predict (k : Nat) (a : ArrayState) (cs : List ArrCmd) (id τ ph : Nat) : Option Nat :=
  match k with
  | 0 => none
  | k + 1 =>
    let comp := match nextOf cs ArrOp.isCompute with
      | some c =>
        let f := c.op.foot (c.op.prologue ph)
        if a.computeReady (beforeCmd cs c) c f τ then some (c, f) else none
      | none => none
    let (a, cs1, hit) := match comp with
      | some (c, f) => (a.bookCompute c f τ, markStarted cs c.id, c.id == id)
      | none => (a, cs, false)
    if hit then some τ
    else
      let ld := match nextOf cs1 ArrOp.isLoad with
        | some c => if a.loadReady (beforeCmd cs1 c) c τ then some c else none
        | none => none
      let (a, cs2, hit) := match ld with
        | some c => (a.bookLoad c τ, markStarted cs1 c.id, c.id == id)
        | none => (a, cs1, false)
      if hit then some τ
      else
        let a := match a.load with
          | some p => match cs2.find? (·.id == p.id) with
            | some c => if a.canRead c.op p.next ph τ ∧ p.wait ≤ τ then a.readChunk c.op p τ else a
            | none => a
          | none => a
        ArrayState.predict k a cs2 id (τ + 1) ((ph + 1) % 32768)

/-- The start tick of a command that enters the queues of an array now. No command takes 100,000 ticks. -/
def Hw.startOf (h : Hw) (slot a : Nat) (cmd : ArrCmd) : Option Nat :=
  let cs := h.arrCmds slot a ++ [cmd]
  (h.arr slot a).predict (100000 * (cs.length + 1)) cs cmd.id (h.ptick slot + 1) (h.phaseAt slot (h.ptick slot + 1))

/-- The bank whose window a weight-store read of chunks from s on would meet. -/
def Hw.collision (h : Hw) (slot s : Nat) (chunks : List (List Nat)) : Option Nat :=
  ((List.range chunks.length).zip chunks).findSome? fun x => x.2.find? (inWindow (h.phaseAt slot (s + x.1)))

/-! ### Leases (R252, R349) -/

def leaseCode : Lease → Nat
  | .none => 0 | .pend => 1 | .held => 2 | .expd => 3
def Hw.leaseOf (h : Hw) : Lease := (h.core (coreOf h.cur)).lease
def Hw.leaseFault (h : Hw) : Hw := h.trap { cause := Cause.lease, info := leaseCode h.leaseOf }
/-- The array commands' lease check. -/
def Hw.leaseBad (h : Hw) : Bool := if h.strict then h.leaseOf != .held else h.leaseOf == .none

/-- The clock in which a lease's ticks are counted. -/
def Hw.leaseClock (h : Hw) (slot : Nat) : Nat :=
  if h.strictOf (h.partOf slot) then (h.part (h.partOf slot)).stick else h.wtick

/-- The requests of a tick at an array: strand and destination. -/
def Hw.leaseAsks (h : Hw) (slot a : Nat) : List (Nat × XReg) :=
  h.pend.filterMap fun p => match p.act with
    | .leaseAsk k d => if slotOf k = slot ∧ arrOf (coreOf k) = a then some (k, d) else none
    | _ => none

/-- Requests of one tick are settled when every strand has issued (R252: the lease order decides between them). In strict
mode the words `lease` of a tick issue last, in lease order (`turn`), so that the first takes the lease and every other core's
faults at its issue. -/
def execLease (d : XReg) (s : State) : Out :=
  issue s fun _ h =>
    let c := coreOf h.cur
    if h.leaseOf = .held then h.result d 2 0 1
    else if h.strict ∧ ((h.arr (slotOf h.cur) (arrOf c)).holder.isSome ∨
        (h.leaseAsks (slotOf h.cur) (arrOf c)).any (fun r => coreOf r.1 != c) = true) then h.leaseFault
    else (h.later 0 (.leaseAsk h.cur d)).advance

def execLrel (s : State) : Out :=
  issue s fun _ h =>
    let c := coreOf h.cur
    if h.leaseOf = .held then (h.later 1 (.leaseTo c .none)).advance
    else (h.updCore c fun x => { x with lease := .none }).advance

/-- The lease order from a pointer (R349): core positions of the array. -/
def leaseOrder (slot a ptr : Nat) : List Nat := [1, 2, 3, 4].map fun k => slot * 32 + 4 * a + (ptr + k) % 4

/-- A request of queued mode that did not get the lease: PEND. -/
def Hw.loseLease (h : Hw) (r : Nat × XReg) : Hw :=
  let g := h.updCore (coreOf r.1) fun x => { x with lease := .pend }
  if r.2 = 0 then g else g.pendFor r.1 1 (.x r.1 (h.strand r.1).sup r.2 1)

/-- A free array grants its lease to the first core in lease order that is pending or asks in this tick; the other requests
of the tick lose. -/
def execLeaseGrant (slot arr : Nat) (s : State) : Out :=
  atSlot slot s fun s => s.updHw fun h =>
    let asks := h.leaseAsks slot arr
    let st := h.arr slot arr
    let h0 := { h with pend := h.pend.filter fun p => match p.act with
      | .leaseAsk k _ => !(slotOf k == slot && arrOf (coreOf k) == arr) | _ => true }
    let win := if st.holder.isSome then none
      else (leaseOrder slot arr st.ptr).find? fun c => (h.core c).lease == .pend || asks.any fun r => coreOf r.1 == c
    match win with
    | none => asks.foldl Hw.loseLease h0
    | some c =>
      let h1 := ((h0.updArr slot arr fun a => { a with holder := some c, ptr := c % 4 }).updCore c fun x =>
        { x with granted := h.leaseClock slot, used := 0 }).pendFor (c * 4) 1 (.leaseTo c .held)
      asks.foldl (fun g r =>
        if coreOf r.1 = c then (if r.2 = 0 then g else g.pendFor r.1 1 (.x r.1 (g.strand r.1).sup r.2 2)) else g.loseLease r) h1

/-- A lease ends, or in queued mode with no other core pending, is renewed (R252). -/
def execLeaseExpiry (core : Nat) (s : State) : Out :=
  happen s fun s => s.updHw fun h =>
    let slot := core / 32
    let a := arrOf core
    if (h.arr slot a).holder ≠ some core then h
    else if h.strictOf (h.partOf slot) = false ∧ (arrCores slot a).all (fun c => c == core || (h.core c).lease != .pend) = true then
      h.updCore core fun x => { x with used := 0, granted := h.wtick }
    else (h.updCore core fun x => { x with lease := .expd }).updArr slot a fun x => { x with holder := none }

/-! ### Issuing an array command (R249) -/

/-- Effects at issue on the tags of rows. -/
def ArrayState.tagRows (a : ArrayState) (ar n : Nat) (t : Tag) : ArrayState :=
  { a with rowTag := (List.range n).foldl (fun l i => amSet l (ar + i) t) a.rowTag }
/-- One more command in the window of the current tile (notes/assumptions/38.md). -/
def ArrayState.inTile (a : ArrayState) : ArrayState :=
  { a with tileIssued := a.tileIssued.map fun t => { t with count := t.count + 1 } }

/-- The window of the cuff (R262): the 65th command after a marker, or rows written outside the current tile. -/
def ArrayState.windowBad (a : ArrayState) (ar n : Nat) (writes : Bool) : Bool :=
  match a.tileIssued with
  | none => writes
  | some t => decide (64 ≤ t.count) || (writes && (decide (ar < t.ar) || decide (t.ar + t.m < ar + n)))

/-- A region that the window has sampled (R408); one that goes on where the last one ended joins it. -/
def Tile.sampled (t : Tile) (k n : Nat) : Tile :=
  match t.reads with
  | [] => { t with reads := [(k, n)] }
  | (j, l) :: rest => if j + l = k then { t with reads := (j, l + n) :: rest } else { t with reads := (k, n) :: (j, l) :: rest }

def Hw.myArr (h : Hw) : ArrayState := h.arr (slotOf h.cur) (arrOf (coreOf h.cur))
def Hw.queueFull (h : Hw) : Bool := decide (8 ≤ (h.core (coreOf h.cur)).aq.length)

/-- Tiles of an F4x8 panel. -/
def panelTiles (lt : Bool) (nt r : Nat) : Nat := if lt then (nt + 63) / 64 * ((r + 255) / 256) else 4

/-- The rank of the last mlat issued to an array. -/
def ArrayState.rank (a : ArrayState) : Nat := (descOf (a.latentIssued.getD 0)).r

/-- The brim slot and the entry through which a virtual address is translated now. -/
def Hw.firstPage (h : Hw) (slot addr : Nat) : Option (Nat × BrimEntry) :=
  match (h.die slot).translate addr with
  | .ok (i, _) => some (i, (h.die slot).brimAt i)
  | .error _ => none

/-- The command as it would enter the queue, with what its B slot holds at issue (R249), and what its panel is at issue (R253). -/
def Hw.newCmd (h : Hw) (op : ArrOp) : ArrCmd :=
  let sl := h.myArr.slotIssued.get (Fin.ofNat 2 (op.slotsRead.headD 0))
  let c : ArrCmd :=
    { id := h.fresh, strand := h.cur, issued := h.ptick (slotOf h.cur), op := op, admitted := h.leaseOf == .held
      bt := sl.1, bnt := sl.2.2 }
  match op with
  | .mbld src _ addr _ lt nt _ _ _ =>
    { c with tiles := panelTiles lt nt h.myArr.rank, first := if src = 2 then h.firstPage (slotOf h.cur) addr else none }
  | _ => c

/-- A global panel load starts: untimed work under its token (R253, R254). -/
def Hw.startPanel (h : Hw) (c : ArrCmd) : Hw :=
  match c.op with
  | .mbld _ _ addr _ _ _ _ tok _ =>
    let k := c.strand
    let u : Untimed :=
      { id := h.fresh, strand := k, sup := (h.strand k).sup, tok := tok
        op := .panel (slotOf k) (arrOf (coreOf k)) c.id c.op, va := addr, pieces := [], issued := h.wtick
        due := h.wtick + 1 + Config.freeLatency h.fresh, after := (h.strand k).fencedR
        afterSeq := (h.strand k).fencedSeqR, afterAcq := (h.strand k).acqSeq
        seg := (h.part (h.partOf (slotOf k))).seg }
    ({ h with untimed := h.untimed ++ [u], fresh := h.fresh + 1 }).updCmd (slotOf k) (arrOf (coreOf k)) c.id fun x =>
      { x with started := true }
  | _ => h

/-- Step 4 and the entry into the queue; the effects at issue are `mark` (notes/assumptions/36.md). -/
def Hw.enqueue (h : Hw) (op : ArrOp) (mark : ArrayState → ArrayState) : Hw :=
  if h.queueFull then h.block 0xFFFF
  else
    let c := coreOf h.cur
    let cmd := h.newCmd op
    let g := (h.updCore c fun x =>
      { x with
        aq := x.aq ++ [cmd]
        used := if cmd.admitted then x.used + 1 else x.used
        lease := if x.lease = .expd then .pend else x.lease }).updArr (slotOf h.cur) (arrOf c) mark
    let g := { g with fresh := h.fresh + 1 }
    (if op.isGlobal && cmd.admitted then g.startPanel cmd else g).advance

/-- The refresh-collision trap of strict mode, step 5, when the command's reads from its start on would meet a window. -/
def Hw.enqueueChecked (h : Hw) (op : ArrOp) (chunks : List (List Nat)) (mark : ArrayState → ArrayState) : Hw :=
  if h.queueFull ∨ h.strict = false then h.enqueue op mark
  else
    let slot := slotOf h.cur
    let cmd := h.newCmd op
    match h.startOf slot (arrOf (coreOf h.cur)) cmd with
    | none => h.enqueue op mark
    | some s =>
      match h.collision slot s chunks with
      | some b => h.trap { cause := Cause.refresh, info := b }
      | none => h.enqueue op mark

/-! ### Ranges (R248) -/

def rangeStart (x : W64) : Nat := x.toNat % 4096
def rangeCount (x : W64) : Nat := x.toNat / 65536 % 8192
/-- A row range of n view rows; rows of F64 come in pairs. -/
def rangeBad (ar n : Nat) (pairs : Bool) : Bool :=
  n == 0 || decide (4096 < ar + n) || (pairs && (ar % 2 == 1 || n % 2 == 1))
def ArrayState.tagAt (a : ArrayState) (r : Nat) : Tag := amGet a.rowTag r 0
def ArrayState.tagsIn (a : ArrayState) (ar n : Nat) : List Tag := (List.range (Nat.min n (4096 - ar))).map fun i => a.tagAt (ar + i)

/-- Rows of a command that gives them a tag come in pairs when they hold F64, or take it (R248). -/
def ArrayState.pairs (a : ArrayState) (ar n : Nat) (t : Tag) : Bool := t == tF64 || (a.tagsIn ar n).any (· == tF64)

/-- A scratchpad region of an array command: 64-byte aligned, within the scratchpad. -/
def regionBad (xa : W64) (n : Nat) : Bool := xa.toNat % 64 != 0 || decide (Config.spadSize < xa.toNat + n)

/-- GE and GRP of a word: none, or the group; a group outside the team's GRPSET is refused. -/
def geOf (ge : Bool) (grp : BitVec 8) : Option Nat := if ge then some grp.toNat else none
def Hw.geBad (h : Hw) (ge : Bool) (grp : BitVec 8) : Bool := ge && ((h.core (coreOf h.cur)).grp grp.toNat).isNone

/-! ### mbld and mlat (R253-R255) -/

def panelSize (t : Tag) : Nat :=
  if t = tF32 then 262144 else if t = tB16 ∨ t = tH16 ∨ t = tF64 then 131072 else 65536

/-- Bytes of n consecutive tiles at a key. -/
def tilesBytes (m : Memory) (n key : Nat) : Nat :=
  match n with
  | 0 => 0
  | n + 1 => let b := tileSize (Memory.read m (key + 1)).toNat; b + tilesBytes m n (key + b)

/-! ### Where a global panel load reads (R253, R254, R380) -/

/-- The M-core's die, which translated the first byte at issue, with the entry found there; and the NB die whose engine translates
each later page: the one that holds the first byte, or the lowest-numbered of the partition (DESIGN CHOICE, notes/assumptions/92.md). -/
structure PanelSrc where
  slot : Nat
  nb : Nat
  first : Option (Nat × BrimEntry)

def Hw.panelSrc (h : Hw) (slot addr : Nat) (first : Option (Nat × BrimEntry)) : PanelSrc :=
  let home := first.bind fun f => match (h.die slot).translate addr with
    | .ok (_, off) => ((h.die slot).placeFrame f.2 false off).die
    | .error _ => none
  let isNb := fun (d : Nat) => Config.slotType d == .nb
  { slot := slot, first := first
    nb := match home.filter isNb with
      | some d => d
      | none => ((h.diesOf (h.partOf slot)).find? isNb).getD slot }

/-- The die that translates an address of a panel; and where the address lies, or the fault of its page. -/
def Hw.panelLine (h : Hw) (s : PanelSrc) (va : Nat) : Nat × Except Nat Place :=
  let here := s.first.bind fun f => match (h.die s.slot).translate va with
    | .ok (i, off) => if i = f.1 then some (f.2, off) else none
    | .error _ => none
  match here with
  | some (e, off) => (s.slot, .ok (h.placed ((h.die s.slot).placeFrame e false off)))
  | none => (s.nb, match (h.die s.nb).piece va .read false with
    | .ok p => .ok (h.placed p)
    | .error c => .error c)

/-- The error of a read of one piece: the piece fails at its die, or holds a word that cannot be read. -/
def Hw.readError (h : Hw) (p src : Nat) (x : Place × Nat) : Option Nat :=
  match h.pieceFails p src x.1 with
  | some c => some c
  | none => if h.badAt x.1.key x.2 then some 0x0403 else none

/-- The pieces of consecutive lines of a panel that can be read, up to the first that cannot; that one, where it has a place; and its
code. -/
def Hw.panelRun (h : Hw) (s : PanelSrc) : List (Nat × Nat) → List (Place × Nat) × List (Place × Nat) × Option Nat
  | [] => ([], [], none)
  | (va, n) :: t =>
    match (h.panelLine s va).2 with
    | .error c => ([], [], some c)
    | .ok pl =>
      match h.readError (h.partOf s.slot) s.nb (pl, n) with
      | some c => ([], [(pl, n)], some c)
      | none => let r := Hw.panelRun h s t; ((pl, n) :: r.1, r.2)

/-- Bytes of n consecutive tiles of a panel in global memory, by their headers; a tile whose header cannot be read counts as the
smallest. -/
def Hw.panelTileBytes (m : Memory) (h : Hw) (s : PanelSrc) (n va : Nat) : Nat :=
  match n with
  | 0 => 0
  | n + 1 =>
    let sz := tileSize (match h.panelRun s [(va + 1, 1)] with
      | ((pl, _) :: _, _) => (Memory.read m pl.key).toNat
      | _ => 0)
    sz + Hw.panelTileBytes m h s n (va + sz)

/-- Bytes of a global panel as it stands now. -/
def Hw.panelBytes (m : Memory) (h : Hw) (s : PanelSrc) (tiles addr : Nat) (t : Tag) (bytes : Nat) : Nat :=
  if t = tF4 then h.panelTileBytes m s tiles addr else bytes

def execMbld (a b : XReg) (src : BitVec 2) (bs lt : Bool) (t : Tag) (tok : BitVec 3) (grp : BitVec 8) (ge : Bool)
    (s : State) : Out :=
  issue s fun m h =>
    let arr := h.myArr
    let d := descOf (arr.latentIssued.getD 0)
    let xa := h.rx a
    let nt := if lt then (h.rx b).toNat % 512 else 0
    let sr := src.toNat
    if h.leaseBad then h.leaseFault
    else if lt ∧ (arr.latentIssued.isNone ∨ d.tag ≠ t) then h.tileFault
    else
      let slot := slotOf h.cur
      let key := if sr = 0 then spadKey (coreOf h.cur) xa.toNat else weightKey slot xa.toNat
      let inSpace := decide (xa.toNat < (if sr = 0 then Config.spadSize else Config.weightSize))
      let bytes :=
        if t = tF4 then
          (if sr = 2 then h.panelTileBytes m (h.panelSrc slot xa.toNat (h.firstPage slot xa.toNat)) (panelTiles lt nt d.r) xa.toNat
           else if inSpace = false then 0 else tilesBytes m (panelTiles lt nt d.r) key)
        else if lt then nt * (if d.r ≤ 256 then 256 else 512) else panelSize t
      let bad := (lt && (nt == 0 || decide (256 < nt))) || h.geBad ge grp
      let op := ArrOp.mbld sr bs.toNat xa.toNat t lt nt bytes (tokOf tok) (geOf ge grp)
      let mark := fun (x : ArrayState) => { x with slotIssued := x.slotIssued.set (Fin.ofNat 2 bs.toNat) (t, lt, nt) }
      if sr = 2 then
        match (h.die slot).pieces xa.toNat 1 .read false with
        | .error c => h.translationTrap c xa
        | .ok _ =>
          if xa.toNat % 64 ≠ 0 ∨ 2 ^ 56 < xa.toNat + bytes ∨ bad = true then h.accessFault xa
          else if h.queueFull then h.block 0xFFFF
          else if h.tokenFull (tokOf tok) then h.block (0xFFF0 + (tokOf tok).val)
          else (h.upd fun st => st.updToken st.sup (tokOf tok) Token.add).enqueue op mark
      else if sr = 0 then
        if regionBad xa bytes ∨ inSpace = false ∨ bad = true then h.accessFault xa else h.enqueue op mark
      else if xa.toNat % 256 ≠ 0 ∨ Config.weightSize < xa.toNat + bytes ∨ inSpace = false ∨ (h.die slot).loadWindow = true ∨
          bad = true then h.accessFault xa
      else
        h.enqueueChecked op ((List.range op.chunkCount).map fun j =>
          banksOf (xa.toNat + 8192 * j) (Nat.min 8192 (bytes - 8192 * j))) mark

def execMlat (a : XReg) (disp : BitVec 32) (s : State) : Out :=
  issue s fun m h =>
    let ea := h.rx a + sext 32 disp
    if h.leaseBad then h.leaseFault
    else if ea.toNat % 16 ≠ 0 ∨ Config.spadSize ≤ ea.toNat then h.accessFault ea
    else if h.portBusy then h.occupied (h.stuck h.st.units.port)
    else if h.badSpad ea.toNat 16 then h.uncorrectable ea.toNat 16
    else
      let v := BitVec.ofNat 128 (Memory.readNat m (spadKey (coreOf h.cur) ea.toNat) 16)
      if (descOf v).ok = false then h.tileFault
      else if h.queueFull then h.block 0xFFFF
      else ((h.correctSpad ea.toNat 16 1).1.takePort 1).enqueue (.mlat v) fun x =>
        { x with
          latentIssued := some v
          tileIssued := x.tileIssued.map (·.sampled (spadKey (coreOf h.cur) ea.toNat) 16)
          tile := x.tile.map fun t => if x.tileIssued.any (·.id == t.id) then t.sampled (spadKey (coreOf h.cur) ea.toNat) 16 else t }

/-! ### Compute commands at issue (R256-R262) -/

/-- The B slot that a row format needs. -/
def slotFits (fmt st : Tag) : Bool := if fmt = tE4 ∨ fmt = tE5 then st == tE4 || st == tE5 else st == fmt

/-- A new progress record (R263). -/
def Core.newProgress (c : Core) (id m : Nat) : Core :=
  { c with progress := { seq := c.progress.seq + 1, rows := m }, progId := id }

def execMmma (a r : XReg) (bs clr : Bool) (t : Tag) (lat : BitVec 3) (nh ge : Bool) (grp hd : BitVec 8)
    (p : Option Prefix) (s : State) : Out :=
  issue s fun _ h =>
    let arr := h.myArr
    let desc := arr.latentIssued.getD 0
    let d := descOf desc
    let sl := arr.slotIssued.get (Fin.ofNat 2 bs.toNat)
    let ar := rangeStart (h.rx r)
    let m := rangeCount (h.rx r)
    let per := if t = tF64 then 2 else 1
    let rt := accTag t
    let xa := h.rx a
    let fmtBad :=
      if lat = 0 then sl.2.1 || !slotFits t sl.1
      else arr.latentIssued.isNone || !sl.2.1 || t != tB16 || sl.1 != d.tag
    if h.leaseBad then h.leaseFault
    else if fmtBad ∨ (clr = false ∧ (arr.tagsIn ar (per * m)).any (fun x => x != 0 && x != rt) = true) then h.tileFault
    else if rangeBad ar (per * m) (t == tF64) ∨ xa.toNat % 64 ≠ 0 ∨ Config.spadSize ≤ xa.toNat ∨
        Config.spadSize < xa.toNat + mulBytes t * m ∨ h.geBad ge grp = true ∨ arr.windowBad ar (per * m) true = true then
      h.accessFault xa
    else if h.queueFull then h.block 0xFFFF
    else
      let sat := match p with | some q => q.sat == 1 | none => false
      let op := ArrOp.mmma bs.toNat xa.toNat ar m t lat.toNat (if lat = 0 then 0 else desc) nh clr hd.toNat sat (geOf ge grp)
      let g := h.updCore (coreOf h.cur) fun c => c.newProgress h.fresh m
      let mark := fun (x : ArrayState) => (x.tagRows ar (per * m) rt).inTile
      if lat = 0 then g.enqueue op mark
      else
        match (if h.strict then
            (h.startOf (slotOf h.cur) (arrOf (coreOf h.cur)) (h.newCmd op)).bind fun s => h.collision (slotOf h.cur) s op.chunks
          else none) with
        | some b => h.trap { cause := Cause.refresh, info := b }
        | none => g.enqueue op mark

/-- Row tag that a TAG field of mzero and mwrite sets. -/
def rowTagOf (t : Tag) : Tag := t

def execMzero (r : XReg) (t : Tag) (s : State) : Out :=
  issue s fun _ h =>
    let ar := rangeStart (h.rx r)
    let m := rangeCount (h.rx r)
    if h.leaseBad then h.leaseFault
    else if rangeBad ar m (h.myArr.pairs ar m t) ∨ h.myArr.windowBad ar m true = true then h.fault Cause.access
    else h.enqueue (.mzero ar m t) fun x => (x.tagRows ar m t).inTile

def execMwrite (a r : XReg) (t : Tag) (s : State) : Out :=
  issue s fun _ h =>
    let ar := rangeStart (h.rx r)
    let m := rangeCount (h.rx r)
    let xa := h.rx a
    if h.leaseBad then h.leaseFault
    else if rangeBad ar m (h.myArr.pairs ar m t) ∨ regionBad xa (1024 * m) = true ∨ h.myArr.windowBad ar m true = true then h.accessFault xa
    else h.enqueue (.mwrite xa.toNat ar m t) fun x => (x.tagRows ar m t).inTile

def execMscale (a r : XReg) (p : Option Prefix) (s : State) : Out :=
  issue s fun _ h =>
    let ar := rangeStart (h.rx r)
    let m := rangeCount (h.rx r)
    let xa := h.rx a
    let arr := h.myArr
    if h.leaseBad then h.leaseFault
    else if (arr.tagsIn ar m).any (fun t => t != tF32 && t != tI32) then h.tileFault
    else if rangeBad ar m false ∨ regionBad xa 1024 = true ∨ arr.windowBad ar m true = true then h.accessFault xa
    else if h.queueFull then h.block 0xFFFF
    else
      let mo := h.mods p
      let seed := h.st.srseed
      (h.setSeed (drawsIf mo (256 * m) seed.toNat).2).enqueue (.mscale xa.toNat ar m (arr.tagsIn ar m) mo seed) fun x => (x.tagRows ar m tF32).inTile

/-- The pairs of row tag and TAG that mread converts (R261). -/
def readPair (rt t : Tag) : Bool :=
  if rt = tF32 then t == tF32 || t == tB16 || t == tH16 || t == tE4 || t == tE5
  else if rt = tI32 then t == tI32 || t == tI16 || t == tI8
  else if rt = tF64 then t == tF64 || t == tF32
  else false
/-- Elements that an mread of m view rows writes: one draw each (R261). -/
def readDraws (rt : Tag) (m : Nat) : Nat := if rt = tF64 then 128 * m else 256 * m

/-- See R261. The pair of tags is judged by row ar, before the range is checked (R249), with m = 0 too, where the manual names no tag
for an empty range (DESIGN CHOICE, notes/assumptions/92.md). -/
def execMread (a r : XReg) (t : Tag) (o g : Bool) (p : Option Prefix) (s : State) : Out :=
  issue s fun _ h =>
    let ar := rangeStart (h.rx r)
    let m := rangeCount (h.rx r)
    let xa := h.rx a
    let arr := h.myArr
    let rt := arr.tagAt ar
    if h.leaseBad then h.leaseFault
    else if readPair rt t = false ∨ (arr.tagsIn ar m).any (· != rt) = true then h.tileFault
    else if rangeBad ar m (rt == tF64) ∨ regionBad xa (m * readBytes rt t) = true ∨ arr.windowBad ar m false = true then
      h.accessFault xa
    else if h.queueFull then h.block 0xFFFF
    else
      let mo := h.mods p
      let seed := h.st.srseed
      (h.setSeed (drawsIf mo (readDraws rt m) seed.toNat).2).enqueue (.mread xa.toNat ar m rt t o g mo seed) ArrayState.inTile

def execMtile (r : XReg) (f : Bool) (s : State) : Out :=
  issue s fun _ h =>
    let ar := rangeStart (h.rx r)
    let m := rangeCount (h.rx r)
    let arr := h.myArr
    if h.leaseBad then h.leaseFault
    else if rangeBad ar m ((arr.tagsIn ar m).any (· == tF64)) ∨ (f = false ∧ 64 < m) then h.fault Cause.access
    else h.enqueue (.mtile ar m (!f)) fun x => { x with tileIssued := some { ar := ar, m := m, keep := !f, id := h.fresh } }

/-! ### Status (R263, R264) -/

def execMprog (d : XReg) (s : State) : Out :=
  issue s fun _ h => (h.later 2 (.mprog h.cur h.st.sup d)).advance
def execMstat (d : XReg) (c : Bool) (s : State) : Out :=
  issue s fun _ h => (h.later 2 (.mstat h.cur h.st.sup d c)).advance

def Core.progressReg (c : Core) : Nat :=
  c.progress.seq.toNat * 2 ^ 32 + c.progress.run.toNat * 2 ^ 31 + c.progress.err.toNat * 2 ^ 30 + c.progress.done * 2 ^ 16 +
    c.progress.rows
def Core.mstatReg (c : Core) (core : Nat) : Nat :=
  c.mcode.toNat * 2 ^ 48 + c.merr.toNat * 2 ^ 47 + c.aq.length * 2 ^ 40 + leaseCode c.lease * 2 ^ 38 + Nat.min c.used 32 * 2 ^ 32 +
    arrOf core * 2 ^ 16 + c.mexc.toNat

/-- A status lands in a scalar register, and is cleared. -/
def Hw.mstatValue (h : Hw) (strand : Nat) : W64 := BitVec.ofNat 64 ((h.core (coreOf strand)).mstatReg (coreOf strand))
/-- What `clr` does (R264). -/
def Core.clearStatus (x : Core) : Core := { x with mcode := 0, merr := false, mexc := 0 }
/-- What `mprog` returns: the record of the newest mmma, as the landings of the tick leave it (R263; DESIGN CHOICE, notes/assumptions/76.md). -/
def Hw.mprogValue (h : Hw) (strand : Nat) : W64 := BitVec.ofNat 64 (h.core (coreOf strand)).progressReg

/-! ### Operand-fetch faults (R265) -/

/-- The trap of an operand-fetch code at the next drain: cause, code, INFO. -/
def fetchTrap (code step : Nat) : BitVec 8 × BitVec 16 × BitVec 16 :=
  let c : BitVec 8 :=
    if code = 0x211 ∨ code = 0x221 then Cause.format
    else if code = 0x214 ∨ code = 0x224 then Cause.access else Cause.thimble
  (c, BitVec.ofNat 16 code, if c = Cause.thimble then BitVec.ofNat 16 step else 0)

def Hw.operandFault (h : Hw) (strand : Nat) (ge : Option Nat) (code step : Nat) : Hw :=
  let c := coreOf strand
  let g := h.updCore c fun x => { x with mcode := if x.merr then x.mcode else BitVec.ofNat 16 code, merr := true }
  match ge with
  | some n => g.at g.wtick (.barrierErrorCompletion (g.partOf (slotOf strand)) n code)
  | none => g.updStrand strand fun st =>
    { st with owed := match st.owed with | some o => some o | none => some (fetchTrap code step) }

/-- Rows of a command in the pipeline. -/
def Hw.landing (h : Hw) (slot a id : Nat) : Bool :=
  h.pend.any fun p => match p.act with | .rowLand s b _ i _ _ _ _ _ => s == slot && b == a && i == id | _ => false

/-- A command stops: no further row enters, and its progress record shows ERR. -/
def Hw.stopCmd (h : Hw) (slot a : Nat) (c : ArrCmd) (code step : Nat) : Hw :=
  let ge := match c.op with
    | .mmma _ _ _ _ _ _ _ _ _ _ _ ge => ge
    | .mbld _ _ _ _ _ _ _ _ ge => ge
    | _ => none
  let g := (h.updCmd slot a c.id fun x => { x with stopped := true }).operandFault c.strand ge code step
  g.updCore (coreOf c.strand) fun x =>
    if x.progId = c.id ∧ c.op.isCompute = true then
      { x with progress := { x.progress with err := true, run := g.landing slot a c.id } } else x

/-! ### B slots and panels -/

def Hw.slotB (h : Hw) (slot a bs : Nat) : BSlot := (h.arr slot a).slots.get (Fin.ofNat 2 bs)
def Hw.updSlot (h : Hw) (slot a bs : Nat) (f : BSlot → BSlot) : Hw :=
  h.updArr slot a fun x => { x with slots := x.slots.set (Fin.ofNat 2 bs) (f (x.slots.get (Fin.ofNat 2 bs))) }
/-- The bytes of a slot from an offset on. -/
def BSlot.rd (b : BSlot) (off i : Nat) : Byte := Memory.read b.data (off + i)
def BSlot.write (b : BSlot) (off : Nat) (bs : List Byte) : BSlot := { b with data := Memory.writeBytes b.data off bs }

/-- Offsets of consecutive tiles in a slot. -/
def BSlot.tileAt (b : BSlot) (q : Nat) : Nat :=
  match q with
  | 0 => 0
  | q + 1 => let o := BSlot.tileAt b q; o + tileSize (b.rd o 1).toNat

/-- The first check of R60 that fails among the tiles of a slot that the bytes from `off` on complete. -/
def BSlot.failing (b : BSlot) (n off len : Nat) : Option Nat :=
  ((List.range n).filter fun q => decide (off < b.tileAt (q + 1)) && decide (b.tileAt (q + 1) ≤ off + len)).findSome? fun q =>
    let st := tileCheck (b.rd (b.tileAt q))
    if st = 0 then none else some st

/-- A B slot is written by a global load: a tile whose window has read it is spoiled (R408). -/
def Hw.spoilSlot (h : Hw) (slot a bs : Nat) : Hw :=
  let hit := fun (t : Tile) => { t with spoiled := t.spoiled || t.slots.contains bs }
  h.updArr slot a fun x => { x with tile := x.tile.map hit, tileIssued := x.tileIssued.map hit }

/-- Bytes of a panel land in a slot; the tiles that they complete are checked under R60, and the first failure makes the slot
invalid and stops the load (R254, R265). -/
def Hw.landChunk (h : Hw) (slot a id bs off : Nat) (bytes : List Byte) : Hw :=
  let g := h.updSlot slot a bs fun b => b.write off bytes
  match h.cmd? slot a id with
  | none => g
  | some c =>
    match c.op with
    | .mbld _ _ _ t _ _ _ _ _ =>
      let b := g.slotB slot a bs
      if t ≠ tF4 ∨ b.valid = false then g
      else
        match b.failing c.tiles off bytes.length with
        | none => g
        | some st =>
          (((g.updSlot slot a bs fun b => { b with valid := false }).stopCmd slot a c (0x220 + Nat.min st 3) st).updArr slot a
            fun x => if (match x.load with | some p => p.id == id | none => false) then
                { x with load := none, loadFree := h.ptick slot, slotWritten := setTick x.slotWritten bs (h.ptick slot) }
              else x).dropCmd slot a id
    | _ => g

/-! ### Rows of a matrix multiply (R257-R259) -/

/-- Output column n of the array as an operand: row n of an ordinary panel. -/
def BSlot.column (b : BSlot) (n : Nat) : KRow :=
  if b.tag = tF4 then
    let rd := b.rd (b.tileAt (n / 64))
    tileRow rd rd (n % 64)
  else
    let k := if b.tag = tF64 then 128 else 256
    let w := elemWidth b.tag
    floatRow (b.rd (n * k * (w / 8))) ((fmtOf b.tag).getD b32) k

/-- cval(n, ρ) of a latent panel (R259). -/
def BSlot.cval (b : BSlot) (r n ρ : Nat) : FVal :=
  if b.nt ≤ n ∨ r ≤ ρ then .fin false 0 0
  else if b.tag = tF4 then tileVal (b.rd (b.tileAt (n / 64 * ((r + 255) / 256) + ρ / 256))) (n % 64) (ρ % 256)
  else e4m3.unpack (b.rd (n * (if r ≤ 256 then 256 else 512)) ρ).toNat

/-- W[ρ][c] of the slice (R258). -/
def sliceVal (m : Memory) (slot lat : Nat) (d : Desc) (hd ρ c : Nat) : FVal :=
  if d.h * d.d ≤ hd * d.d + c then .fin false 0 0
  else bf16.unpack (Memory.readNat m (weightKey slot (sliceBase lat d hd + 2 * (d.h * d.d * ρ + c))) 2)

/-- The terms y of a latent row, for each column, part after part; and the flags of the parts that are shared. -/
def latentRow (m : Memory) (slot lat : Nat) (d : Desc) (hd : Nat) (b : BSlot) (row : List FVal) :
    List (Nat × FlagBits) × Nat :=
  let r := d.r
  let w := fun ρ c => sliceVal m slot lat d hd ρ c
  let ranks := List.range r
  let idx := List.range 256
  if lat = 1 ∨ lat = 2 then
    let cols := idx.map fun n =>
      let bx := idx.map fun k =>
        if lat = 1 then xsumR bf16 (ranks.map fun ρ => (b.cval r n ρ, w ρ k))
        else xsumR bf16 (ranks.map fun ρ => (b.cval r k ρ, w ρ n))
      let y := kStepY 64 b32 { vals := row } { vals := bx.map fun x => bf16.unpack x.1 }
      (y.1, bx.foldl (fun f x => f ||| x.2) y.2)
    (cols, 1)
  else if lat = 3 then
    let p := (r + 255) / 256
    let q := (List.range (256 * p)).map fun ρ => if ρ < r then ksumB row (idx.map (w ρ)) else (0, 0)
    let fl := q.foldl (fun f x => f ||| x.2) (0 : FlagBits)
    let qv := q.map fun x => bf16.unpack x.1
    ((List.range p).flatMap fun c => idx.map fun n =>
      if b.nt ≤ n then (0, fl)
      else
        let y := kStepY 64 b32 { vals := (qv.drop (256 * c)).take 256 } { vals := idx.map fun k => b.cval r n (256 * c + k) }
        (y.1, y.2 ||| fl), p)
  else
    let z := ranks.map fun ρ => ksumB row (idx.map fun k => b.cval r k ρ)
    let fl := z.foldl (fun f x => f ||| x.2) (0 : FlagBits)
    (idx.map fun n =>
      let y := xsumR b32 ((z.zip ranks).map fun x => (bf16.unpack x.1.1, w x.2 n))
      (y.1, y.2 ||| fl), 1)

/-- A row of INT8. -/
def intCodes (rd : Nat → Byte) : List Nat := (List.range 256).map fun i => (rd i).toNat

/-- The bytes of a slot as a row meets them while a global load of the slot is in flight: each byte old or new, freely
(R254, notes/assumptions/24.md). -/
def Hw.mixedSlot (m : Memory) (h : Hw) (slot a bs : Nat) : BSlot :=
  let b := h.slotB slot a bs
  match h.untimed.find? fun u => (match u.op with
      | .panel s x _ (.mbld _ sb _ _ _ _ _ _ _) => s == slot && x == a && sb == bs | _ => false) with
  | none => b
  | some u =>
    match u.op with
    | .panel _ _ id (.mbld _ _ addr t _ _ bytes _ _) =>
      let c := h.cmd? slot a id
      let src := h.panelSrc slot addr (c.bind (·.first))
      let new := readPieces m (h.panelRun src (lines addr (h.panelBytes m src (match c with | some c => c.tiles | none => 0) addr t bytes))).1
      let w := Nat.max 1 (elemWidth t / 8)
      { b with data := (List.range new.length).foldl (fun dd i =>
          if Config.freeNat (h.fresh + i / w) % 2 = 0 then dd else Memory.write dd i (new.getD i 0)) b.data }
    | _ => b

/-! ### The cuff (R406-R408) -/

/-- The time that a cuff replay takes (R407). -/
def replayTicks (t : Tile) (now : Nat) : Nat := now - t.start + 34 + (if t.keep then (t.m - 1) / 4 + 1 else 0)

/-- Whether a pending act belongs to an array. -/
def PendAct.ofArray (a : PendAct) (slot arr : Nat) : Bool :=
  match a with
  | .chunk s ar _ _ _ _ _ | .tileHead s ar _ _ | .rowEnter s ar _ _ | .cmdDone s ar _ => s == slot && ar == arr
  | .rowLand s ar _ _ _ _ _ _ _ | .rowWork s ar _ _ _ _ _ | .rowSet s ar _ _ _ => s == slot && ar == arr
  | .latentLand s ar _ => s == slot && ar == arr
  | _ => false

/-- What an array has booked after tick τ moves on by n ticks. -/
def ArrayState.slip (a : ArrayState) (τ n : Nat) : ArrayState :=
  let on := fun (t : Nat) => if τ < t then t + n else t
  { a with
    compFree := Nat.max a.compFree τ + n, loadFree := Nat.max a.loadFree τ + n, portTicks := a.portTicks.map on
    slotWritten := a.slotWritten.map on, slotRead := a.slotRead.map on
    rowLand := a.rowLand.map fun r => (r.1, on r.2), rowRead := a.rowRead.map fun r => (r.1, on r.2)
    load := a.load.map fun p => { p with wait := Nat.max p.wait (τ + 1) + n }
    prologue := a.prologue.map fun p => { p with wait := Nat.max p.wait (τ + 1) + n } }

/-- An array's channels stand still for n ticks, in queued mode (R401, R402, R407). -/
def Hw.stallArray (h : Hw) (slot a n : Nat) : Hw :=
  let g : Hw := { h with pend := h.pend.map (fun (q : Pend) => if q.act.ofArray slot a then { q with due := q.due + n } else q) }
  g.updArr slot a fun x => x.slip (h.ptick slot) n

/-- A replay over sources that were written since they were sampled: the tile's rows, and what is on its way to them, hold free
values (R408). -/
def Hw.freeTile (h : Hw) (slot a : Nat) (t : Tile) : Hw :=
  let g := h.updArr slot a fun x => (List.range t.m).foldl (fun (x : ArrayState) i =>
    { x with acc := amSet x.acc (t.ar + i) { amGet x.acc (t.ar + i) {} with
        data := BitVec.ofNat 8192 (Config.freeOf h.fresh i) } }) x
  let free : Pend → PendAct := fun q => match q.act with
    | .rowLand s ar core id i op ys cnt sh =>
      if s = slot ∧ ar = a then
        .rowLand s ar core id i op ((List.range ys.length).map fun j => (Config.freeOf h.fresh (4096 + 1024 * q.seq + j), 0)) cnt sh
      else q.act
    | .rowSet s ar row tag data =>
      .rowSet s ar row tag (if s = slot ∧ ar = a then BitVec.ofNat 8192 (Config.freeOf h.fresh (4096 + 1024 * q.seq)) else data)
    | act => act
  ({ g with pend := g.pend.map fun (q : Pend) => { q with act := free q } }).used

/-- A second failure during the replay of a tile (R408). -/
def Hw.replayFailure (h : Hw) (slot : Nat) : Hw := h.machineCheck slot 0x0701 [h.partOf slot]

/-- A cuff replay begins, and takes the ticks of R407: a hold in strict mode; in queued mode the array's channels stall. Triggers of one
tick start one replay; one that comes later in it is a second failure (R408, notes/assumptions/38.md). -/
def Hw.replay (h : Hw) (slot a : Nat) : Hw × Nat :=
  match (h.arr slot a).tile with
  | none => (h, 0)
  | some t =>
    match t.replay with
    | some (w, n) => if w = h.wtick then (h, n) else (h.replayFailure slot, n)
    | none =>
      let n := replayTicks t (h.ptick slot)
      let p := h.partOf slot
      let g := h.updArr slot a fun x => { x with tile := some { t with replay := some (h.wtick, n) } }
      let g := if h.strictOf p then g.holdFor p n else g.stallArray slot a n
      ({ g with pend := g.pend ++ [⟨p, true, h.wtick + n, g.seq, .replayEnd slot a t.id⟩], seq := g.seq + 1 }, n)

/-- A cuff replay ends. It has rebuilt the tile from the cuff and run the window again, sampling its sources again: a region that now
holds a word that cannot be read is the second failure; otherwise it ends in the state of a fault-free run, the tile's rows under
fresh codes (R406, R407), or, where a source was written meanwhile, in free rows (R408). An upset that struck in the replay is free to
meet none of its rows, one whose lining diverges, which is a second failure, or one where it goes unseen (notes/assumptions/38.md). -/
def Hw.replayEnd (h : Hw) (slot a id : Nat) : Hw :=
  match (h.arr slot a).tile with
  | none => h
  | some t =>
    if t.id ≠ id ∨ t.replay = none then h
    else
      let g := h.updArr slot a fun x => { x with tile := some { t with replay := none } }
      let g := t.reads.foldl (fun (g : Hw) r => (g.scan slot (unitOfKey r.1) r.1 r.2).1) g
      if t.reads.any fun r => g.badAt r.1 r.2 then g.replayFailure slot
      else
        let g := (List.range t.m).foldl (fun (g : Hw) i => g.clearBad (accKey slot a (t.ar + i)) 1024) g
        let seen := if (g.arr slot a).upset.isSome then Config.freeNat g.fresh % 3 else 0
        let g := if (g.arr slot a).upset.isSome then g.used else g
        if seen = 1 then (g.updArr slot a fun x => { x with upset := none }).replayFailure slot
        else if seen = 2 then (g.updArr slot a fun x => { x with upset := none }).freeTile slot a t
        else if t.spoiled then g.freeTile slot a t else g

/-- `again` happens when a replay of n ticks that begins now ends. -/
def Hw.atReplayEnd (h : Hw) (slot n : Nat) (again : PendAct) : Hw :=
  if h.strictOf (h.partOf slot) then
    { h with pend := h.pend ++ [⟨h.partOf slot, true, h.wtick + n, h.seq, again⟩], seq := h.seq + 1 }
  else h.pendArr slot n again

/-- A command samples n bytes of its core's scratchpad, and f follows; what it forms lands `lat` ticks later. An uncorrectable word starts
a replay, which reads it again; still uncorrectable, it is the second failure (R84, R406, R408). What is read is noted for R408. -/
def Hw.streamed (h : Hw) (slot a id core off n lat : Nat) (again : PendAct) (f : Hw → Hw) : Hw :=
  let key := spadKey core off
  if h.badAt key n then
    let g := h.spadLost core off n
    if (h.arr slot a).tile.isNone ∨ ((h.cmd? slot a id).any fun c => c.retried.contains off) = true then g.replayFailure slot
    else
      let r := (g.updCmd slot a id fun c => { c with retried := off :: c.retried }).replay slot a
      r.1.atReplayEnd slot r.2 again
  else
    let r := (h.updArr slot a fun x => { x with tile := x.tile.map (·.sampled key n) }).timedScan slot (spadUnit core) key n lat
    if r.2 = 0 then f r.1 else (r.1.stallArray slot a r.2).pendArr slot r.2 again

/-- A row that a replay rebuilds: of the tile, and where the marker keeps it, in the cuff copy (R406). -/
def Tile.rebuilds (t : Tile) (r : Nat) : Bool :=
  decide (t.ar ≤ r) && decide (r < t.ar + t.m) && (!t.keep || t.copy.any (·.1 == r))

/-- A compute command reads accumulator rows now, and f follows; its data lands `lat` ticks later. Rows of the tile that cannot be
recovered are replayed; others, and those that a `keep` marker has not copied, meet the same word again in the replay (R400-R403,
R406, R408). Where the read and its landing coincide, the hold for a rebuild follows the tick. -/
def Hw.readAcc (h : Hw) (slot a : Nat) (rows : List Nat) (lat : Nat) (again : PendAct) (f : Hw → Hw) : Hw :=
  let lost := rows.filter fun r => h.badAt (accKey slot a r) 1024
  if lost ≠ [] then
    let g := lost.foldl (fun (g : Hw) r => g.unreadable slot 0x03 (1024 * r) (accKey slot a r) 1024) h
    let inside := fun (r : Nat) => (h.arr slot a).tile.any (·.rebuilds r)
    let r := g.replay slot a
    if lost.all inside = false then r.1.replayFailure slot
    else if h.strictOf (h.partOf slot) then f r.1 else r.1.pendArr slot r.2 again
  else
    let r := rows.foldl (fun (x : Hw × Nat) row =>
      let y := x.1.timedScan slot 0x03 (accKey slot a row) 1024 lat
      (y.1, Nat.max x.2 y.2)) (h, 0)
    if r.2 = 0 then f r.1 else (r.1.stallArray slot a r.2).pendArr slot r.2 again

/-! ### Pre-emption of a command (R263, R372) -/

/-- The compute channel of an array stops each mmma at a row boundary: the kernel is being stopped or resumed, and every strand
of the array's cores is in a stub or has parked or ended (notes/assumptions/81.md). -/
def Hw.halts (h : Hw) (slot a : Nat) : Bool :=
  match (h.part (h.partOf slot)).kernel with
  | some k => k.phase == .stopping && (arrCores slot a).all fun c => [0, 1, 2, 3].all fun i =>
      (h.strand (c * 4 + i)).stub || (h.strand (c * 4 + i)).status != .running
  | none => false

/-- An mmma stops before row r; it goes on with that row after the resumption. -/
def Hw.haltCmd (h : Hw) (slot a id r : Nat) : Hw :=
  let g : Hw := { h with pend := h.pend.filter fun q => match q.act with
    | .rowEnter s x i _ | .tileHead s x i _ | .cmdDone s x i => !(s == slot && x == a && i == id)
    | _ => true }
  g.updCmd slot a id fun c => { c with halted := some r }

/-! ### The matrix lining (R409) -/

def KRow.at (r : KRow) (k : Nat) : FVal := match r.out? k with | some v => v | none => (exMul (r.val k) r.band).v

/-- A coarse sum of products, truncated at every step, in ascending order of k (notes/assumptions/6.md). -/
def coarseDot (xs ys : List FVal) : LinedTerm :=
  let ps := (xs.zip ys).map fun x => (exMul x.1.coarse x.2.coarse).v.coarse
  match ps.foldl (fun t p => (exAdd .rtz t p).v.coarse) (.fin false 0 0) with
  | .fin s m e => ⟨s, m, e, topOf ps⟩
  | _ => ⟨false, 0, 0, topOf ps⟩

/-- The shadow of the column of an upset, formed from the row and the column as they enter. -/
def LinedTerm.ofRow (up : Option (Nat × BitVec 32)) (row : KRow) (col : Nat → KRow) (n : Nat) : Option LinedTerm :=
  up.map fun x => coarseDot ((List.range n).map row.at) ((List.range n).map (col x.1).at)
/-- For a latent mode, from the terms of its helper sums. -/
def LinedTerm.ofParts (up : Option (Nat × BitVec 32)) (ys : List (Nat × Nat)) (parts : Nat) : Option LinedTerm :=
  up.map fun x => coarseDot ((List.range parts).map fun c => b32.unpack (ys.getD (256 * c + x.1) (0, 0)).1)
    ((List.range parts).map fun _ => .fin false 1 0)

/-- An upset element: its column, its value with the bits flipped, and whether its lining diverges. The lining is compared
where `lined`. -/
def upsetElem (up : Nat × BitVec 32) (xs : List Nat) (lined : Bool) (shadow : FVal) (top : Int) : List Nat × Bool :=
  let bad := Nat.xor (xs.getD up.1 0) up.2.toNat
  (xs.set up.1 bad, lined && diverges b32 bad shadow top)

/-- A divergence of the matrix lining (R406, R409). -/
def Hw.diverged (h : Hw) (slot a row : Nat) : Hw × Nat := (h.record slot 1 0x0B row 0 none).replay slot a

/-! ### Rows enter (R257-R259) -/

/-- Row i enters: the A row is sampled and its terms are formed; it lands 24 or 32 ticks later. -/
def Hw.enterRow (m : Memory) (h : Hw) (slot a id i : Nat) : Hw :=
  match h.cmd? slot a id with
  | none => h
  | some c =>
    if c.stopped ∨ c.halted.isSome then h
    else if h.halts slot a then h.haltCmd slot a id i
    else
      match c.op with
      | .mmma bs addr _ _ fmt lat desc _ _ hd _ _ =>
        let core := coreOf c.strand
        let tile := c.abase.getD (i / 64) (0, [])
        let off := if fmt = tF4 then tile.1 + 64 + 128 * (i % 64) else addr + mulBytes fmt * i
        let n := if fmt = tF4 then 128 else mulBytes fmt
        h.streamed slot a id core off n (landDelay lat) (.rowEnter slot a id i) fun h =>
          let h := h.updArr slot a fun x => { x with tile := x.tile.map fun t => { t with slots := addAll t.slots [bs] } }
          let up := (h.arr slot a).upset
          let rd := fun k => Memory.read m (spadKey core off + k)
          let b := { h.mixedSlot m slot a bs with tag := c.bt, nt := c.bnt, lt := decide (lat ≠ 0) }
          let yc : (List (Nat × Nat) × Nat) × Option LinedTerm :=
            if lat ≠ 0 then
              let r := latentRow m slot lat (descOf desc) hd b (floatRow rd bf16 256).vals
              let ys := r.1.map fun x => (x.1, x.2.toNat)
              ((ys, r.2), LinedTerm.ofParts up ys r.2)
            else if fmt = tI8 then
              (((List.range 256).map fun col =>
                (intBits 32 (intDot (intCodes rd) (intCodes (b.rd (256 * col)))), 0), 1), none)
            else if fmt = tF64 then
              let row := floatRow rd b64 128
              (((List.range 128).map fun col => let y := kStepY 128 b64 row (b.column col); (y.1, y.2.toNat), 1), none)
            else
              let row := if fmt = tF4 then
                  let img := fun k => tile.2.getD k 0
                  tileRow img (fun k => Memory.read m (spadKey core tile.1 + k)) (i % 64)
                else floatRow rd ((fmtOf fmt).getD b32) 256
              (((List.range 256).map fun col => let y := kStepY 64 b32 row (b.column col); (y.1, y.2.toNat), 1),
               LinedTerm.ofRow up row b.column 256)
          h.pendArr slot (landDelay lat) (.rowLand slot a core id i c.op yc.1.1 yc.1.2 yc.2)
      | _ => h

/-- The prologue of F4x8 tile q of the A rows: read and checked (R257); and the scales of an mscale (R260). Of the prologue's three
ticks the first samples the tile's header, its block scales and its thimble (DESIGN CHOICE, notes/assumptions/92.md). -/
def Hw.enterTile (m : Memory) (h : Hw) (slot a id q : Nat) : Hw :=
  match h.cmd? slot a id with
  | none => h
  | some c =>
    let core := coreOf c.strand
    if c.stopped ∨ c.halted.isSome then h
    else
      match c.op with
      | .mmma _ addr _ _ _ _ _ _ _ _ _ _ =>
        let base := match c.abase.getLast? with | some t => t.1 + t.2.length | none => addr
        let n := tileSize (Memory.read m (spadKey core (base + 1))).toNat
        let again := PendAct.tileHead slot a id q
        if h.halts slot a then h.haltCmd slot a id (Nat.max c.next (64 * q))
        else if q ≠ c.abase.length then h
        else if Config.spadSize < base + 64 then h.stopCmd slot a c 0x0214 0
        else
          h.streamed slot a id core base 64 27 again fun h =>
            if Config.spadSize < base + n then h.stopCmd slot a c 0x0214 0
            else
              h.streamed slot a id core (base + 8256) (n - 8256) 27 again fun h =>
                let img := Memory.readBytes m (spadKey core base) n
                let st := tileCheck fun k => img.getD k 0
                if st = 0 then h.updCmd slot a id fun x => { x with abase := x.abase ++ [(base, img)] }
                else h.stopCmd slot a c (0x210 + Nat.min st 3) st
      | .mscale addr _ n _ _ _ =>
        h.streamed slot a id core addr 1024 5 (.tileHead slot a id q) fun h =>
          let sc := codesOf (fun i => Memory.read m (spadKey core addr + i)) 32 256
          (List.range n).foldl (fun (g : Hw) i => g.pendArr slot (1 + i) (.rowWork slot a core c.id i c.op sc)) h
      | _ => h

/-! ### Accumulator rows -/

def ArrayState.row (a : ArrayState) (r : Nat) : AccRow := amGet a.acc r {}
def ArrayState.setRow (a : ArrayState) (r : Nat) (x : AccRow) : ArrayState := { a with acc := amSet a.acc r x }
/-- A row is written: its words take fresh codes. -/
def Hw.putRow (h : Hw) (slot a r : Nat) (x : AccRow) : Hw :=
  (h.updArr slot a fun s => s.setRow r x).clearBad (accKey slot a r) 1024
def AccRow.elems (r : AccRow) : List Nat := (List.range 256).map fun n => (r.data.extractLsb' (32 * n) 32).toNat
def rowData (xs : List Nat) : BitVec 8192 := BitVec.ofNat 8192 (packNat 32 xs)
def doubles (lo hi : List Nat) : List Nat :=
  let xs := lo ++ hi
  (List.range 256).map fun n => xs.getD (2 * n) 0 + 2 ^ 32 * xs.getD (2 * n + 1) 0

/-- The parts y of column n added in turn to an element. -/
def addParts (f : FloatFmt) (ys : List (Nat × Nat)) (parts width n : Nat) (old : Nat) : Nat × FlagBits :=
  (List.range parts).foldl (fun acc c =>
    let y := ys.getD (width * c + n) (0, 0)
    let r := accAdd f acc.1 y.1
    (r.1, acc.2 ||| r.2 ||| BitVec.ofNat 6 y.2)) (old, 0)

/-- The rows that row i of an mmma writes, as 256 elements of 32 bits each, and its exceptions. -/
def rowResult (st : ArrayState) (op : ArrOp) (i : Nat) (ys : List (Nat × Nat)) (parts : Nat) : List (Nat × List Nat) × FlagBits :=
  match op with
  | .mmma _ _ ar _ fmt _ _ nh clr _ sat _ =>
    if fmt = tF64 then
      let r0 := ar + 2 * i
      let old := doubles (st.row r0).elems (st.row (r0 + 1)).elems
      let lo := if nh then 128 else 0
      let out := (List.range 256).map fun n =>
        if lo ≤ n ∧ n < lo + 128 then addParts b64 ys 1 128 (n - lo) (if clr then 0 else old.getD n 0) else (old.getD n 0, 0)
      let ws := out.flatMap fun x => [x.1 % 2 ^ 32, x.1 / 2 ^ 32]
      ([(r0, ws.take 256), (r0 + 1, ws.drop 256)], out.foldl (fun f x => f ||| x.2) 0)
    else
      let old := (st.row (ar + i)).elems
      let out := (List.range 256).map fun n =>
        let o := if clr then 0 else old.getD n 0
        if fmt = tI8 then accInt sat o (bitsInt 32 true (ys.getD n (0, 0)).1) else addParts b32 ys parts 256 n o
      ([(ar + i, out.map (·.1))], out.foldl (fun f x => f ||| x.2) 0)
  | _ => ([], 0)

/-- The rows that row i of an mmma reads: none with CLR, and of an FP64 row the half that it writes (R256, R257). -/
def rowsRead : ArrOp → Nat → List Nat
  | .mmma _ _ ar _ fmt _ _ nh clr _ _ _, i =>
    if clr then [] else if fmt = tF64 then [ar + 2 * i + nh.toNat] else [ar + i]
  | _, _ => []

/-- The results of a row land: its elements, its exceptions, the progress record (R263). -/
def Hw.writeRows (h : Hw) (slot a core id m : Nat) (t : Tag) (rows : List (Nat × List Nat)) (fl : FlagBits) : Hw :=
  let g := rows.foldl (fun (g : Hw) r => g.putRow slot a r.1 { tag := t, data := rowData r.2 }) h
  let stopped := match g.cmd? slot a id with | some c => c.stopped | none => false
  g.updCore core fun c =>
    let c := { c with mexc := c.mexc ||| fl }
    if c.progId = id then
      { c with progress := { c.progress with
          done := c.progress.done + 1
          run := decide (c.progress.done + 1 < m) && !((stopped || c.progress.err) && !g.landing slot a id) } }
    else c

/-- Row i of a matrix multiply lands: the rows that it adds to are read in the same tick (R251). Of an upset element the lining
is compared where the rows are FP32; a divergence starts a replay, after which the true row stands (R406, R409). -/
def Hw.landRow (h : Hw) (slot a core id i : Nat) (op : ArrOp) (ys : List (Nat × Nat)) (parts : Nat) (sh : Option LinedTerm) : Hw :=
  match op with
  | .mmma _ _ ar m fmt _ _ _ clr _ _ _ =>
    h.readAcc slot a (rowsRead op i) 1 (.rowLand slot a core id i op ys parts sh) fun h =>
      let st := h.arr slot a
      let r := rowResult st op i ys parts
      match st.upset with
      | none => h.writeRows slot a core id m (accTag fmt) r.1 r.2
      | some up =>
        let h := h.updArr slot a fun x => { x with upset := none }
        let acc := if clr then .fin false 0 0 else b32.unpack ((st.row (ar + i)).elems.getD up.1 0)
        let t := sh.getD ⟨false, 0, 0, 0⟩
        let y := FVal.fin t.neg t.sig t.exp
        let top := topOf [acc, y]
        let main := upsetElem up (r.1.headD (0, [])).2 (accTag fmt == tF32 && sh.isSome) (exAdd .rtz acc.coarse y).v.coarse
          (if top < t.top then t.top else top)
        if main.2 then
          let d := h.diverged slot a (ar + i)
          if h.strictOf (h.partOf slot) then d.1.writeRows slot a core id m (accTag fmt) r.1 r.2
          else d.1.pendArr slot d.2 (.rowLand slot a core id i op ys parts sh)
        else h.writeRows slot a core id m (accTag fmt) (((r.1.headD (0, [])).1, main.1) :: r.1.tail) r.2
  | _ => h

/-- The elements of one row of mread and its exceptions (R261). -/
def readElems (op : ArrOp) (st : ArrayState) (i : Nat) : List (Nat × FlagBits) :=
  match op with
  | .mread _ ar m rt t ovf sgn mo seed =>
    if rt = tI32 then
      (st.row (ar + i)).elems.map fun x =>
        let v := bitsInt 32 true x
        let v := if mo.abs then (v.natAbs : Int) else v
        finishInt mo.sat (elemWidth t) sgn (if mo.neg then -v else v)
    else
      let src := if rt = tF64 then b64 else b32
      let f := (fmtOf t).getD b32
      let vals := if rt = tF64 then doubles (st.row (ar + i)).elems (st.row (ar + i + 1)).elems else (st.row (ar + i)).elems
      let us := (drawsIf mo (readDraws rt m) seed.toNat).1.drop (if rt = tF64 then 128 * i else 256 * i)
      elemsFrom 256 0 us fun n u =>
        let v := src.unpack (vals.getD n 0)
        f.finish ovf mo u { v := v, flags := v.snanFlag }
  | _ => []

/-- One row of mread as bytes. -/
def readRow (op : ArrOp) (st : ArrayState) (i : Nat) : List Byte × FlagBits :=
  match op with
  | .mread _ ar _ rt t _ _ _ _ =>
    if rt = tF64 ∧ t = tF64 then (leBytes 1024 (st.row (ar + i)).data.toNat, 0)
    else
      let xs := readElems op st i
      let w := elemWidth t
      (leBytes (32 * w) (packNat w (xs.map (·.1))), xs.foldl (fun f x => f ||| x.2) 0)
  | _ => ([], 0)

/-- The rows that the work of row i reads. -/
def workReads : ArrOp → Nat → List Nat
  | .mscale _ ar _ _ _ _, i => [ar + i]
  | .mread _ ar _ rt t _ _ _ _, i => if rt = tF64 ∧ t = tF32 then [ar + i, ar + i + 1] else [ar + i]
  | .mtile ar _ _, i => [ar + i]
  | _, _ => []

/-- The result of row i of mscale or mread to F32, with an upset of the array: the elements, and whether the lining, compared in
GUARD only, diverges (R409). -/
def Hw.guarded (h : Hw) (up : Option (Nat × BitVec 32)) (xs : List Nat) (shadow : Nat → FVal × Int) : List Nat × Bool :=
  match up with
  | none => (xs, false)
  | some u => upsetElem u xs (h.pkg.mode == .guarded) (shadow u.1).1 (shadow u.1).2

/-- The work of row i of a compute command other than mmma, at the tick that reads it. Its exceptions are ORed into MSTAT at that tick;
those of an mmma at its row's landing (DESIGN CHOICE, notes/assumptions/92.md). -/
def Hw.workRow (m : Memory) (h : Hw) (slot a core id i : Nat) (op : ArrOp) (scale : List Nat) : Hw :=
  let again := PendAct.rowWork slot a core id i op scale
  let st := h.arr slot a
  let clear := fun (h : Hw) => h.updArr slot a fun x => { x with upset := none }
  match op with
  | .mwrite addr ar _ t =>
    h.streamed slot a id core (addr + 1024 * i) 1024 3 again fun h =>
      h.pendArr slot 3 (.rowSet slot a (ar + i) t (BitVec.ofNat 8192 (Memory.readNat m (spadKey core (addr + 1024 * i)) 1024)))
  | .mscale _ ar n tags mo seed =>
    h.readAcc slot a (workReads op i) 4 again fun h =>
      let us := (drawsIf mo (256 * n) seed.toNat).1.drop (256 * i)
      let el := (st.row (ar + i)).elems
      let val := fun j =>
        if tags.getD i 0 = tI32 then (ofInt (bitsInt 32 true (el.getD j 0))).v else b32.unpack (el.getD j 0)
      let sc := fun j => b32.unpack (scale.getD j 0)
      let xs := elemsFrom 256 0 us fun j u => b32.finish false mo u (exMul (val j) (sc j))
      let r := h.guarded st.upset (xs.map (·.1)) fun j => shadowOf mo (exMul (val j).coarse (sc j).coarse) [val j, sc j]
      if r.2 then
        let d := (clear h).diverged slot a (ar + i)
        d.1.atReplayEnd slot (if h.strictOf (h.partOf slot) then 0 else d.2) again
      else
        ((clear h).pendArr slot 4 (.rowSet slot a (ar + i) tF32 (rowData r.1))).updCore core fun c =>
          { c with mexc := c.mexc ||| xs.foldl (fun f x => f ||| x.2) 0 }
  | .mread addr ar _ rt t _ _ mo _ =>
    if rt = tF64 ∧ t = tF32 ∧ i % 2 = 1 then h
    else
      h.readAcc slot a (workReads op i) 3 again fun h =>
        let x := readRow op st i
        let put := fun (h : Hw) (bs : List Byte) =>
          (h.pendArr slot 3 (.store core 4 (addr + readBytes rt t * i) bs)).updCore core fun c => { c with mexc := c.mexc ||| x.2 }
        if t = tF32 ∧ st.upset.isSome then
          let src := if rt = tF64 then b64 else b32
          let vals := if rt = tF64 then doubles (st.row (ar + i)).elems (st.row (ar + i + 1)).elems else (st.row (ar + i)).elems
          let r := h.guarded st.upset ((readElems op st i).map (·.1)) fun j =>
            let v := (src.unpack (vals.getD j 0)).coarse
            shadowOf mo { v := v } [v]
          if r.2 then
            let d := (clear h).diverged slot a (ar + i)
            d.1.atReplayEnd slot (if h.strictOf (h.partOf slot) then 0 else d.2) again
          else put (clear h) (leBytes 1024 (packNat 32 r.1))
        else put h x.1
  | .mtile ar _ _ =>
    h.readAcc slot a (workReads op i) 1 again fun h =>
      h.updArr slot a fun x => { x with tile := x.tile.map fun t => { t with copy := t.copy ++ [(ar + i, x.row (ar + i))] } }
  | _ => h

/-! ### Commands start (R250) -/

/-- Ticks until row i of a compute command other than mmma does its work. -/
def workTick (op : ArrOp) (i : Nat) : Nat :=
  match op with
  | .mscale _ _ _ _ _ _ => 1 + i
  | .mread _ _ _ rt t _ _ _ _ => i * readBytes rt t / 1024
  | .mtile _ _ _ => i / 4
  | _ => i

/-- The current tile as its marker starts, with what an mlat issued since has sampled (R262, R408). -/
def ArrayState.marked (x : ArrayState) (id ar m : Nat) (keep : Bool) (now : Nat) : Tile :=
  let mine := x.tileIssued.filter (·.id == id)
  { ar := ar, m := m, keep := keep, start := now, id := id
    reads := match mine with | some t => t.reads | none => []
    spoiled := mine.any (·.spoiled) }

/-- A compute command starts now, or goes on after a pre-emption: its rows are scheduled, and it leaves its queue at its
finish. -/
def Hw.beginCompute (h : Hw) (slot a : Nat) (c : ArrCmd) (f : Foot) : Hw :=
  let k := c.strand
  let core := coreOf k
  let now := h.ptick slot
  let r0 := c.halted.getD 0
  let g := (h.updCmd slot a c.id fun x => { x with started := true, halted := none, next := r0 }).updArr slot a fun x => x.bookCompute c f now
  let g := g.pendArr slot f.len (.cmdDone slot a c.id)
  match c.op with
  | .mmma bs _ _ n fmt lat desc _ _ _ _ _ =>
    let g := g.updCore core fun x => if x.progId = c.id then { x with progress := { x.progress with run := true } } else x
    if (h.slotB slot a bs).valid = false ∨ (lat ≠ 0 ∧ (h.arr slot a).latent = none) then g.stopCmd slot a c 0x0224 0
    else if lat ≠ 0 then g.updArr slot a fun x => { x with prologue := some { id := c.id } }
    else
      let g := if fmt = tF4 then
          (List.range ((n + 63) / 64 - r0 / 64)).foldl (fun (g : Hw) q => g.pendArr slot (11 * q) (.tileHead slot a c.id (r0 / 64 + q))) g
        else g
      (List.range (n - r0)).foldl (fun (g : Hw) i =>
        g.pendArr slot (entryFrom fmt 0 (descOf desc) 0 r0 (r0 + i)) (.rowEnter slot a c.id (r0 + i))) g
  | .mzero ar n t =>
    (List.range n).foldl (fun (g : Hw) i => g.pendArr slot (1 + i / 4) (.rowSet slot a (ar + i) t 0)) g
  | .mtile ar n keep =>
    let g := g.updArr slot a fun x => { x with tile := some (x.marked c.id ar n keep now) }
    if keep then (List.range n).foldl (fun (g : Hw) i => g.pendArr slot (i / 4) (.rowWork slot a core c.id i c.op [])) g else g
  | .mscale _ _ _ _ _ _ => g.pendArr slot 0 (.tileHead slot a c.id 0)
  | .mread _ _ n _ _ _ _ _ _ | .mwrite _ _ n _ =>
    (List.range n).foldl (fun (g : Hw) i => g.pendArr slot (workTick c.op i) (.rowWork slot a core c.id i c.op [])) g
  | _ => g

/-- A load-channel command starts now. -/
def Hw.beginLoad (h : Hw) (slot a : Nat) (c : ArrCmd) : Hw :=
  let now := h.ptick slot
  let g := (h.updCmd slot a c.id fun x => { x with started := true }).updArr slot a fun x => x.bookLoad c now
  match c.op with
  | .mlat d => (g.pendArr slot 1 (.latentLand slot a d)).pendArr slot 1 (.cmdDone slot a c.id)
  | .mbld _ bs _ t lt nt _ _ _ => g.updSlot slot a bs fun b => { b with tag := t, lt := lt, nt := nt, valid := true }
  | _ => g

/-- The head of a channel that can start now. A compute channel goes on with a command that a pre-emption stopped, and starts no
mmma while a pre-emption stops it (R263). -/
def Hw.channelHead (h : Hw) (slot a : Nat) (load : Bool) : Option (ArrCmd × Foot) :=
  let cs := h.arrCmds slot a
  let st := h.arr slot a
  let now := h.ptick slot
  let foot := fun (c : ArrCmd) => c.op.foot (c.op.prologue (h.phaseAt slot now)) (c.halted.getD 0)
  match cs.find? fun c => !load && c.halted.isSome with
  | some c => if h.halts slot a then none else some (c, foot c)
  | none =>
    match nextOf cs (if load then ArrOp.isLoad else ArrOp.isCompute) with
    | none => none
    | some c =>
      if load then (if st.loadReady (beforeCmd cs c) c now then some (c, {}) else none)
      else if c.op.slotsRead ≠ [] ∧ h.halts slot a = true then none
      else if st.computeReady (beforeCmd cs c) c (foot c) now then some (c, foot c) else none

/-- Nothing of a core's array is in progress, and what stands in its queue waits behind a command that a pre-emption stops: it is
saved with the queue (R263, R372, notes/assumptions/81.md). -/
def Hw.arrayParked (h : Hw) (slot a : Nat) : Bool :=
  h.halts slot a && (h.arrCmds slot a).all (fun c => !c.started || c.halted.isSome) &&
    (h.channelHead slot a false).isNone && (h.channelHead slot a true).isNone && !(h.pend.any fun q => q.act.ofArray slot a)

def execArrayCommandStart (slot arr : Nat) (load : Bool) (s : State) : Out :=
  atSlot slot s fun s => s.updHw fun h =>
    match h.channelHead slot arr load with
    | none => h
    | some (c, f) => if load then h.beginLoad slot arr c else h.beginCompute slot arr c f

/-- Banks of the chunk that a load, or a latent prologue, waits to read. -/
def Hw.waitingBanks (h : Hw) (slot a : Nat) (load : Bool) : List Nat :=
  match (if load then (h.arr slot a).load else (h.arr slot a).prologue) with
  | none => []
  | some p =>
    match h.cmd? slot a p.id with
    | none => []
    | some c =>
      match c.op with
      | .mbld src _ addr _ _ _ bytes _ _ =>
        if src = 1 then banksOf (addr + 8192 * p.next) (Nat.min 8192 (bytes - 8192 * p.next)) else []
      | op => op.chunks.getD p.next []

/-- In queued mode a deferred weight-store read goes on when its refresh window has closed (R254). -/
def execRefreshWaitEnd (slot arr : Nat) (load : Bool) (s : State) : Out :=
  atSlot slot s fun s => s.updHw fun h =>
    if (h.waitingBanks slot arr load).any (inWindow (h.die slot).wsph) then h
    else h.updArr slot arr fun a =>
      if load then { a with load := a.load.map fun p => { p with deferred := false } }
      else { a with prologue := a.prologue.map fun p => { p with deferred := false } }

/-- The chunk of a panel load that is read in this tick. An unrecoverable word stops the load, and the slot is invalid (R403). -/
def Hw.loadTick (m : Memory) (h : Hw) (slot a : Nat) : Hw :=
  let st := h.arr slot a
  let now := h.ptick slot
  match st.load with
  | none => h
  | some p =>
    match h.cmd? slot a p.id with
    | none => h.updArr slot a fun x => { x with load := none, loadFree := now }
    | some c =>
      match c.op with
      | .mbld src bs addr _ _ _ bytes _ _ =>
        if p.deferred ∨ now < p.wait then h
        else if st.canRead c.op p.next (h.die slot).wsph now = false then
          (if src = 1 then h.updArr slot a fun x => { x with load := some { p with deferred := true } } else h)
        else
          let sz := c.op.chunkSize
          let off := sz * p.next
          let n := Nat.min sz (bytes - off)
          let core := coreOf c.strand
          let key := if src = 0 then spadKey core (addr + off) else weightKey slot (addr + off)
          let unit := if src = 0 then spadUnit core else 0x02
          let r := h.timedScan slot unit key n 1
          if h.badAt key n then
            (((r.1.unreadable slot unit (addr + off) key n).updSlot slot a bs fun b =>
                { b with valid := false }).updArr slot a fun x =>
              { x with load := none, loadFree := now + 1, slotWritten := setTick x.slotWritten bs now }).dropCmd slot a c.id
          else
            let late := now + r.2
            let h := r.1.updArr slot a fun x =>
              { x with tile := if src = 0 then x.tile.map fun t => if t.id < c.id then t.sampled key n else t else x.tile }
            let g := (h.updArr slot a fun x => { x.readChunk c.op p late with
                load := (x.readChunk c.op p late).load.map fun q => { q with wait := late + 1 } }).pendArr slot (1 + r.2)
              (.chunk slot a c.id bs off (Memory.readBytes m key n) (p.next + 1 == c.op.chunkCount))
            if p.next + 1 = c.op.chunkCount then g.pendArr slot (1 + r.2) (.cmdDone slot a c.id) else g
      | _ => h

/-- The bytes of rows 16j to 16j + 15 of a latent slice that lie in the matrix: key and length of each row (R258). -/
def sliceKeys (slot lat : Nat) (d : Desc) (hd j : Nat) : List (Nat × Nat) :=
  (List.range 16).map fun i =>
    (weightKey slot (sliceBase lat d hd + 2 * (d.h * d.d) * (16 * j + i)), 2 * Nat.min 256 (d.h * d.d - hd * d.d))

/-- The chunk of a latent slice that is read in this tick; after the last one the rows enter (R258). An unrecoverable word stops
the command, and the latent register is invalid (R403, notes/assumptions/80.md). -/
def Hw.prologueTick (h : Hw) (slot a : Nat) : Hw :=
  match (h.arr slot a).prologue with
  | none => h
  | some p =>
    match h.cmd? slot a p.id with
    | none => h.updArr slot a fun x => { x with prologue := none }
    | some c =>
      let chunks := c.op.chunks
      let now := h.ptick slot
      if h.halts slot a then (h.haltCmd slot a c.id c.next).updArr slot a fun x => { x with prologue := none }
      else if p.deferred ∨ now < p.wait then h
      else if (chunks.getD p.next []).any (inWindow (h.die slot).wsph) then
        h.updArr slot a fun x => { x with prologue := some { p with deferred := true } }
      else
        match c.op with
        | .mmma _ _ _ n _ lat desc _ _ hd _ _ =>
          let ks := sliceKeys slot lat (descOf desc) hd p.next
          let r := ks.foldl (fun (x : Hw × Nat) k =>
            let y := x.1.timedScan slot 0x02 k.1 k.2 1
            (y.1, Nat.max x.2 y.2)) (h, 0)
          match ks.find? fun k => h.badAt k.1 k.2 with
          | some k =>
            ((((r.1.unreadable slot 0x02 (k.1 % 2 ^ 60) k.1 k.2).updCmd slot a c.id fun x => { x with stopped := true }).updArr slot a
              fun x => { x with prologue := none, latent := none }).updCore (coreOf c.strand) fun x =>
                if x.progId = c.id then { x with progress := { x.progress with run := false } } else x)
          | none =>
            let g := if r.2 = 0 then r.1 else r.1.stallArray slot a r.2
            if p.next + 1 < chunks.length then
              g.updArr slot a fun x => { x with prologue := some { p with next := p.next + 1, wait := now + 1 + r.2 } }
            else
              (List.range (n - c.next)).foldl (fun (g : Hw) i =>
                g.pendArr slot (1 + r.2 + latStep lat (descOf desc) * i) (.rowEnter slot a c.id (c.next + i)))
                (g.updArr slot a fun x => { x with prologue := none })
        | _ => h

/-- A lease state that takes effect: a grant admits the commands that wait for it, and they count against it (R252). -/
def Hw.leaseTo (h : Hw) (core : Nat) (st : Lease) : Hw :=
  let slot := core / 32
  let a := arrOf core
  if st = .held then
    if (h.arr slot a).holder ≠ some core then h
    else
      let wait := ((h.core core).aq.filter fun c => !c.admitted)
      let g := h.updCore core fun x =>
        { x with lease := .held, used := x.used + wait.length, aq := x.aq.map fun c => { c with admitted := true } }
      wait.foldl (fun g c => if c.op.isGlobal then g.startPanel c else g) g
  else
    (h.updCore core fun x => { x with lease := st }).updArr slot a fun x =>
      { x with holder := if x.holder = some core then none else x.holder }

/-! ### Base-die GEMV (R97, R266) -/

/-- A command takes its place in a GEMV queue: after those accepted before it; of one tick, in ascending requester key (R350). -/
def insertGemv (c : Gemv) (l : List Gemv) : List Gemv :=
  match l with
  | [] => [c]
  | x :: t => if x.issued = c.issued ∧ c.strand < x.strand then c :: x :: t else x :: insertGemv c t

/-- The NB slot of a HOME page (R96). -/
def Die.homeOf (d : Die) (va : Nat) : Option Nat :=
  match d.translate va with
  | .ok (slot, _) =>
    let f := ((d.brimAt slot).frame false).toNat
    if f / 2 ^ 60 = 1 ∧ f / 2 ^ 58 % 4 = 0 then some (f / 2 ^ 52 % 64) else none
  | .error _ => none

def gemvBytes (t : Tag) : Nat := elemWidth t / 8

def execMgemv (b x y sw : XReg) (t : Tag) (kc : BitVec 12) (mm : BitVec 16) (p : Option Prefix) (s : State) : Out :=
  issue s fun _ h =>
    let d := h.die (slotOf h.cur)
    let va := h.rx b
    let k := 256 * kc.toNat
    let m := mm.toNat + 1
    let xx := h.rx x
    let yy := h.rx y
    let ss := h.rx sw
    match d.pieces va.toNat 1 .read false with
    | .error c => h.translationTrap c va
    | .ok _ =>
      match d.homeOf va.toNat with
      | none => h.accessFault va
      | some nb =>
        if va.toNat % 256 ≠ 0 then h.accessFault va
        else if xx.toNat % 64 ≠ 0 ∨ Config.spadSize < xx.toNat + k * gemvBytes t then h.accessFault xx
        else if yy.toNat % 4 ≠ 0 ∨ Config.spadSize < yy.toNat + 4 * m then h.accessFault yy
        else if ss.toNat % 16 ≠ 0 ∨ Config.spadSize ≤ ss.toNat then h.accessFault ss
        else if 16 ≤ (h.die nb).gemv.length then h.block (nb * 16 + 15)
        else
          let c : Gemv :=
            { id := h.fresh, strand := h.cur, core := coreOf h.cur, b := va.toNat, x := xx.toNat, y := yy.toNat
              sync := ss.toNat, issued := h.wtick, fmt := t, k := k, m := m, sat := (match p with | some q => q.sat == 1 | none => false)
              seg := (h.part h.myPart).seg, after := addAll h.st.fencedW h.st.fencedR, afterSeq := h.st.fencedSeq, afterAcq := h.st.acqSeq }
          (({ h with fresh := h.fresh + 1 }).updDie nb fun d => { d with gemv := insertGemv c d.gemv }).advance

/-- Row of y (R97). -/
def gemvRow (fmt : Tag) (sat : Bool) (chunks : List (List Nat × List Nat)) : Nat :=
  if fmt = tI8 then
    chunks.foldl (fun acc c =>
      let s := intDot c.1 c.2
      (accInt sat acc (if sat then satInt 1 32 true s else s)).1) 0
  else
    let f := (fmtOf fmt).getD bf16
    chunks.foldl (fun acc c => (kStep { vals := c.1.map f.unpack } { vals := c.2.map f.unpack } acc).1) 0

end Sys2Proof.Machine
end

