-- ==== Sys2Proof/Machine/Lns.lean ====
section
/-! DEFINITION. LNS32: its tables and conversions (R70-R73), the logarithmic path (R222-R226). -/
namespace Sys2Proof.Machine
open Sys2Proof

/-- T[i] = round(log2(1 + i/256) × 2^22), i = 0 to 256, in pieces (R71). -/
def lnsT0 : List Nat :=
  [0, 23591, 47091, 70499, 93817, 117046, 140186, 163238, 186202, 209080, 231871,
   254577, 277198, 299735, 322188, 344558, 366846, 389052, 411176, 433220, 455185, 477069,
   498875, 520603, 542252, 563825, 585321, 606741, 628085, 649354, 670549, 691670]
def lnsT1 : List Nat :=
  [712717, 733691, 754593, 775423, 796182, 816869, 837487, 858034, 878511, 898920, 919259,
   939531, 959735, 979872, 999942, 1019946, 1039883, 1059756, 1079563, 1099305, 1118984, 1138598,
   1158150, 1177638, 1197064, 1216427, 1235729, 1254969, 1274149, 1293268, 1312326, 1331325]
def lnsT2 : List Nat :=
  [1350264, 1369145, 1387966, 1406729, 1425434, 1444082, 1462672, 1481205, 1499682, 1518102, 1536467,
   1554776, 1573029, 1591228, 1609372, 1627462, 1645499, 1663481, 1681410, 1699286, 1717110, 1734881,
   1752600, 1770268, 1787884, 1805449, 1822963, 1840426, 1857840, 1875203, 1892517, 1909781]
def lnsT3 : List Nat :=
  [1926996, 1944162, 1961280, 1978349, 1995371, 2012344, 2029270, 2046149, 2062981, 2079767, 2096506,
   2113198, 2129845, 2146446, 2163002, 2179512, 2195978, 2212399, 2228775, 2245108, 2261396, 2277641,
   2293842, 2309999, 2326114, 2342186, 2358216, 2374203, 2390148, 2406051, 2421912, 2437732]
def lnsT4 : List Nat :=
  [2453511, 2469248, 2484945, 2500601, 2516217, 2531792, 2547328, 2562824, 2578280, 2593697, 2609074,
   2624413, 2639713, 2654974, 2670197, 2685382, 2700529, 2715637, 2730709, 2745743, 2760739, 2775699,
   2790621, 2805507, 2820356, 2835169, 2849946, 2864687, 2879392, 2894061, 2908695, 2923294]
def lnsT5 : List Nat :=
  [2937857, 2952386, 2966879, 2981338, 2995763, 3010153, 3024509, 3038831, 3053120, 3067374, 3081595,
   3095783, 3109938, 3124060, 3138148, 3152204, 3166228, 3180219, 3194177, 3208104, 3221999, 3235861,
   3249692, 3263492, 3277260, 3290997, 3304703, 3318378, 3332022, 3345635, 3359218, 3372770]
def lnsT6 : List Nat :=
  [3386292, 3399784, 3413246, 3426678, 3440080, 3453453, 3466796, 3480109, 3493394, 3506649, 3519876,
   3533073, 3546242, 3559383, 3572494, 3585578, 3598633, 3611660, 3624659, 3637631, 3650574, 3663490,
   3676379, 3689240, 3702073, 3714880, 3727659, 3740412, 3753138, 3765837, 3778509, 3791155]
def lnsT7 : List Nat :=
  [3803775, 3816368, 3828935, 3841477, 3853992, 3866481, 3878945, 3891383, 3903795, 3916182, 3928544,
   3940881, 3953192, 3965479, 3977740, 3989977, 4002189, 4014377, 4026540, 4038679, 4050793, 4062883,
   4074949, 4086991, 4099009, 4111003, 4122974, 4134921, 4146844, 4158744, 4170621, 4182474]
def lnsT8 : List Nat :=
  [4194304]
def lnsT : List Nat := lnsT0 ++ lnsT1 ++ lnsT2 ++ lnsT3 ++ lnsT4 ++ lnsT5 ++ lnsT6 ++ lnsT7 ++ lnsT8

/-- X[i] = round(2^(i/256) × 2^23), i = 0 to 256, in pieces (R71). -/
def lnsX0 : List Nat :=
  [8388608, 8411352, 8434157, 8457025, 8479954, 8502945, 8525999, 8549116, 8572295, 8595536, 8618841,
   8642209, 8665641, 8689136, 8712694, 8736317, 8760003, 8783754, 8807569, 8831449, 8855394, 8879403,
   8903477, 8927617, 8951823, 8976093, 9000430, 9024833, 9049301, 9073837, 9098438, 9123107]
def lnsX1 : List Nat :=
  [9147842, 9172644, 9197514, 9222451, 9247455, 9272528, 9297668, 9322877, 9348154, 9373499, 9398913,
   9424396, 9449948, 9475570, 9501261, 9527021, 9552851, 9578752, 9604722, 9630764, 9656875, 9683058,
   9709311, 9735636, 9762032, 9788499, 9815039, 9841650, 9868333, 9895089, 9921917, 9948818]
def lnsX2 : List Nat :=
  [9975792, 10002839, 10029960, 10057154, 10084422, 10111763, 10139179, 10166669, 10194234, 10221873, 10249587,
   10277377, 10305242, 10333182, 10361198, 10389290, 10417458, 10445703, 10474024, 10502422, 10530897, 10559449,
   10588079, 10616786, 10645571, 10674434, 10703375, 10732395, 10761494, 10790671, 10819928, 10849263]
def lnsX3 : List Nat :=
  [10878679, 10908174, 10937749, 10967404, 10997140, 11026956, 11056853, 11086831, 11116891, 11147032, 11177254,
   11207559, 11237946, 11268415, 11298967, 11329601, 11360319, 11391120, 11422004, 11452973, 11484025, 11515161,
   11546382, 11577687, 11609078, 11640553, 11672114, 11703760, 11735492, 11767310, 11799215, 11831206]
def lnsX4 : List Nat :=
  [11863283, 11895448, 11927700, 11960039, 11992466, 12024981, 12057584, 12090275, 12123055, 12155924, 12188882,
   12221930, 12255067, 12288294, 12321610, 12355018, 12388516, 12422104, 12455784, 12489555, 12523418, 12557372,
   12591419, 12625557, 12659789, 12694113, 12728530, 12763041, 12797645, 12832343, 12867135, 12902021]
def lnsX5 : List Nat :=
  [12937002, 12972078, 13007249, 13042515, 13077877, 13113335, 13148888, 13184539, 13220286, 13256129, 13292070,
   13328109, 13364245, 13400479, 13436812, 13473242, 13509772, 13546401, 13583129, 13619956, 13656884, 13693911,
   13731039, 13768268, 13805598, 13843028, 13880561, 13918195, 13955931, 13993769, 14031710, 14069754]
def lnsX6 : List Nat :=
  [14107901, 14146151, 14184505, 14222963, 14261526, 14300193, 14338964, 14377841, 14416824, 14455912, 14495106,
   14534406, 14573813, 14613326, 14652947, 14692675, 14732511, 14772455, 14812507, 14852668, 14892937, 14933316,
   14973805, 15014403, 15055111, 15095929, 15136859, 15177899, 15219050, 15260313, 15301688, 15343175]
def lnsX7 : List Nat :=
  [15384775, 15426487, 15468313, 15510252, 15552304, 15594471, 15636752, 15679147, 15721658, 15764283, 15807025,
   15849882, 15892855, 15935945, 15979152, 16022476, 16065917, 16109476, 16153153, 16196949, 16240863, 16284897,
   16329050, 16373322, 16417715, 16462228, 16506861, 16551616, 16596492, 16641490, 16686609, 16731851]
def lnsX8 : List Nat :=
  [16777216]
def lnsX : List Nat := lnsX0 ++ lnsX1 ++ lnsX2 ++ lnsX3 ++ lnsX4 ++ lnsX5 ++ lnsX6 ++ lnsX7 ++ lnsX8

def lnsTAt (i : Nat) : Nat := lnsT.getD i 0
def lnsXAt (i : Nat) : Nat := lnsX.getD i 0

/-- The fields of an LNS32 word (R70). -/
structure Lns where
  s : Bool
  z : Bool
  l : Int
  deriving DecidableEq, Repr

def Lns.ofNat (b : Nat) : Lns := { s := b / 2 ^ 31 % 2 == 1, z := b / 2 ^ 30 % 2 == 1, l := bitsInt 30 true (b % 2 ^ 30) }
def Lns.bits (x : Lns) : Nat := x.s.toNat * 2 ^ 31 + x.z.toNat * 2 ^ 30 + (if x.z then 0 else intBits 30 x.l)

def lnsMax : Int := 2 ^ 29 - 1
def lnsMin : Int := -(2 ^ 29)

/-- The LNS range rule (R222). -/
def Lns.range (x : Lns) : Lns × FlagBits :=
  if x.z then ({ x with l := 0 }, 0)
  else if lnsMax < x.l then ({ x with l := lnsMax }, fOF ||| fNX)
  else if x.l < lnsMin then ({ x with z := true, l := 0 }, fUF ||| fNX)
  else (x, 0)

/-- An unbounded result: the range rule, the prefix, the range rule (R222). -/
def Lns.finish (m : Mods) (x : Lns) : Nat × FlagBits :=
  let r := x.range
  let y := r.1
  let y := { y with s := (if m.abs then false else y.s) != m.neg, l := if y.z then y.l else y.l + m.scale * 2 ^ 22 }
  let r2 := y.range
  (r2.1.bits, r.2 ||| r2.2)

/-- to_lns (R72) of an exact value: NaN, ±0, ±∞ or a number whose normalised significand has at most 24 bits. -/
def toLns (x : FVal) : Lns × FlagBits :=
  match x with
  | .nan _ => (⟨false, true, 0⟩, fNV)
  | .inf s => (⟨s, false, lnsMax⟩, fOF)
  | .fin s k q =>
    if k = 0 then (⟨s, true, 0⟩, 0)
    else
      let n := bitLen k
      let e : Int := q + (n : Int) - 1
      let m := k * 2 ^ (24 - n) - 2 ^ 23
      let i := m / 2 ^ 15
      let t := m % 2 ^ 15
      let f : Nat := lnsTAt i + (lnsTAt (i + 1) - lnsTAt i) * t / 2 ^ 15
      let l : Int := e * 2 ^ 22 + (f : Int)
      if l < lnsMin then (⟨s, true, 0⟩, fUF ||| fNX)
      else (⟨s, false, l⟩, if t ≠ 0 ∨ i ≠ 0 then fNX else 0)

/-- from_lns (R73) before its rounding. -/
def fromLns (x : Lns) : FVal :=
  if x.z then .fin x.s 0 0
  else
    let n := x.l / 2 ^ 22
    let g := (x.l % 2 ^ 22).toNat
    let i := g / 2 ^ 14
    let t := g % 2 ^ 14
    .fin x.s (lnsXAt i + (lnsXAt (i + 1) - lnsXAt i) * t / 2 ^ 14) (n - 23)

/-! ### The instructions -/

def isL32 (t : Tag) : Bool := t == tL32

def execVtolns (d a : VRegNo) (half : Bool) (p : Option Prefix) (s : State) : Out :=
  issue s fun _ h =>
    match h.badTag (fun t => t == tF32 || t == tB16 || t == tH16) [a] with
    | some r => h.formatFault r.val
    | none =>
      let v := h.vreg a
      if v.tag = tF32 ∧ half = true then h.fault Cause.access
      else if h.vecBusy then h.occupied (h.stuck h.st.units.vec)
      else
        let f := (fmtOf v.tag).getD b32
        let per := perRow v.tag
        let m := h.mods p
        let xs := elemsFrom 1024 0 [] fun n _ =>
          let r := toLns (f.unpack (v.elem (n / 64 * per + (if half then 64 else 0) + n % 64)))
          let t := r.1.finish m
          (t.1, r.2 ||| t.2)
        h.vresult d 32 allSlotsMask tL32 6 4 xs

/-- See R224. Under SR it draws once for each of the 1,024 elements that it writes, also with a 16-bit tag, whose register has 2,048
positions (DESIGN CHOICE, notes/assumptions/86.md). -/
def execVfromlns (d a : VRegNo) (t : Tag) (half : Bool) (p : Option Prefix) (s : State) : Out :=
  issue s fun _ h =>
    match h.badTag isL32 [a] with
    | some r => h.formatFault r.val
    | none =>
      if h.vecBusy then h.occupied (h.stuck h.st.units.vec)
      else
        let f := (fmtOf t).getD b32
        let w := f.width
        let m := h.mods p
        let us := drawsIf m 1024 h.st.srseed.toNat
        let xs := elemsFrom 1024 0 us.1 fun n u => f.finish false m u { v := fromLns (Lns.ofNat ((h.vreg a).slot n)) }
        let rows := (List.range 16).map fun i => packNat w (((xs.drop (64 * i)).take 64).map (·.1))
        let hf := if w = 16 ∧ half = true then 1 else 0
        let data := BitVec.ofNat 32768 (packNat 2048 (rows.map fun r => r * 2 ^ (64 * w * hf)))
        let mask := BitVec.ofNat 1024 (packNat 64 ((List.range 16).map fun _ => (2 ^ (2 * w) - 1) * 2 ^ (2 * w * hf)))
        ((((h.setSeed us.2).takeVec 4).landV d data mask t 6).landFlags (flagsOf allSlotsMask 32 0 xs) 6).advance

/-- A member of R225 on words. -/
def lnsOp (f : Lns → Lns → Lns × FlagBits) (d : VRegNo) (a b : VRegNo) (rs : List VRegNo) (p : Option Prefix) (s : State) : Out :=
  issue s fun _ h =>
    match h.badTag isL32 rs with
    | some r => h.formatFault r.val
    | none =>
      if h.vecBusy then h.occupied (h.stuck h.st.units.vec)
      else
        let m := h.mods p
        let xs := elemsFrom 1024 0 [] fun n _ =>
          let r := f (Lns.ofNat ((h.vreg a).slot n)) (Lns.ofNat ((h.vreg b).slot n))
          let t := r.1.finish m
          (t.1, r.2 ||| t.2)
        h.vresult d 32 allSlotsMask tL32 3 4 xs

def lnsMul (a b : Lns) : Lns × FlagBits :=
  if a.z ∨ b.z then (⟨a.s != b.s, true, 0⟩, 0) else (⟨a.s != b.s, false, a.l + b.l⟩, 0)
def lnsDiv (a b : Lns) : Lns × FlagBits :=
  if a.z ∧ b.z then (⟨false, true, 0⟩, fNV)
  else if a.z then (⟨a.s != b.s, true, 0⟩, 0)
  else if b.z then (⟨a.s != b.s, false, lnsMax⟩, fDZ)
  else (⟨a.s != b.s, false, a.l - b.l⟩, 0)
def oddFlag (l : Int) : FlagBits := if l % 2 = 0 then 0 else fNX
def lnsSqrt (a : Lns) : Lns × FlagBits :=
  if a.z then (a, 0) else if a.s then (⟨false, true, 0⟩, fNV) else (⟨false, false, a.l / 2⟩, oddFlag a.l)
def lnsRsqrt (a : Lns) : Lns × FlagBits :=
  if a.z then (⟨a.s, false, lnsMax⟩, fDZ) else if a.s then (⟨false, true, 0⟩, fNV)
  else (⟨false, false, -a.l / 2⟩, oddFlag a.l)

def execVlmul (d a b : VRegNo) (p : Option Prefix) (s : State) : Out := lnsOp lnsMul d a b [a, b] p s
def execVldiv (d a b : VRegNo) (p : Option Prefix) (s : State) : Out := lnsOp lnsDiv d a b [a, b] p s
def execVlsqrt (d a : VRegNo) (p : Option Prefix) (s : State) : Out := lnsOp (fun x _ => lnsSqrt x) d a a [a] p s
def execVlrsqrt (d a : VRegNo) (p : Option Prefix) (s : State) : Out := lnsOp (fun x _ => lnsRsqrt x) d a a [a] p s

/-- Whether an exact number is an integer, and an odd one below 2^24. -/
def isInteger : FVal → Bool
  | .nan _ => false | .inf _ => true
  | .fin _ m e => decide (0 ≤ e) || decide (m % 2 ^ (-e).toNat = 0)
def isOddSmall : FVal → Bool
  | .fin _ m e =>
    let i := if 0 ≤ e then m * 2 ^ e.toNat else m / 2 ^ (-e).toNat
    isInteger (.fin false m e) && decide (i < 2 ^ 24) && i % 2 == 1
  | _ => false

/-- vlpow (R226); what it gives for a NaN power R226 states and R331 says otherwise (notes/assumptions/88.md). -/
def lnsPow (a : Lns) (y : FVal) : Lns × FlagBits :=
  let s := a.s && isOddSmall y
  match y with
  | .nan _ => (⟨false, true, 0⟩, fNV)
  | .inf t =>
    if a.z then (if t then (⟨s, false, lnsMax⟩, fDZ) else (⟨s, true, 0⟩, 0))
    else if a.l = 0 then (⟨s, false, 0⟩, 0)
    else if decide (a.l < 0) = t then (⟨s, false, lnsMax⟩, fOF ||| fNX)
    else (⟨s, true, 0⟩, fUF ||| fNX)
  | .fin t m e =>
    if a.z then
      if m = 0 then (⟨false, false, 0⟩, 0) else if t then (⟨s, false, lnsMax⟩, fDZ) else (⟨s, true, 0⟩, 0)
    else if a.s ∧ isInteger y = false then (⟨false, true, 0⟩, fNV)
    else
      let x := a.l * signed t m
      if 0 ≤ e then (⟨s, false, x * 2 ^ e.toNat⟩, 0)
      else (⟨s, false, x / 2 ^ (-e).toNat⟩, if x % 2 ^ (-e).toNat = 0 then 0 else fNX)

def execVlpow (d a b : VRegNo) (p : Option Prefix) (s : State) : Out :=
  issue s fun _ h =>
    match h.badTag isL32 [a], h.badTag (· == tF32) [b] with
    | some r, _ => h.formatFault r.val
    | none, some r => h.formatFault r.val
    | none, none =>
      if h.vecBusy then h.occupied (h.stuck h.st.units.vec)
      else
        let m := h.mods p
        let xs := elemsFrom 1024 0 [] fun n _ =>
          let r := lnsPow (Lns.ofNat ((h.vreg a).slot n)) (b32.unpack ((h.vreg b).slot n))
          let t := r.1.finish m
          (t.1, r.2 ||| t.2)
        h.vresult d 32 allSlotsMask tL32 8 4 xs

end Sys2Proof.Machine
end

