-- ==== Sys2Proof/Machine/Stream.lean ====
section
/-! DEFINITION. The stream operators of a VN die: kinds, configuration, routes, credits, rows (R233-R245). -/
namespace Sys2Proof.Machine
open Sys2Proof

/-! ### Kinds (R236) -/

def opPorts (k : Nat) : Nat := if k = 0 then 0 else if k = 2 then 2 else 1
def opRowsIn (k : Nat) : Nat := if k = 12 then 64 else 1
def opStorage (k : Nat) : Nat := if k = 2 ∨ k = 8 then 512 else if k = 12 then 16384 else 256
def opLatency (k : Nat) : Nat :=
  match k with
  | 1 => 4 | 2 => 4 | 3 => 8 | 4 => 8 | 5 => 10 | 6 => 12 | 7 => 12 | 8 => 20 | 9 => 12 | 10 => 8 | 11 => 16 | _ => 2
def opBuffer : Nat := 65536

/-! ### Rows as elements -/

def StreamRow.codes (r : StreamRow) : List Nat := (List.range 64).map fun j => (r.data.extractLsb' (32 * j) 32).toNat
def rowOfCodes (t : Tag) (xs : List Nat) : StreamRow := { tag := t, data := BitVec.ofNat 2048 (packNat 32 xs) }
/-- Parameter slot (row, j) of a configuration. -/
def paramAt (p : BitVec 32768) (row j : Nat) : Nat := elemAt p 32 (64 * row + j)

/-! ### What a kind computes from the rows of an instance (R237, R238) -/

/-- Elementwise results with their flags. -/
def mapFlags (f : Nat → Nat × FlagBits) (xs : List Nat) : List Nat × FlagBits :=
  xs.foldr (fun x acc => ((f x).1 :: acc.1, (f x).2 ||| acc.2)) ([], 0)

def rne32 (x : Exact) : Nat × FlagBits := b32.deliver false .rne 0 x

/-- C of EXPL: round(log2(e) × 2^30). -/
def explC : Nat := 1549082005

def explElem (x : Nat) : Nat × FlagBits :=
  match b32.unpack x with
  | .nan q => (b32.nan, if q then fNV else 0)
  | .inf s => (if s then 0 else b32.infCode false, 0)
  | .fin s m e =>
    let y := signed s (m * explC)
    let l := if 8 ≤ e then y * 2 ^ (e - 8).toNat else y / 2 ^ (8 - e).toNat
    if lnsMax < l then (b32.infCode false, fOF ||| fNX)
    else if l < lnsMin then (0, fUF ||| fNX)
    else rne32 { v := fromLns ⟨false, false, l⟩ }

/-- x before y in the order of TOPK: maximumNumber with +0 above −0 and NaN below every number; ties to the lower column. -/
def topBefore (x y : Nat × Nat) : Bool :=
  let a := b32.unpack x.1
  let b := b32.unpack y.1
  if a.isNan ∧ b.isNan then decide (x.2 < y.2)
  else if a.isNan then false
  else if b.isNan then true
  else
    let c := fcmp a b
    if c = 0 then (if a.sign = b.sign then decide (x.2 < y.2) else b.sign) else decide (0 < c)

def insertTop (x : Nat × Nat) (l : List (Nat × Nat)) : List (Nat × Nat) :=
  match l with
  | [] => [x]
  | y :: t => if topBefore x y then x :: y :: t else y :: insertTop x t
def sortTop (xs : List (Nat × Nat)) : List (Nat × Nat) := xs.foldl (fun acc x => insertTop x acc) []

def numbered (xs : List Nat) : List (Nat × Nat) := xs.zip (List.range xs.length)

def topkRows (k : Nat) (xs : List Nat) : List StreamRow :=
  let top := (sortTop (numbered xs)).take k
  let vals := top.map fun x => if (b32.unpack x.1).isNan then b32.nan else x.1
  [rowOfCodes tF32 (vals ++ List.replicate (64 - k) 0xFF800000),
   rowOfCodes tI32 (top.map (·.2) ++ List.replicate (64 - k) 0xFFFFFFFF)]

/-- The partial sums of PSUM from an accumulator on. -/
def psumFrom (acc : Nat) (xs : List Nat) : List Nat × FlagBits :=
  match xs with
  | [] => ([], 0)
  | x :: t =>
    let r := rne32 (exAdd .rne (b32.unpack acc) (b32.unpack x))
    let u := psumFrom r.1 t
    (r.1 :: u.1, r.2 ||| u.2)

/-- One F32 row as eight FP4 blocks (R238). -/
def qnt4Row (thr rowc colq : Nat) (xs : List Nat) : List Nat × Nat × FlagBits :=
  let r := (List.range 8).foldl (fun (q : QState) b =>
    let ys := ((xs.drop (8 * b)).take 8).map fun x => (b32.unpack x, elected (b32.unpack thr) (b32.unpack x))
    let s := scaleFor 256 0 (maxAbs ys)
    let t := quantElems .rne 32 rowc (64 * colq + 8 * b) s ys [] 0 q
    { t.1 with slots := t.1.slots ++ [t.2], scales := t.1.scales ++ [s] }) { cnt := 0 }
  let ents := r.new.map Thimble.bits
  (r.slots ++ [packNat 8 (r.scales.take 4), packNat 8 (r.scales.drop 4), r.cnt, r.nsat] ++ ents ++
     List.replicate (32 - ents.length) 0 ++ List.replicate 20 0, r.nsat, r.flags)

/-- The columns of the escape codes of a DQNT row. -/
def escapes (xs : List Nat) : List Nat := (List.range 64).filter fun c => xs.getD (c / 8) 0 / 16 ^ (c % 8) % 16 == 8

/-- A row of R238 back to binary32; none when it is inconsistent: a count that is not that of the escapes, an escape with no
entry, or an entry of another column. -/
def dqntRow (band : Nat) (xs : List Nat) : Option (List Nat × FlagBits) :=
  let n := xs.getD 10 0
  let esc := escapes xs
  let ents := (List.range 32).map fun k => thimbleOf (xs.getD (12 + k) 0)
  if n ≠ esc.length ∨ 32 < n ∨ ((esc.zip ents).all fun x => x.2.col % 64 == x.1) = false then none
  else
    some (mapFlags (fun c =>
      let code := xs.getD (c / 8) 0 / 16 ^ (c % 8) % 16
      let v := if code = 8 then (ents.getD (esc.findIdx (· == c)) ⟨0, 0, 0, false, false⟩).value
        else
          let sc := xs.getD (8 + c / 32) 0 / 256 ^ (c / 8 % 4) % 256
          (exMul (exMul (bf16.unpack band) (scaleVal sc)).v (e2m1.unpack code)).v
      rne32 { v := v, flags := v.snanFlag }) (List.range 64))

/-- Results of a slot: output rows, or none where the instance is discarded for its tag. -/
structure OpRun where
  rows : Option (List StreamRow)
  exc : FlagBits := 0
  tc : Bool := false
  qsat : Bool := false

def f32Rows (r : List Nat × FlagBits) : OpRun := { rows := some [rowOfCodes tF32 r.1], exc := r.2 }
def splat64 (r : Nat × FlagBits) : OpRun := { rows := some [rowOfCodes tF32 (List.replicate 64 r.1)], exc := r.2 }

/-- What an instance computes (R237, R238). TOPK orders a signalling NaN as any NaN and records no exception for it (DESIGN CHOICE,
notes/assumptions/37.md). -/
def OpSlot.run (o : OpSlot) (in0 in1 : List StreamRow) : OpRun :=
  let r0 := in0.headD ⟨0, 0⟩
  let r1 := in1.headD ⟨0, 0⟩
  let x := r0.codes
  if o.kind = 12 then
    let ins := (in0.map StreamRow.codes)
    { rows := some ((List.range 64).map fun r => rowOfCodes r0.tag (ins.map fun c => c.getD r 0)) }
  else if r0.tag ≠ (if o.kind = 10 then tNONE else tF32) ∨ (o.kind = 2 ∧ r1.tag ≠ tF32) then { rows := none }
  else
    match o.kind with
    | 1 =>
      f32Rows (mapFlags (fun j => rne32 (exFma .rne (b32.unpack (x.getD j 0)) (b32.unpack (paramAt o.params 0 j))
        (b32.unpack (paramAt o.params 1 j)))) (List.range 64))
    | 2 =>
      let y := r1.codes
      let neg := paramAt o.params 0 0 % 2 == 1
      f32Rows (mapFlags (fun j =>
        let b := b32.unpack (y.getD j 0)
        rne32 (exAdd .rne (b32.unpack (x.getD j 0)) (if neg then b.neg else b))) (List.range 64))
    | 3 => splat64 (redFloat .max b32 (x.map (·, 0)))
    | 4 => splat64 (redFloat .sum b32 (x.map (·, 0)))
    | 5 => f32Rows (mapFlags explElem x)
    | 6 => f32Rows (mapFlags (fun c => rne32 (exDiv (.fin false 1 0) (b32.unpack c))) x)
    | 7 => f32Rows (mapFlags (fun c => rne32 (exRsqrt (b32.unpack c))) x)
    | 8 => { rows := some (topkRows (paramAt o.params 0 0 % 32) x) }
    | 9 =>
      let q := qnt4Row (paramAt o.params 0 0) o.rowc (paramAt o.params 0 1 / 256 % 4) x
      { rows := some [rowOfCodes tNONE q.1], exc := q.2.2, qsat := q.2.1 != 0 }
    | 10 =>
      match dqntRow (paramAt o.params 0 0 % 65536) x with
      | some r => f32Rows r
      | none => { rows := some [rowOfCodes tF32 (List.replicate 64 b32.nan)], tc := true }
    | _ =>
      let r := psumFrom (x.headD 0) x.tail
      f32Rows (x.headD 0 :: r.1, r.2)

/-! ### Instances (R236, R237, R241) -/

def satInc (n : Nat) : Nat := if n < 0xFFFF then n + 1 else n

/-- The instance that takes the next row of a port, counted from the oldest. -/
def fillIdx (need port : Nat) (l : List OpInst) : Nat :=
  match l with
  | [] => 0
  | i :: t => if (if port = 0 then i.in0 else i.in1).length < need then 0 else 1 + fillIdx need port t

/-- A slot after a row is accepted on a port at a tick: an instance whose rows are all in computes, or is discarded. ROWC of QNT4
advances after a row that computes, not after one discarded for its tag (DESIGN CHOICE, notes/assumptions/37.md). -/
def OpSlot.accept (o : OpSlot) (tick port : Nat) (row : StreamRow) : OpSlot :=
  let need := opRowsIn o.kind
  let n := fillIdx need port o.insts
  let old := o.insts.getD n {}
  let inst : OpInst := if port = 0 then { old with in0 := old.in0 ++ [row] } else { old with in1 := old.in1 ++ [row] }
  let put := fun (i : OpInst) => if n < o.insts.length then o.insts.set n i else o.insts ++ [i]
  if o.kind = 12 ∧ row.tag ≠ ((inst.in0.headD row).tag) then
    { o with insts := o.insts.eraseIdx n, fmt := true, drop := satInc o.drop }
  else if inst.in0.length = need ∧ (opPorts o.kind = 1 ∨ inst.in1.length = need) then
    let r := o.run inst.in0 inst.in1
    let rowc := if o.kind = 9 ∧ r.rows.isSome then (o.rowc + 1) % 64 else o.rowc
    match r.rows with
    | none => { o with insts := (put inst).eraseIdx n, fmt := true, drop := satInc o.drop }
    | some rows =>
      let t0 := tick + opLatency o.kind
      { o with insts := put { inst with out := (List.range rows.length).zip rows |>.map fun x => (t0 + x.1, x.2) }
               exc := o.exc ||| r.exc.setWidth 5, tc := o.tc || r.tc, qsat := o.qsat || r.qsat, rowc := rowc }
  else { o with insts := put inst }

/-- The row that a slot may emit at a tick: the head row of its oldest instance. -/
def OpSlot.emitting (o : OpSlot) (tick : Nat) : Option StreamRow :=
  match o.insts with
  | i :: _ => match i.out with | (t, r) :: _ => if t ≤ tick then some r else none | [] => none
  | [] => none
/-- The slot after its head row has left; a drained instance is gone. -/
def OpSlot.emitted (o : OpSlot) : OpSlot :=
  match o.insts with
  | i :: t =>
    match i.out with
    | _ :: [] => { o with insts := t }
    | _ :: rest => { o with insts := { i with out := rest } :: t }
    | [] => o
  | [] => o

/-! ### Nodes, routes, credits (R233, R239, R241) -/

def Die.op (d : Die) (s : Nat) : OpSlot := amGet d.ops s {}
def Die.setOp (d : Die) (s : Nat) (o : OpSlot) : Die := { d with ops := amSet d.ops s o }

/-- The node of a code as a strand names it: operator slots 0–47, endpoints 0x80 + 4q + c; none for a reserved code. -/
def nodeOf (strand code : Nat) : Option Nat :=
  if code < 0x30 then some code
  else if 0x40 ≤ code ∧ code < 0x44 then some (0x80 + 4 * posOf strand + (code - 0x40))
  else if 0x80 ≤ code ∧ code < 0xE0 then some code
  else none
def endpointOf (strand : Nat) : Nat := 0x80 + strand % 128
def strandAt (slot node : Nat) : Nat := slot * 128 + (node - 0x80)

def Die.routeFrom (d : Die) (src : Nat) : Option Route := d.routes.find? (·.src == src)
/-- Nodes reached from a node along routes between operators. -/
def Die.chain (k : Nat) (d : Die) (n : Nat) : List Nat :=
  match k with
  | 0 => [n]
  | k + 1 => match d.routeFrom n with | some r => n :: (if r.dst < 48 then Die.chain k d r.dst else []) | none => [n]

/-- Rows that hold credits of an input port: on the link, and in instances or the receive queue. -/
def Hw.creditsUsed (h : Hw) (slot : Nat) (r : Route) : Nat :=
  let d := h.die slot
  let onLink := d.links.countP fun l => l.2.1.dst == r.dst && l.2.1.port == r.port
  onLink + (if r.dst < 48 then ((d.op r.dst).insts.map fun i => (if r.port = 0 then i.in0 else i.in1).length).sum
    else (h.strand (strandAt slot r.dst)).recvq.length)
def Hw.credits (h : Hw) (slot : Nat) (r : Route) : Nat :=
  let o := (h.die slot).op r.dst
  (if r.dst < 48 then o.throttle * opRowsIn o.kind else 64) - h.creditsUsed slot r

/-- A row leaves its source along a route; links take two ticks. -/
def Hw.leave (h : Hw) (slot : Nat) (r : Route) (row : StreamRow) : Hw :=
  let now := (h.part (h.partOf slot)).pclk
  h.updDie slot fun d => { d with links := d.links ++ [(now + 2, r, row)] }

/-! ### Configuration words (R234, R235, R239, R240) -/

/-- The configuration fault, naming a slot or a node code. -/
def Hw.configFault (h : Hw) (n : Nat) : Hw := h.trap { cause := Cause.config, info := n }

/-- What a configuration word does when it takes effect: 0 so.cfg, 1 so.rte, 2 so.thr. A new kind empties the slot: instances still in
flight in it are dropped (DESIGN CHOICE, notes/assumptions/37.md). -/
def Die.configure (d : Die) (strand word : Nat) (params : BitVec 32768) (xa xb : W64) : Die :=
  let s := xa.toNat % 64
  let o := d.op s
  if word = 0 then
    let k := xa.toNat / 256 % 16
    let rowc := paramAt params 0 1 % 64
    if k = 0 then d.setOp s {}
    else if k = o.kind then d.setOp s { o with params := params, rowc := rowc }
    else d.setOp s { kind := k, owner := some (coreOf strand), params := params, rowc := rowc }
  else if word = 1 then
    match nodeOf strand (xa.toNat % 256) with
    | none => d
    | some src =>
      if xb.toNat % 256 = 0xFF then { d with routes := d.routes.filter (·.src != src) }
      else match nodeOf strand (xb.toNat % 256) with
        | some dst => { d with routes := d.routes ++ [{ src := src, dst := dst, port := xb.toNat / 256 % 2 }] }
        | none => d
  else d.setOp s { o with throttle := xb.toNat % 128 }

def Die.applySo (d : Die) (x : SoWord) : Die := d.configure x.strand x.word x.params x.xa x.xb

def Die.slotRouted (d : Die) (s : Nat) : Bool := d.routes.any fun r => r.src == s || r.dst == s
/-- A slot that a core may not configure: another team's, or (for all but so.cfg) a free one. -/
def OpSlot.foreign (o : OpSlot) (core : Nat) : Bool := match o.owner with | some c => c != core | none => false

/-- The parameter checks of a kind at its so.cfg (R236). -/
def badParams (k : Nat) (params : BitVec 32768) : Bool :=
  let p := paramAt params 0 0
  if k = 8 then decide (p % 32 = 0 ∨ 16 < p % 32)
  else if k = 10 then !(p % 65536 == 0 || posNormal (p % 65536))
  else false

/-- The node at fault of a so.rte, if any. -/
def rteFault (d : Die) (strand : Nat) (xa xb : W64) : Option Nat :=
  let sc := xa.toNat % 256
  let dc := xb.toNat % 256
  let port := xb.toNat / 256 % 2
  let core := coreOf strand
  match nodeOf strand sc with
  | none => some sc
  | some src =>
    let so := d.op src
    if 48 ≤ src ∧ src ≠ endpointOf strand then some sc
    else if src < 48 ∧ so.owner ≠ some core then some sc
    else if dc = 0xFF then
      match d.routeFrom src with
      | none => none
      | some r =>
        if d.links.any (fun l => l.2.1.src == src) ∨ (r.dst < 48 ∧ (d.op r.dst).insts ≠ []) then some sc else none
    else
      match nodeOf strand dc with
      | none => some dc
      | some dst =>
        let o := d.op dst
        if dst < 48 ∧ o.owner ≠ some core then some dc
        else if (if dst < 48 then opPorts o.kind else 1) ≤ port then some dc
        else if (d.routeFrom src).isSome then some sc
        else if d.routes.any fun r => r.dst == dst && r.port == port then some dc
        else if src < 48 ∧ dst < 48 ∧ (d.chain 48 dst).contains src = true then some dc
        else if dst < 48 ∧ opBuffer < o.throttle * opStorage o.kind then some dc
        else none

/-- The slot or node code of the configuration fault that a word meets at a die, if it meets one (R235, R239, R240). -/
def Die.soFault (d : Die) (x : SoWord) : Option Nat :=
  let sl := x.xa.toNat % 64
  let o := d.op sl
  if x.word = 0 then
    let k := x.xa.toNat / 256 % 16
    if 47 < sl ∨ 12 < k ∨ o.foreign (coreOf x.strand) = true ∨ (k ≠ o.kind ∧ d.slotRouted sl = true) ∨
        (k = 0 ∧ o.insts ≠ []) ∨ badParams k x.params = true then some sl else none
  else if x.word = 1 then rteFault d x.strand x.xa x.xb
  else
    let th := x.xb.toNat % 128
    if 47 < sl ∨ o.owner ≠ some (coreOf x.strand) ∨ th = 0 ∨ 64 < th ∨ opBuffer < th * opStorage o.kind then some sl else none

/-- The order of two pending writes of one place: that of their issue; configuration words of one die issued in one tick stand in the
order of their requester keys, clusters of one team among them (R234, R350). -/
def Pend.before (q x : Pend) : Bool :=
  match q.act, x.act with
  | .so k _ _ _ _, .so j _ _ _ _ =>
    if slotOf k = slotOf j ∧ q.due = x.due ∧ q.wall = x.wall then decide (k < j) else decide (q.seq < x.seq)
  | _, _ => decide (q.seq < x.seq)

/-- Pending writes in order. -/
def insertPend (q : Pend) (l : List Pend) : List Pend :=
  match l with
  | [] => [q]
  | x :: t => if q.before x then q :: x :: t else x :: insertPend q t

def insertSo (q : SoWord) (l : List SoWord) : List SoWord :=
  match l with
  | [] => [q]
  | x :: t => if q.strand < x.strand then q :: x :: t else x :: insertSo q t

/-- The configuration word of a pending write. -/
def PendAct.so? : PendAct → Option SoWord
  | .so j w ps xa xb => some ⟨j, w, ps, xa, xb⟩
  | _ => none

/-- The die as the configuration words issued before leave it: what a word is checked against (R234). Of words issued in one tick those
of a lower core, and of a lower cluster of the team, come before, whether they have had their turn or not; one that faults changes
nothing (notes/assumptions/37.md). -/
def Hw.soView (h : Hw) (slot : Nat) : Die :=
  let mine := h.pend.filter fun p => match p.act.so? with | some x => slotOf x.strand == slot | none => false
  let now := fun (p : Pend) => p.due == h.tick + 2 && p.wall == h.useWall h.cur
  let old := (mine.filter fun p => !now p).foldl (fun l p => insertPend p l) []
  let d := old.foldl (fun d p => match p.act.so? with | some x => d.applySo x | none => d) (h.die slot)
  let same := ((mine.filter now).filterMap (·.act.so?) ++ h.soAhead).filter fun x => decide (x.strand < h.cur)
  (same.foldl (fun l x => insertSo x l) []).foldl (fun d x => if (d.soFault x).isNone then d.applySo x else d) d

/-- A configuration word: the checks of its member, then the strand's stream port (R220, R234). -/
def Hw.soWord (h : Hw) (word : Nat) (params : BitVec 32768) (xa xb : W64) : Hw :=
  match (h.soView (slotOf h.cur)).soFault ⟨h.cur, word, params, xa, xb⟩ with
  | some n => h.configFault n
  | none =>
    if h.streamBusy then h.occupied (h.stuck h.st.units.stream)
    else ((h.takeStream 1).later 2 (.so h.cur word params xa xb)).advance

def execSoCfg (v : VRegNo) (a : XReg) (s : State) : Out :=
  issue s fun _ h => h.soWord 0 (h.vreg v).data (h.rx a) 0

def execSoRte (a b : XReg) (s : State) : Out := issue s fun _ h => h.soWord 1 0 (h.rx a) (h.rx b)

def execSoThr (a b : XReg) (s : State) : Out := issue s fun _ h => h.soWord 2 0 (h.rx a) (h.rx b)

/-! ### Sending and receiving (R242, R243) -/

/-- A row of a register leaves a strand's endpoint. -/
def Hw.sendRow (h : Hw) (strand : Nat) (v : VRegNo) (row : Nat) : Hw :=
  let slot := slotOf strand
  match (h.die slot).routeFrom (endpointOf strand) with
  | none => h.updStrand strand fun st => { st with unaccepted := st.unaccepted - 1 }
  | some r =>
    let x := (h.strand strand).v.get v
    h.leave slot r { tag := x.tag, data := x.data.extractLsb' (2048 * row) 2048 }

/-- Too few credits for n rows (R242): the queue-overflow trap, or a space block until the port has them. -/
def Hw.blockSend (h : Hw) (n : Nat) : Hw :=
  if h.strict then h.block 0xFFEF else h.upd fun st => { st with wait := .space h.wtick (0x10000 + n) }

def execSoSend (v : VRegNo) (a : XReg) (s : State) : Out :=
  issue s fun _ h =>
    let n := (h.rx a).toNat % 32
    let slot := slotOf h.cur
    let ep := 0x40 + clusterOf h.cur
    match (h.die slot).routeFrom (endpointOf h.cur) with
    | none => h.configFault ep
    | some r =>
      if n = 0 ∨ 16 < n then h.configFault ep
      else if h.streamBusy then h.occupied (h.stuck h.st.units.stream)
      else if h.credits slot r < n then h.blockSend n
      else
        let g := (h.takeStream n).upd fun st => { st with unaccepted := st.unaccepted + n }
        let g := g.sendRow h.cur v 0
        ((List.range (n - 1)).foldl (fun (g : Hw) i => g.later (i + 1) (.sendRow h.cur v (i + 1))) g).advance

/-- The rows popped: up to k, of one tag. -/
def popRows (k : Nat) (t : Option Tag) (q : List StreamRow) : List StreamRow :=
  match k, q with
  | 0, _ => []
  | _, [] => []
  | k + 1, r :: rest => if t.isNone ∨ t = some r.tag then r :: popRows k (some r.tag) rest else []

def execSoRecv (v : VRegNo) (d : XReg) (s : State) : Out :=
  issue s fun _ h =>
    if h.streamBusy then h.occupied (h.stuck h.st.units.stream)
    else
      let rows := popRows 16 none h.st.recvq
      let c := rows.length
      let g := (h.takeStream 1).upd fun st => { st with recvq := st.recvq.drop c }
      let g := match rows with
        | [] => g
        | r :: _ =>
          let data := BitVec.ofNat 32768 (packNat 2048 (rows.map fun (x : StreamRow) => x.data.toNat))
          g.landV v data (rowsMask 0 c) r.tag 3
      (g.landX d (BitVec.ofNat 64 c) 3).advance

/-! ### Status (R244) -/

def OpSlot.status (o : OpSlot) (core : Nat) : Nat :=
  o.drop * 2 ^ 48 + o.insts.length * 2 ^ 40 + o.throttle * 2 ^ 32 + o.kind * 2 ^ 12 + (o.owner == some core).toNat * 2 ^ 11 +
    o.fmt.toNat * 2 ^ 10 + o.tc.toNat * 2 ^ 9 + o.qsat.toNat * 2 ^ 8 + o.exc.toNat

/-- See R244. The status is sampled, and its sticky bits are cleared, at the issue tick (DESIGN CHOICE, notes/assumptions/37.md). -/
def execSoStat (d b : XReg) (s : State) : Out :=
  issue s fun _ h =>
    let x := (h.rx b).toNat
    let sl := x % 64
    let slot := slotOf h.cur
    let o := (h.die slot).op sl
    if 47 < sl then h.configFault sl
    else if h.streamBusy then h.occupied (h.stuck h.st.units.stream)
    else
      let g := (h.takeStream 1).landX d (BitVec.ofNat 64 (o.status (coreOf h.cur))) 2
      let clr := x / 256 % 2 = 1 ∧ o.owner = some (coreOf h.cur)
      (if clr then g.updDie slot fun dd => dd.setOp sl { o with fmt := false, tc := false, qsat := false, exc := 0 } else g).advance

/-! ### Rows on their way (R241, R242) -/

/-- A row that a link delivers is accepted at its node: into the receive queue of an endpoint, or by an operator. -/
def Hw.acceptRow (h : Hw) (slot node port : Nat) (r : StreamRow) : Hw :=
  let d := h.die slot
  let now := (h.part (h.partOf slot)).pclk
  let hit := d.links.find? fun l => l.2.1.dst == node && l.2.1.port == port
  let h1 := h.updDie slot fun d => { d with links := match hit with | some x => d.links.erase x | none => d.links }
  let h2 := match hit with
    | some (_, rt, _) =>
      if 0x80 ≤ rt.src then h1.updStrand (strandAt slot rt.src) fun st => { st with unaccepted := st.unaccepted - 1 } else h1
    | none => h1
  if node < 48 then h2.updDie slot fun d => d.setOp node ((d.op node).accept now port r)
  else h2.updStrand (strandAt slot node) fun st => { st with recvq := st.recvq ++ [r] }

/-- Every row on the links of a die is accepted, in the order in which they left (R245). -/
def Hw.acceptLinks (h : Hw) (slot : Nat) : Hw :=
  (h.die slot).links.foldl (fun (g : Hw) l => g.acceptRow slot l.2.1.dst l.2.1.port l.2.2) h

def execStreamRowAccept (slot node port : Nat) (tag : Tag) (row : BitVec 2048) (s : State) : Out :=
  atSlot slot s fun s => s.updHw fun h => h.acceptRow slot node port { tag := tag, data := row }

/-- The output rows of a slot come later by n ticks. -/
def OpSlot.delay (o : OpSlot) (n : Nat) : OpSlot :=
  { o with insts := o.insts.map fun (i : OpInst) => { i with out := i.out.map fun x => (x.1 + n, x.2) } }

/-- An operator emits its next row when it is due and its destination has a credit. -/
def execOperatorEmit (slot node : Nat) (s : State) : Out :=
  atSlot slot s fun s => s.updHw fun h =>
    let d := h.die slot
    match d.routeFrom node, (d.op node).emitting (h.part (h.partOf slot)).pclk with
    | some r, some row =>
      if h.credits slot r = 0 then h
      else (h.leave slot r row).updDie slot fun d => d.setOp node (d.op node).emitted
    | _, _ => h

end Sys2Proof.Machine
end

