-- ==== Sys2Proof/Machine/Gather.lean ====
section
/-! DEFINITION. Class G: bitmap vectors, intersect, scatter-add, histogram, selection, sort, and the embedding gather at issue
(R286-R299). -/
namespace Sys2Proof.Machine
open Sys2Proof

/-! ### The gather unit (R287, R288) -/

/-- The frozen pipelines around a hook occupy the gather unit (R365). -/
def Hw.gatherStuck (h : Hw) : Bool := h.stuck (h.core (coreOf h.cur)).gatherFree
def Hw.gatherBusy (h : Hw) : Bool :=
  let c := h.core (coreOf h.cur)
  decide (h.tick < if h.useWall h.cur then c.gatherWall else c.gatherFree) || h.gatherStuck
def Hw.takeGather (h : Hw) (n : Nat) : Hw :=
  h.updCore (coreOf h.cur) fun c =>
    if h.useWall h.cur then { c with gatherWall := h.tick + n } else { c with gatherFree := h.tick + n }

/-- A write of the array port. -/
def Hw.gatherStore (h : Hw) (off : Nat) (bs : List Byte) (lat : Nat) : Hw := h.later lat (.store (coreOf h.cur) 4 off bs)

/-- A scratchpad region of n bytes that lies below 2^21. -/
def inSpad (a n : Nat) : Bool := decide (a < Config.spadSize) && decide (a + n ≤ Config.spadSize)

/-! ### Bitmap vectors (R289-R291) -/

/-- A bitmap pair operand. -/
structure BitmapPair where
  fmt : Bool
  w : Nat
  bmb : Nat
  bma : Nat
  deriving DecidableEq, Repr

/-- Its fields; the faulting address where a must-be-zero bit is set, W is 0, or a bitmap is misaligned or runs past the
scratchpad. -/
def bitmapPair (v : W64) (fmtOk bOk : Bool) : Except W64 BitmapPair :=
  let x : BitmapPair :=
    { fmt := v.getLsbD 55, w := (v.extractLsb' 42 13).toNat, bmb := (v.extractLsb' 21 21).toNat, bma := (v.extractLsb' 0 21).toNat }
  if v.toNat / 2 ^ 56 ≠ 0 ∨ (x.fmt = true ∧ fmtOk = false) ∨ (x.bmb ≠ 0 ∧ bOk = false) ∨ x.w = 0 then .error 0
  else if x.bma % 8 ≠ 0 ∨ inSpad x.bma (8 * x.w) = false then .error (BitVec.ofNat 64 x.bma)
  else if bOk ∧ (x.bmb % 8 ≠ 0 ∨ inSpad x.bmb (8 * x.w) = false) then .error (BitVec.ofNat 64 x.bmb)
  else .ok x

/-- The words of a bitmap. -/
def bitmapWords (m : Memory) (core a w : Nat) : List Nat :=
  (List.range w).map fun j => Memory.readNat m (spadKey core (a + 8 * j)) 8

def popcount (n : Nat) : Nat := (List.range 64).countP fun i => n.testBit i
def ceilDiv (a b : Nat) : Nat := (a + b - 1) / b

def execGbmand (d a b : XReg) (s : State) : Out :=
  issue s fun m h =>
    match bitmapPair (h.rx a) false true with
    | .error ea => h.accessFault ea
    | .ok p =>
      let c := coreOf h.cur
      let out := (h.rx b).toNat
      if out % 8 ≠ 0 ∨ inSpad out (8 * p.w) = false then h.accessFault (h.rx b)
      else if h.gatherBusy then h.occupied h.gatherStuck
      else if h.badSpad p.bma (8 * p.w) then h.uncorrectable p.bma (8 * p.w)
      else if h.badSpad p.bmb (8 * p.w) then h.uncorrectable p.bmb (8 * p.w)
      else
        let ws := ((bitmapWords m c p.bma p.w).zip (bitmapWords m c p.bmb p.w)).map fun x => Nat.land x.1 x.2
        let n := 3 * ceilDiv p.w 128
        let r := h.correctBoth p.bma (8 * p.w) p.bmb (8 * p.w) (n + 3)
        let lat := n + 3 + r.2
        ((r.1.takeGather n).gatherStore out (ws.flatMap (leBytes 8)) lat).result d (BitVec.ofNat 64 (ws.map popcount).sum) 0 lat

/-- 0 and the running counts of set bits. -/
def runningCounts (acc : Nat) (ws : List Nat) : List Nat :=
  match ws with
  | [] => [acc]
  | w :: t => acc :: runningCounts (acc + popcount w) t

def execGpopx (d a b : XReg) (s : State) : Out :=
  issue s fun m h =>
    match bitmapPair (h.rx a) false false with
    | .error ea => h.accessFault ea
    | .ok p =>
      let out := (h.rx b).toNat
      if out % 4 ≠ 0 ∨ inSpad out (4 * (p.w + 1)) = false then h.accessFault (h.rx b)
      else if h.gatherBusy then h.occupied h.gatherStuck
      else if h.badSpad p.bma (8 * p.w) then h.uncorrectable p.bma (8 * p.w)
      else
        let cs := runningCounts 0 (bitmapWords m (coreOf h.cur) p.bma p.w)
        let n := ceilDiv p.w 128 + ceilDiv (p.w + 1) 256
        let r := h.correctSpad p.bma (8 * p.w) (n + 3)
        let lat := n + 3 + r.2
        ((r.1.takeGather n).gatherStore out (cs.flatMap (leBytes 4)) lat).result d (BitVec.ofNat 64 (cs.getLastD 0)) 0 lat

/-- gisect enters the intersect queue of its core (R292). -/
def execGisect (d a b c : XReg) (s : State) : Out :=
  issue s fun _ h =>
    match bitmapPair (h.rx a) true true with
    | .error ea => h.accessFault ea
    | .ok p =>
      let v := h.rx b
      let core := coreOf h.cur
      if v.toNat / 2 ^ 42 ≠ 0 then h.fault Cause.access
      else if 4 ≤ (h.core core).iq.length then h.block 0xFFFE
      else
        let x : Isect :=
          { id := h.fresh, seq := h.seq, strand := h.cur, sup := h.st.sup, issued := h.ptick (slotOf h.cur), dest := d, bf16 := p.fmt, w := p.w
            bma := p.bma, bmb := p.bmb, vala := (v.extractLsb' 0 21).toNat, valb := (v.extractLsb' 21 21).toNat
            acc := if p.fmt then (h.rx c).setWidth 32 |>.setWidth 64 else h.rx c }
        (({ h with fresh := h.fresh + 1, seq := h.seq + 1 }).updCore core fun k => { k with iq := k.iq ++ [x] }).advance

def incSat (n k : Nat) : Nat := Nat.min (n + k) 0xFFFF

/-- A value of a packed array: zero at or beyond the scratchpad's end, and whether it was. -/
def packedVal (m : Memory) (core base sz i : Nat) : Nat × Bool :=
  let a := base + sz * i
  if Config.spadSize < a + sz then (0, true) else (Memory.readNat m (spadKey core a) sz, false)

/-- What one word of a gisect gives: accumulator, flags, and value positions beyond the scratchpad. -/
structure IsectWord where
  acc : W64
  fl : FlagBits
  oor : Nat
  deriving DecidableEq, Repr

/-- Word j with its values (R291). -/
def isectWord (m : Memory) (core : Nat) (x : Isect) (wa wb : Nat) : IsectWord :=
  let mm := Nat.land wa wb
  let sz := if x.bf16 then 2 else 1
  let vals := (List.range 64).map fun b =>
    if mm.testBit b then
      some (packedVal m core x.vala sz (x.oa + popcount (wa % 2 ^ b)), packedVal m core x.valb sz (x.ob + popcount (wb % 2 ^ b)))
    else none
  let oor := (vals.map fun v => match v with | some (p, q) => p.2.toNat + q.2.toNat | none => 0).sum
  if x.bf16 then
    if mm = 0 then { acc := x.acc, fl := 0, oor := 0 }
    else
      let ps := vals.map fun v => match v with
        | some (p, q) => b32.deliver false .rne 0 (exMul (bf16.unpack p.1) (bf16.unpack q.1))
        | none => (0, 0)
      let t := redFloat .sum b32 ps
      let r := b32.deliver false .rne 0 (exAdd .rne (b32.unpack x.acc.toNat) (b32.unpack t.1))
      { acc := BitVec.ofNat 64 r.1, fl := r.2 ||| t.2, oor := oor }
  else
    let sum := (vals.map fun v => match v with
      | some (p, q) => bitsInt 8 true p.1 * bitsInt 8 true q.1
      | none => 0).foldl (· + ·) (0 : Int)
    { acc := x.acc + BitVec.ofInt 64 sum, fl := 0, oor := oor }

/-- Samples word j of a gisect; after the last word its result is on its way, in the place among landings that its issue gives it
(R137). A word that is uncorrectable is recorded and leaves a free value in the accumulator (notes/assumptions/25.md). -/
def Hw.isectSample (m : Memory) (h : Hw) (core id j : Nat) : Hw :=
  match (h.core core).iq.find? (·.id == id) with
  | none => h
  | some x =>
    let slot := core / 32
    let ka := spadKey core (x.bma + 8 * j)
    let kb := spadKey core (x.bmb + 8 * j)
    let wa := Memory.readNat m ka 8
    let wb := Memory.readNat m kb 8
    let r := isectWord m core x wa wb
    let sz := if x.bf16 then 2 else 1
    let both := (List.range 64).filter (Nat.land wa wb).testBit
    let read := [(ka, 8), (kb, 8)] ++ both.flatMap fun b =>
      [(spadKey core (x.vala + sz * (x.oa + popcount (wa % 2 ^ b))), sz), (spadKey core (x.valb + sz * (x.ob + popcount (wb % 2 ^ b))), sz)]
    let lost := read.filter fun r => h.badAt r.1 r.2
    let bad := lost != []
    let h := read.foldl (fun (g : Hw) r => (g.timedScan slot (spadUnit core) r.1 r.2 3).1) h
    let h := match lost with | r :: _ => (h.unreadable slot (spadUnit core) (r.1 % 2 ^ 60) r.1 r.2).used | [] => h
    let y : Isect :=
      { x with
        acc := if bad then BitVec.ofNat 64 (Config.freeNat (h.fresh - 1)) else r.acc
        flags := x.flags ||| r.fl, oa := x.oa + popcount wa, ob := x.ob + popcount wb }
    let g := h.updCore core fun c =>
      { c with voor := incSat c.voor r.oor, iq := c.iq.map fun z => if z.id = id then y else z }
    if j + 1 = x.w then
      let g := (g.pendFor x.strand 1 (.isectFree core id)).pendFor x.strand (if x.bf16 then 11 else 7)
        (.isectLand core x.strand x.sup x.dest y.acc y.flags)
      { g with pend := g.pend.map fun (q : Pend) => if q.seq + 1 = g.seq then { q with seq := x.seq } else q }
    else g

/-- The gisect that an intersect unit takes next: of its six cores' queues, the least issue tick, then the lower core (R287,
R292). -/
def Hw.isectHead (h : Hw) (slot unit : Nat) : Option (Nat × Isect) :=
  let now := h.ptick slot
  let cores := (List.range 6).map fun i => slot * 32 + 6 * unit + i
  let cand := cores.filterMap fun c =>
    match (h.core c).iq.find? fun x => !x.started with
    | some x => if x.issued < now then some (c, x) else none
    | none => none
  cand.foldl (fun best y => match best with
    | none => some y
    | some z => if y.2.issued < z.2.issued then some y else some z) none

/-- The intersect unit has finished its previous command. -/
def Hw.isectReady (h : Hw) (slot unit : Nat) : Bool :=
  decide ((h.die slot).intersectFree.get (Fin.ofNat 4 unit) ≤ h.ptick slot) && (h.isectHead slot unit).isSome

def execIntersectStart (slot : Nat) (iunit : Nat) (s : State) : Out :=
  atSlot slot s fun s => s.updHw fun h =>
    if h.isectReady slot iunit = false then h
    else
      match h.isectHead slot iunit with
      | none => h
      | some (core, x) =>
        let g := (h.updCore core fun c =>
            { c with iq := c.iq.map fun z => if z.id = x.id then { z with started := true } else z }).updDie slot fun d =>
          { d with intersectFree := d.intersectFree.set (Fin.ofNat 4 iunit) (h.ptick slot + x.w) }
        (List.range x.w).foldl (fun (g : Hw) j => g.pendFor x.strand j (.isect core x.id j)) g

/-! ### Scatter-add and histogram (R293, R294) -/

/-- gscadd and ghist: the words at the indexed places are read and written at t + λ (notes/assumptions/40.md). -/
def scatterInto (h : Hw) (v : Option VRegNo) (w : VRegNo) (a b : XReg) : Hw :=
  let bad := match v with | some r => h.badTag (· == tF32) [r] | none => none
  match bad.or (h.badTag (· == tI32) [w]) with
  | some r => h.formatFault r.val
  | none =>
    let xa := (h.rx a).toNat
    let c := ((h.rx b).extractLsb' 0 11).toNat
    let nb := ((h.rx b).extractLsb' 16 16).toNat
    let hist := v.isNone
    if c = 0 ∨ 1024 < c ∨ (hist = true ∧ nb = 0) then h.fault Cause.access
    else if xa % 4 ≠ 0 ∨ inSpad xa (if hist then 4 * nb + 4 else 4) = false then h.accessFault (h.rx a)
    else if h.gatherBusy then h.occupied h.gatherStuck
    else
      let n := ceilDiv c 64
      let items := (List.range c).map fun e =>
        ((h.vreg w).slot e, match v with | some r => BitVec.ofNat 32 ((h.vreg r).slot e) | none => 1)
      ((h.takeGather n).later (n + 3) (.scatter (coreOf h.cur) xa items v.isSome nb h.cur)).advance

def execGscadd (v w : VRegNo) (a b : XReg) (s : State) : Out := issue s fun _ h => scatterInto h (some v) w a b
def execGhist (w : VRegNo) (a b : XReg) (s : State) : Out := issue s fun _ h => scatterInto h none w a b

/-- The landing of gscadd (`flt`) or ghist: each target in ascending e; an uncorrectable one keeps its bits and is recorded;
one beyond the scratchpad is counted (R293). -/
def State.scatterLand (s : State) (core base : Nat) (items : List (Nat × BitVec 32)) (flt : Bool) (nb strand : Nat) : State :=
  match items with
  | [] => s
  | (i, v) :: t =>
    let off := base + 4 * (if flt then i else Nat.min i nb)
    let k := spadKey core off
    let s1 :=
      if Config.spadSize ≤ off + 3 then s.updHw fun h => h.updCore core fun c => { c with soor := incSat c.soor 1 }
      else if s.hw.badAt k 4 then s.updHw fun h => h.spadLost core off 4
      else
        let old := Memory.readNat s.mem k 4
        if flt then
          let r := b32.deliver false .rne 0 (exAdd .rne (b32.unpack old) (b32.unpack v.toNat))
          (s.poke k (leBytes 4 r.1)).updHw fun h => (h.stored k 4).updStrand strand fun st => { st with flags := st.flags ||| r.2 }
        else (s.poke k (leBytes 4 (old + 1))).updHw fun h => h.stored k 4
    State.scatterLand s1 core base t flt nb strand

/-! ### Selection and sort (R295, R296) -/

def evenPair (v : VRegNo) : VRegNo := Fin.ofNat 16 (v.val + 1)

def execGtopk (v w : VRegNo) (b : XReg) (s : State) : Out :=
  issue s fun _ h =>
    match h.badTag (· == tF32) [w] with
    | some r => h.formatFault r.val
    | none =>
      let k := ((h.rx b).extractLsb' 0 11).toNat
      if k = 0 ∨ 1024 < k then h.fault Cause.access
      else if h.gatherBusy then h.occupied h.gatherStuck
      else
        let xs := (List.range 1024).map (h.vreg w).slot
        let top := (sortTop (numbered xs)).take k
        let vals := top.map fun x => if (b32.unpack x.1).isNan then b32.nan else x.1
        let g := (h.takeGather 8).landV v (packReg 32 (vals ++ List.replicate (1024 - k) 0xFF800000)) allSlotsMask tF32 16
        let g := g.landV (evenPair v) (packReg 32 (top.map (·.2) ++ List.replicate (1024 - k) 0xFFFFFFFF)) allSlotsMask tI32 16
        (g.landFlags (if xs.any fun x => (b32.unpack x).isSnan then fNV else 0) 16).advance

/-- Inserts a key with its slot number after those that do not exceed it. -/
def insertKey (le : Nat → Nat → Bool) (x : Nat × Nat) (l : List (Nat × Nat)) : List (Nat × Nat) :=
  match l with
  | [] => [x]
  | y :: t => if le y.1 x.1 then y :: insertKey le x t else x :: y :: t

def execGsortk (v w : VRegNo) (g : Bool) (s : State) : Out :=
  issue s fun _ h =>
    match h.badTag (· == tI32) [w] with
    | some r => h.formatFault r.val
    | none =>
      if h.gatherBusy then h.occupied h.gatherStuck
      else
        let le := fun x y => decide (bitsInt 32 g x ≤ bitsInt 32 g y)
        let xs := (numbered ((List.range 1024).map (h.vreg w).slot)).foldl (fun l x => insertKey le x l) []
        let h1 := (h.takeGather 16).landV v (packReg 32 (xs.map (·.1))) allSlotsMask tI32 24
        (h1.landV (evenPair v) (packReg 32 (xs.map (·.2))) allSlotsMask tI32 24).advance

/-! ### Embedding gather (R297, R298) -/

/-- Element size of an embedding format; none for a tag that is not accepted. -/
def embSize (t : Tag) : Option Nat :=
  if t = tF32 then some 4 else if t = tB16 ∨ t = tH16 then some 2 else if t = tE4 ∨ t = tE5 ∨ t = tI8 then some 1 else none

/-- A write of a table register at t + 1, unless a lower cluster writes it in the same tick. -/
def Hw.writeTable (h : Hw) (t : BitVec 3) (et : Option EmbTable) : Hw :=
  let c := coreOf h.cur
  let due := h.tick + 1
  let lower := h.pend.any fun q => q.due == due && (match q.act with
    | .embTable c' k' t' _ => c' == c && t' == t && decide (k' < clusterOf h.cur) | _ => false)
  if lower then h else h.later 1 (.embTable c (clusterOf h.cur) t et)

/-- gcfg: takes effect at t + 1; of the writes of one tick, that of the lower cluster stands (R297). -/
def execGcfg (a b : XReg) (s : State) : Out :=
  issue s fun _ h =>
    let v := h.rx a
    let base := h.rx b
    let et : EmbTable := { nr := (v.extractLsb' 32 32).toNat, fmt := v.extractLsb' 24 4, rb := (v.extractLsb' 8 16).toNat, base := base }
    let ok : Bool := match EngAddr.ofNat base.toNat with
      | some (.virt _) => true
      | some (.sram sl o) => (EngAddr.sram sl o).fits 1 && h.inPartition h.myPart sl
      | _ => false
    if et.rb = 0 then (h.writeTable (v.setWidth 3) none).advance
    else if v.extractLsb' 28 4 ≠ 0 ∨ v.extractLsb' 3 5 ≠ 0 ∨ et.nr = 0 ∨ (embSize et.fmt).isNone = true ∨ et.rb % 64 ≠ 0 ∨ 32768 < et.rb
      ∨ ok = false then h.fault Cause.access
    else (h.writeTable (v.setWidth 3) (some et)).advance

/-- Bytes of an output row of gemb. -/
def embRow (t : EmbTable) (pool : BitVec 2) : Nat :=
  if pool = 0 then t.rb else 4 * (t.rb / (embSize t.fmt).getD 1)

/-- gemb enters the embedding queue of its core (R298). -/
def execGemb (d a b : XReg) (et : BitVec 3) (pool : BitVec 2) (zm1 : BitVec 11) (nm1 : BitVec 16) (s : State) : Out :=
  issue s fun _ h =>
    let core := coreOf h.cur
    let n := nm1.toNat + 1
    let z := zm1.toNat + 1
    match (h.core core).et.get et.toFin with
    | none => h.fault Cause.access
    | some t =>
      let rows := if pool = 0 then n else n / z
      if (h.rx a).toNat % 4 ≠ 0 ∨ inSpad (h.rx a).toNat (4 * n) = false then h.accessFault (h.rx a)
      else if (h.rx d).toNat % 64 ≠ 0 ∨ inSpad (h.rx d).toNat (rows * embRow t pool) = false then h.accessFault (h.rx d)
      else if (h.rx b).toNat % 16 ≠ 0 ∨ Config.spadSize ≤ (h.rx b).toNat then h.accessFault (h.rx b)
      else if 8 ≤ (h.core core).eq.length then h.block 0xFFFD
      else
        let c : EmbCmd :=
          { id := h.fresh, strand := h.cur, issued := h.wtick, table := t, idx := (h.rx a).toNat, out := (h.rx d).toNat
            sync := (h.rx b).toNat, pool := pool, z := z, n := n, seg := (h.part h.myPart).seg
            after := addAll h.st.fencedW h.st.fencedR, afterSeq := h.st.fencedSeq, afterAcq := h.st.acqSeq }
        (({ h with fresh := h.fresh + 1 }).updCore core fun k => { k with eq := k.eq ++ [c] }).advance

/-! ### gstat (R299) -/

def execGstat (d : XReg) (c : Bool) (s : State) : Out :=
  issue s fun _ h => (h.later 2 (.gstat h.cur h.st.sup d c)).advance

def Core.gstatReg (c : Core) : Nat :=
  c.eoor * 2 ^ 48 + c.soor * 2 ^ 32 + c.voor * 2 ^ 16 + c.iq.length * 2 ^ 12 + c.eq.length * 2 ^ 8 + c.eexc.toNat

/-- The G status lands, and is cleared. -/
def Hw.gstatValue (h : Hw) (strand : Nat) : W64 := BitVec.ofNat 64 (h.core (coreOf strand)).gstatReg
/-- What CLR does (R299). -/
def Core.clearCounts (x : Core) : Core := { x with eoor := 0, soor := 0, voor := 0, eexc := 0 }

end Sys2Proof.Machine
end

