-- ==== Sys2Proof/Machine/Transfer.lean ====
section
/-! DEFINITION. Class X at the `enq`: queues, the transfer control word, collective descriptors, the checks of R302-R304 and
R313, acceptance, and timed copies (R300-R319). -/
namespace Sys2Proof.Machine
open Sys2Proof

/-! ### Queues (R301) -/

def xIsView : XOp → Bool
  | .viewRd | .viewAck | .viewJoin | .viewAdm => true
  | _ => false
def xIsColl : XOp → Bool
  | .cred | .crs | .cag | .cbc | .ca2a => true
  | _ => false
/-- Reductions. -/
def xIsRed : XOp → Bool
  | .cred | .crs => true
  | _ => false

/-- Depth of a queue; none where the die has no such queue. -/
def queueDepth (slot q : Nat) : Option Nat :=
  match Config.slotType slot with
  | .nb => if q < 8 then some 32 else none
  | .fb => if q = 0 then some 32 else none
  | .sw => if q < 8 then some 32 else if q = 8 then some 16 else none
  | _ => none

def queueAccepts (slot q : Nat) (op : XOp) : Bool :=
  op == .xstat ||
    match Config.slotType slot with
    | .nb => !xIsColl op && !xIsView op && op != .migr
    | .fb => !xIsColl op && !xIsView op
    | .sw => if q = 8 then xIsView op else !xIsView op && op != .migr
    | _ => false

def Die.queue (d : Die) (q : Nat) : XQueue := amGet d.queues q {}
def Hw.updQueue (h : Hw) (slot q : Nat) (f : XQueue → XQueue) : Hw :=
  h.updDie slot fun d => { d with queues := amSet d.queues q (f (d.queue q)) }

/-! ### The transfer control word (R303) -/

structure Tcw where
  rpt : Nat
  swo : Nat
  cls : Nat
  sh : Bool
  ge : Bool
  grp : Nat
  mbz : Bool
  len : Nat
  first : Bool
  last : Bool
  deriving DecidableEq, Repr

def tcwOf (op : XOp) (v : W64) : Tcw :=
  { rpt := (v.extractLsb' 62 2).toNat, swo := (v.extractLsb' 45 17).toNat * 16, cls := (v.extractLsb' 43 2).toNat
    sh := v.getLsbD 42, ge := v.getLsbD 41, grp := (v.extractLsb' 33 8).toNat, mbz := v.getLsbD 32
    len := if op = .copyc then (v.extractLsb' 0 30).toNat else (v.extractLsb' 0 32).toNat
    first := op == .copyc && v.getLsbD 30, last := op == .copyc && v.getLsbD 31 }

/-! ### Collective descriptors (R313) -/

structure CollDesc where
  hi : Nat
  swo : Nat
  rpt : Nat
  tout : Tag
  tin : Tag
  pol : Nat
  mbz : Bool
  op : Nat
  grp : Nat
  root : Nat
  factor : Nat
  count : Nat
  tstart : W64
  deriving DecidableEq, Repr

def collDesc (v : BitVec 256) : CollDesc :=
  { hi := (v.extractLsb' 189 67).toNat, swo := (v.extractLsb' 172 17).toNat * 16, rpt := (v.extractLsb' 170 2).toNat
    tout := v.extractLsb' 166 4, tin := v.extractLsb' 162 4, pol := (v.extractLsb' 160 2).toNat, mbz := v.getLsbD 159
    op := (v.extractLsb' 156 3).toNat, grp := (v.extractLsb' 148 8).toNat, root := (v.extractLsb' 128 20).toNat
    factor := (v.extractLsb' 96 32).toNat, count := (v.extractLsb' 64 32).toNat, tstart := v.extractLsb' 0 64 }

/-- The root that delivers to every member. -/
def allRoot : Nat := 0xFFFFF

/-- Bytes of an element; NONE counts as 4. -/
def collElem (t : Tag) : Nat := if t = tB16 then 2 else 4
def CollDesc.inBlock (d : CollDesc) : Nat := d.count * collElem d.tin
def CollDesc.outBlock (d : CollDesc) : Nat := d.count * collElem d.tout
def CollDesc.inBytes (d : CollDesc) (op : XOp) (n : Nat) : Nat :=
  d.inBlock * (match op with | .crs | .ca2a => n | _ => 1)
def CollDesc.outBytes (d : CollDesc) (op : XOp) (n : Nat) : Nat :=
  d.outBlock * (match op with | .cag | .ca2a => n | _ => 1)

def Part.fab? (p : Part) (g : Nat) : Option FabGroup := p.fabs.find? (·.num == g)

/-- The limits of R313 on a descriptor. -/
def CollDesc.ok (d : CollDesc) (op : XOp) (members : List Nat) : Bool :=
  d.hi == 0 && !d.mbz && d.rpt != 3 && d.pol != 3 && d.count != 0 &&
    (if xIsRed op then (d.tin == tF32 || d.tin == tB16) && (d.tout == tF32 || d.tout == tB16) && decide (d.op ≤ 4)
     else (d.tin == tNONE || d.tin == tF32 || d.tin == tB16) && d.tout == d.tin && d.op == 0) &&
    !(d.op == 4 && d.factor / 2 ^ 23 % 256 == 255) &&
    (match op with
     | .cred => d.root == allRoot || members.contains d.root
     | .cbc => members.contains d.root
     | _ => true)

def imp (a b : Bool) : Bool := !a || b

/-! ### The checks at the enq (R302-R304) -/

/-- Who enqueues: a strand's core and its team's groups, or the graph walker on SW0 (R354). -/
structure Enqueuer where
  part : Nat
  slot : Nat
  core : Option Nat := none
  grps : List Nat := []
  strict : Bool := false
  deriving DecidableEq, Repr

/-- Strand number of the graph walker in requester keys: no strand has it (R354). -/
def walkerKey : Nat := 2 ^ 16

def Hw.enqueuer (h : Hw) : Enqueuer :=
  let c := coreOf h.cur
  { part := h.myPart, slot := slotOf h.cur, core := some c
    grps := if isSeq h.cur then [] else (h.core c).grps.map (·.num), strict := h.strict }

/-- Whether an enqueuer has a scratchpad or a window of its own for a sync word. -/
def Enqueuer.window (e : Enqueuer) : Bool := match e.core with | some c => hasSpad (c * 4) | none => false

/-- The regions that a command names: address, bytes, whether it is the destination. -/
def xRegions (op : XOp) (d a : Nat) (t : Tcw) : List (Nat × Nat × Bool) :=
  match op with
  | .copy => [(d, t.len, true), (a, t.len, false)]
  | .copyc => [(d, t.len, true), (a, t.len + (if t.last then 4 else 0), false)]
  | .csum => [(d, 4, true), (a, t.len, false)]
  | .fill => [(d, t.len, true)]
  | .publish => [(d, 8 * (a % 128), true)]
  | .prefetch | .migr => [(a, t.len, false)]
  | .viewRd => [(d, 64 + t.len, true)]
  | .xstat => [(d, 32, true)]
  | _ => []

/-- The limits stated with each command. -/
def xLimits (p : Part) (exe q : Nat) (op : XOp) (d a : Nat) (t : Tcw) : Bool :=
  let bare := t.len == 0 && t.cls == 0 && !t.sh
  match op with
  | .copyc => t.len % 2 == 0 && t.len != 0
  | .csum => t.len % 2 == 0 && t.len != 0 && d % 4 == 0
  | .publish => decide (a / 128 = 0) && decide (1 ≤ a) && decide (a ≤ 64) && bare
  | .migr => Config.slotType exe == .fb && q == 0 && decide (d ≤ 1)
  | .viewRd => decide (a < 256) && t.len % 64 == 0 && decide (t.len ≤ 65536) && (p.fab? a).isSome
  | .viewJoin | .viewAck => decide (a < 256) && bare && (p.fab? a).isSome
  | .viewAdm => decide (a < 256) && bare && decide (d < 2 ^ 20) && (p.fab? a).isSome
  | .xstat => decide (a < 16) && (queueDepth exe a).isSome
  | _ => true

/-- The destination's engine address, where the command has one. -/
def xDest (op : XOp) (d : Nat) : Option EngAddr :=
  match op with
  | .copy | .copyc | .csum | .fill | .viewRd | .xstat | .publish => EngAddr.ofNat d
  | _ => none

/-- The sync word a command reports to: core and offset (R303). -/
def reportTo (rpt swo : Nat) (own : Option Nat) (dest : Option EngAddr) : Option (Nat × Nat) :=
  if rpt = 1 then own.map fun c => (c, swo)
  else if rpt = 2 then (dest.bind EngAddr.core?).map fun c => (c, swo)
  else none

/-- The checks of R302-R304 and the command's own limits, for every X word but the collectives. -/
def Hw.xCheck (h : Hw) (e : Enqueuer) (exe q : Nat) (op : XOp) (d a b : W64) : Bool :=
  let t := tcwOf op b
  let p := h.part e.part
  let regions := xRegions op d.toNat a.toNat t
  let dest := if op = .publish then none else xDest op d.toNat
  !t.mbz && xLimits p exe q op d.toNat a.toNat t &&
    (regions.all fun r => match EngAddr.ofNat r.1 with
      | some x => h.engOk e.part exe x r.2.1
      | none => false) &&
    imp (op == .prefetch || op == .migr) (match EngAddr.ofNat a.toNat with | some x => x.isVirt | none => false) &&
    imp (op != .copy && op != .copyc && op != .fill) (match dest with | some x => !x.isWeight | none => true) &&
    imp (op == .publish || op == .viewRd || op == .xstat)
      (match EngAddr.ofNat d.toNat with | some (.spad _ _ _) => true | some (.sram _ _) => true | _ => false) &&
    decide (t.rpt ≠ 3) && imp t.sh (match dest with | some x => x.isVirt | none => false) &&
    imp (t.rpt == 1) (e.window && h.reaches e.part exe e.slot) &&
    imp (t.rpt == 2) (dest.bind EngAddr.core?).isSome &&
    imp t.ge (e.grps.contains t.grp && (p.groups.any fun g => g.num == t.grp && !g.fabric))

/-- Whether a copy is a timed copy (R319). -/
def isTimedCopy (exe : Nat) (op : XOp) (d a b : W64) : Bool :=
  let t := tcwOf op b
  op == .copy && Config.slotType exe == .nb && t.cls == 0 && t.len % 1024 == 0 && t.len != 0 &&
    (match EngAddr.ofNat d.toNat, EngAddr.ofNat a.toNat with
     | some (.spad _ _ _), some (.sram s _) => s == exe
     | some (.sram s _), some (.spad _ _ _) => s == exe
     | _, _ => false)

/-- A word of a kernel that names the weight store as its destination (R86). -/
def storesWeights (op : XOp) (d : W64) : Bool :=
  (xIsColl op || (xDest op d.toNat).isSome) && ((EngAddr.ofNat d.toNat).map EngAddr.isWeight == some true)

/-- Class 00 of a strict kernel where R319 forbids it. -/
def classFault (e : Enqueuer) (exe : Nat) (op : XOp) (d a b : W64) : Bool :=
  e.strict && (tcwOf op b).cls == 0 &&
    (match op with | .copy | .copyc | .csum | .fill | .prefetch | .migr | .xstat => true | _ => false) && !isTimedCopy exe op d a b

/-- The checks of R304 and R313 on a collective with its descriptor (notes/assumptions/46.md). -/
def Hw.collCheck (h : Hw) (e : Enqueuer) (exe : Nat) (op : XOp) (d a : W64) (desc : BitVec 256) : Bool :=
  let x := collDesc desc
  match (h.part e.part).fab? x.grp with
  | none => false
  | some f =>
    let n := f.members.length
    e.grps.contains x.grp && x.ok op f.members &&
      (match EngAddr.ofNat d.toNat with
       | some y => h.engOk e.part exe y (x.outBytes op n) && imp (x.rpt == 2) y.core?.isSome
       | none => false) &&
      (match EngAddr.ofNat a.toNat with | some y => h.engOk e.part exe y (x.inBytes op n) | none => false) &&
      imp (x.rpt == 1) (e.window && h.reaches e.part exe e.slot)

/-! ### Timed copies (R90, R319, R320) -/

/-- The slots of seam k of a route that timed copies take at a pipeline tick (notes/assumptions/21.md). -/
def TimedCopy.slotsAt (c : TimedCopy) (a b tick : Nat) : Nat :=
  ((List.range (c.route.length - 1)).countP fun k =>
    c.route.getD k 48 == a && c.route.getD (k + 1) 48 == b && decide (c.start + 6 + 16 * k ≤ tick) &&
      decide (tick < c.start + 6 + 16 * k + c.kib)) * 4

/-- Whether a timed copy's slots fit the reserved slots beside those of the earlier ones. -/
def slotsFit (tslot : Nat) (c : TimedCopy) (others : List TimedCopy) : Bool :=
  (List.range (c.route.length - 1)).all fun k => (List.range c.kib).all fun j =>
    let a := c.route.getD k 48
    let b := c.route.getD (k + 1) 48
    let tick := c.start + 6 + j + 16 * k
    decide (((c :: others).map fun o => o.slotsAt a b tick).sum ≤ tslot)

def Hw.timedCopy (h : Hw) (d a b : W64) : Hw :=
  let t := tcwOf .copy b
  let p := h.myPart
  match EngAddr.ofNat d.toNat, EngAddr.ofNat a.toNat with
  | some y, some x =>
    let ss := x.slot?.getD 0
    let ds := y.slot?.getD 0
    let c : TimedCopy :=
      { id := h.fresh, strand := h.cur, start := h.tick, kib := t.len / 1024, route := (h.route p ss ds).getD [ss]
        src := x.key, dst := y.key, srcSlot := ss, dstSlot := ds, dstCore := y.core?
        report := reportTo t.rpt t.swo (some (coreOf h.cur)) (some y), ge := if t.ge then some t.grp else none
        exe := if Config.slotType ss = .nb then ss else ds }
    let tslot := match (h.part p).kernel with | some k => k.tslot | none => 0
    if slotsFit tslot c (h.part p).timed then
      let g := { h with fresh := h.fresh + 1 }.updPart p fun q => { q with timed := q.timed ++ [c] }
      let g := (List.range c.kib).foldl (fun (g : Hw) j => g.later j (.timedRead p c.id j)) g
      g.advance
    else h.trap { cause := Cause.deviation, info := 3 }
  | _, _ => h.fault Cause.access

/-- A report of bytes to a sync word: applied at once in its own die, else after the route's latency (R100, R436). -/
def Hw.report (h : Hw) (p src : Nat) (tgt : Option (Nat × Nat)) (bytes : Nat) (code : Option Nat) : Hw :=
  match tgt with
  | none => h
  | some (core, off) =>
    h.sendDie p src (core / 32) (.syncWordArrival core off bytes code.isSome (code.getD 0))

def Hw.barrierError (h : Hw) (p : Nat) (grp : Option Nat) (code : Nat) : Hw :=
  match grp with
  | none => h
  | some g => h.at h.wtick (.barrierErrorCompletion p g code)

/-- Whether the engine port of the scratchpad that a key lies in is free in this tick; other spaces have none. -/
def Hw.eportFree (h : Hw) (k : Nat) : Bool :=
  if k / 2 ^ 80 = 1 then decide ((h.core (k / 2 ^ 60 % 2 ^ 20)).eport < h.wtick) else true
def Hw.takeEport (h : Hw) (k n : Nat) : Hw :=
  if k / 2 ^ 80 = 1 then h.updCore (k / 2 ^ 60 % 2 ^ 20) fun c => { c with eport := h.wtick + (n + 1023) / 1024 - 1 } else h
/-- A KiB of a timed copy will not arrive; the first code stands. -/
def Hw.loseKib (h : Hw) (p id : Nat) (code k : Nat) : Hw :=
  h.updPart p fun q => { q with timed := q.timed.map fun x =>
    if x.id = id then { x with lost := x.lost + 1, code := if x.code = 0 then code else x.code
                               errKey := if x.code = 0 then k else x.errKey } else x }

/-- KiB j of a timed copy is sampled (R90): words in error are corrected or rebuilt (R400-R402). -/
def Hw.timedRead (m : Memory) (h : Hw) (p id j : Nat) : Hw :=
  match (h.part p).timed.find? (·.id == id) with
  | none => h
  | some c =>
    let k := c.src + 1024 * j
    let lat := 6 + latencyOf c.route
    let r := (h.takeEport k 1024).timedScan c.srcSlot (unitOfKey k) k 1024 lat
    if h.healthy c.srcSlot = false then (h.loseKib p id 0x0404 k).pendFor c.strand lat (.timedLand p id j none)
    else if r.1.badAt k 1024 then ((r.1.poisonAt k 1024).loseKib p id 0x0403 k).pendFor c.strand lat (.timedLand p id j none)
    else r.1.pendFor c.strand (lat + r.2) (.timedLand p id j (some (Memory.readBytes m k 1024)))

/-- KiB j of a timed copy becomes visible and is counted; after the last one the copy completes, with the KiBs that were not
written as one arrival in error, and one record of it in the bank of the die that executes it (R305). -/
def State.timedLand (s : State) (p id j : Nat) (data : Option (List Byte)) : State :=
  match (s.hw.part p).timed.find? (·.id == id) with
  | none => s
  | some c =>
    let k := c.dst + 1024 * j
    let s : State := match data with
      | none => s
      | some bs =>
        if s.hw.healthy c.dstSlot then
          { mem := Memory.writeBytes s.mem k bs, hw := ((s.hw.takeEport k 1024).stored k 1024).report p c.dstSlot c.report 1024 none }
        else s.updHw fun h => h.loseKib p id 0x0404 k
    let lost := ((s.hw.part p).timed.find? (·.id == id)).getD c
    if j + 1 = c.kib then
      let h := s.hw.updPart p fun q => { q with timed := q.timed.filter (·.id != id) }
      if lost.code = 0 then { s with hw := h }
      else
        { s with hw := ((h.record c.exe 2 (unitOfKey lost.errKey) (lost.errKey % 2 ^ 60) lost.code none).report p c.dstSlot c.report
            (1024 * lost.lost) (some lost.code)).barrierError p c.ge lost.code }
    else s

/-! ### Acceptance (R187, R301, R305) -/

/-- A command takes its place in a queue: after those accepted before it; of one tick, in ascending requester key (R350). A
walker's command is accepted before the strands' of its tick. -/
def insertX (c : XCmd) (l : List XCmd) : List XCmd :=
  match l with
  | [] => [c]
  | x :: t => if x.issued = c.issued ∧ x.strand ≠ walkerKey ∧ c.strand < x.strand then c :: x :: t else x :: insertX c t

/-- A command enters its queue. -/
def Hw.xAccept (h : Hw) (e : Enqueuer) (exe q : Nat) (op : XOp) (d a b : W64) (desc : BitVec 256) (pre strand : Nat)
    (ctx : Option Nat) (after : List Nat) (afterSeq afterAcq : Nat) : Hw :=
  let c : XCmd :=
    { id := h.fresh, strand := strand, core := e.core.getD 0, op := op, d := d, a := a, b := b, part := e.part, slot := e.slot
      desc := desc, pre := pre, issued := h.wtick, seg := (h.part e.part).seg, after := after, afterSeq := afterSeq, afterAcq := afterAcq
      ctx := ctx }
  ({ h with fresh := h.fresh + 1 }).updQueue exe q fun x => { x with cmds := insertX c x.cmds }

/-- The faults of R187 and R301 at a target. -/
def Hw.xTarget (h : Hw) (e : Enqueuer) (exe q : Nat) (op : XOp) : Bool :=
  h.inPartition e.part exe && (queueDepth exe q).isSome && h.reaches e.part e.slot exe && queueAccepts exe q op

def Hw.queueIsFull (h : Hw) (exe q : Nat) : Bool :=
  decide ((queueDepth exe q).getD 0 ≤ ((h.die exe).queue q).cmds.length)

/-- Submits an X command to a queue, as `enq` does. -/
def submit (m : Memory) (h : Hw) (exe q : Nat) (op : XOp) (d a b : W64) : Hw :=
  let e := h.enqueuer
  let after := addAll h.st.fencedW h.st.fencedR
  if h.xTarget e exe q op = false ∨ storesWeights op d = true then h.fault Cause.access
  else if xIsColl op then
    if hasSpad h.cur = false ∨ b.toNat % 32 ≠ 0 ∨ Config.spadSize < b.toNat + 32 then h.fault Cause.access
    else
      let k := spadKey (coreOf h.cur) b.toNat
      let desc := BitVec.ofNat 256 (Memory.readNat m k 32)
      if h.collCheck e exe op d a desc = false then h.fault Cause.access
      else if h.queueIsFull exe q then h.block (exe * 16 + q)
      else
        (h.xAccept e exe q op d a b desc (if h.badAt k 32 then 0x0403 else 0) h.cur none after h.st.fencedSeq h.st.acqSeq).advance
  else if h.xCheck e exe q op d a b = false ∨ classFault e exe op d a b = true then h.fault Cause.access
  else if e.strict ∧ isTimedCopy exe op d a b = true then h.timedCopy d a b
  else if h.queueIsFull exe q then h.block (exe * 16 + q)
  else (h.xAccept e exe q op d a b 0 0 h.cur none after h.st.fencedSeq h.st.acqSeq).advance

def execEnq (a : XReg) (x : XWord) (s : State) : Out :=
  issue s fun m h =>
    submit m h ((h.rx a).extractLsb' 0 6).toNat ((h.rx a).extractLsb' 8 4).toNat x.op (h.rx x.d) (h.rx x.a) (h.rx x.b)

/-- A die sequencer submits to its own die: view operations of a SW die to queue 8, all else to queue 0 (R300). -/
def submitOwn (op : XOp) (d a b : XReg) (s : State) : Out :=
  issue s fun m h =>
    let slot := slotOf h.cur
    submit m h slot (if xIsView op ∧ isSw slot = true then 8 else 0) op (h.rx d) (h.rx a) (h.rx b)

def execCopy (d a b : XReg) (s : State) : Out := submitOwn .copy d a b s
def execCopyc (d a b : XReg) (s : State) : Out := submitOwn .copyc d a b s
def execCsum (d a b : XReg) (s : State) : Out := submitOwn .csum d a b s
def execFill (d a b : XReg) (s : State) : Out := submitOwn .fill d a b s
def execPublish (d a b : XReg) (s : State) : Out := submitOwn .publish d a b s
def execPrefetch (a b : XReg) (s : State) : Out := submitOwn .prefetch 0 a b s
def execMigr (d a b : XReg) (s : State) : Out := submitOwn .migr d a b s
def execCred (d a b : XReg) (s : State) : Out := submitOwn .cred d a b s
def execCrs (d a b : XReg) (s : State) : Out := submitOwn .crs d a b s
def execCag (d a b : XReg) (s : State) : Out := submitOwn .cag d a b s
def execCbc (d a b : XReg) (s : State) : Out := submitOwn .cbc d a b s
def execCa2a (d a b : XReg) (s : State) : Out := submitOwn .ca2a d a b s
def execViewRd (d a b : XReg) (s : State) : Out := submitOwn .viewRd d a b s
def execViewAck (a b : XReg) (s : State) : Out := submitOwn .viewAck 0 a b s
def execViewJoin (a b : XReg) (s : State) : Out := submitOwn .viewJoin 0 a b s
def execViewAdm (d a b : XReg) (s : State) : Out := submitOwn .viewAdm d a b s
def execXstat (d a b : XReg) (s : State) : Out := submitOwn .xstat d a b s

end Sys2Proof.Machine
end

