-- ==== Sys2Proof/Machine/Engines.lean ====
section
/-! DEFINITION. What engines do: their reads and writes (R86, R95, R302-R305), the pieces on their way and the slots of the
seams (R14, R320, R351), copies, checksums, fills and hints (R306-R312), embedding gathers (R298), base-die products (R97,
R266), and arrivals at sync words (R99). -/
namespace Sys2Proof.Machine
open Sys2Proof

/-! ### Arrivals (R99) -/

/-- The sync word after an arrival: GEN advances once for every TARGET bytes. -/
def syncArrive (w : Nat) (n : Nat) (err : Bool) (code : Nat) : Nat :=
  let target := w / 2 ^ 96
  let count := w / 2 ^ 64 % 2 ^ 32
  let gen := w / 2 ^ 32 % 2 ^ 32
  let e0 := w % 2
  let code' := if err ∧ e0 = 0 then code % 2 ^ 16 else w / 2 ^ 16 % 2 ^ 16
  let e := if err then 1 else e0
  let ovs := w / 2 % 2
  let stray := w / 4 % 2
  if target = 0 then target * 2 ^ 96 + count * 2 ^ 64 + gen * 2 ^ 32 + code' * 2 ^ 16 + 4 + 2 * ovs + e
  else
    let c := count + n
    target * 2 ^ 96 + c % target * 2 ^ 64 + (gen + c / target) % 2 ^ 32 * 2 ^ 32 + code' * 2 ^ 16 + 4 * stray +
      (if target < c then 2 else 2 * ovs) + e

/-- An arrival reads and writes the sync word as one access; an uncorrectable word keeps its bits and is recorded. -/
def State.arrive (s : State) (core off bytes : Nat) (err : Bool) (code : Nat) : State :=
  let k := spadKey core off
  if s.hw.badAt k 16 then s.updHw fun h => h.spadLost core off 16
  else s.put k (leBytes 16 (syncArrive (Memory.readNat s.mem k 16) bytes err code))

def execSyncWordArrival (core : Nat) (off : Nat) (bytes : Nat) (err : Bool) (code : Nat) (s : State) : Out :=
  happen s fun s => s.arrive core off bytes err code

/-! ### Reads and writes of engines -/

/-- An error of an engine: its code, and the key where it arose. -/
structure EngFault where
  code : Nat
  key : Nat := 0
  deriving DecidableEq, Repr

/-- Lines touched by an engine's virtual access (R384). -/
def Hw.engTouch (h : Hw) (exe : Nat) (a : EngAddr) (n : Nat) : Hw :=
  match a with
  | .virt va =>
    (h.updDie exe fun d => d.touch va n).touchFar ((h.die exe).places va n)
  | _ => h

/-- A write by the engine of a die. The weight store is written only in the load window, by copies and fills (R86). -/
def State.engWrite (s : State) (p exe : Nat) (a : EngAddr) (bs : List Byte) (sh weightOk : Bool) : Except EngFault State :=
  if (match a with | .weight sl _ => !(weightOk && (s.hw.die sl).loadWindow) | _ => false) then
    .error { code := 0x0402, key := a.key }
  else
    match s.hw.engPieces exe a bs.length .write sh with
    | .error c => .error { code := c, key := a.key }
    | .ok ps =>
      match piecesFail s.hw p exe ps with
      | some c => .error { code := c, key := a.key }
      | none => .ok ((s.writePieces p exe ps bs).updHw fun h => h.engTouch exe a bs.length)

/-! ### Commands in progress -/

def embCores (slot e : Nat) : List Nat := (List.range 12).map fun i => slot * 32 + 12 * e + i

/-- The progress of a command of an engine: of an embedding engine, of the GEMV engine (queue 15 of an NB die), of an X queue. -/
def Hw.updMove (h : Hw) (exe queue cmd : Nat) (f : Moving → Moving) : Hw :=
  match Config.slotType exe with
  | .gs =>
    ((embCores exe queue).filter fun c => (h.core c).eq.any (·.id == cmd)).foldl (fun (g : Hw) c => g.updCore c fun k =>
      { k with eq := k.eq.map fun x => if x.id = cmd then { x with move := x.move.map f } else x }) h
  | t =>
    if t = .nb ∧ queue = 15 then
      h.updDie exe fun d => { d with gemv := d.gemv.map fun x => if x.id = cmd then { x with move := x.move.map f } else x }
    else h.updQueue exe queue fun y => { y with cmds := y.cmds.map fun x => if x.id = cmd then { x with move := x.move.map f } else x }

/-- The first fault of a command stands; it takes no further data. -/
def Hw.failMove (h : Hw) (exe queue cmd code key : Nat) : Hw :=
  h.updMove exe queue cmd fun m => { m with fault := match m.fault with | some f => some f | none => some (code, key) }

def firstKey (ps : List (Place × Nat)) : Nat := match ps with | (p, _) :: _ => p.key | [] => 0

/-! ### Pieces on their way (R95, R305, R32) -/

def slotsOf (n : Nat) : Nat := (n + 255) / 256

/-- A piece sets out: from a die, or from the engine itself, by way of the engine's die to where it goes. It crosses the seams of
its routes, after a free time unless it is bound to TSTART; a remote owner answers after a free time, or the piece fails after 100 µs
(R389). -/
def Hw.send (h : Hw) (p exe queue cmd cls : Nat) (src : Option Place) (bytes : List Byte) (dst : List (Place × Nat))
    (report : Option (Nat × Nat)) (off : Nat) (prompt : Bool) : Hw :=
  let hop := fun (a b : Option Nat) => match a, b with | some x, some y => h.seams p x y | _, _ => []
  let hops := hop (src.bind Place.die) (some exe) ++ hop (some exe) (dst.head?.bind (·.1.die))
  let far := (src.toList ++ dst.map (·.1)).any fun x => match x with | .remote _ _ _ => true | _ => false
  let d := Config.freeLatency h.fresh
  let limit := usTicks h.pkg.mode 100
  let t : Transit :=
    { cmd := cmd, part := p, exe := exe, queue := queue, cls := cls, bytes := bytes, dst := dst, hops := hops
      slots := slotsOf bytes.length, ready := h.wtick + (if far then Nat.min d limit else if prompt then 0 else d), report := report
      off := off, code := if far && decide (limit < d) then 0x0404 else 0 }
  ({ h with transit := h.transit ++ [t] }).used

/-- Writes the bytes of those elements of 4 that a mask holds. -/
def Memory.writeSome (m : Memory) (k : Nat) (bs : List Byte) (i mask : Nat) : Memory :=
  match bs with
  | [] => m
  | b :: t => Memory.writeSome (if mask.testBit (i / 4) then Memory.write m k b else m) (k + 1) t (i + 1) mask

/-- The elements under a mask are written to pieces, in ascending order. -/
def State.putSome (s : State) (ps : List (Place × Nat)) (bs : List Byte) (i mask : Nat) : State :=
  match ps with
  | [] => s
  | (pl, n) :: t =>
    State.putSome { mem := Memory.writeSome s.mem pl.key (bs.take n) i mask, hw := s.hw.stored pl.key n } t (bs.drop n) (i + n) mask

/-- The weight store is written only in the load window, by copies and fills (R86). -/
def Hw.windowShut (h : Hw) (ps : List (Place × Nat)) : Bool :=
  ps.any fun x => match x.1 with
    | .mem (some d) k => k / 2 ^ 80 == 3 && !(h.die d).loadWindow
    | _ => false

/-- The list of a publish sets out to the partition master, over the seams like any queue's traffic (R118, R351). -/
def Hw.sendList (h : Hw) (p exe queue cmd : Nat) (bytes : List Byte) : Hw :=
  let t : Transit :=
    { cmd := cmd, part := p, exe := exe, queue := queue, cls := 1, bytes := bytes, dst := [], hops := h.seams p exe (h.master p)
      slots := slotsOf bytes.length, ready := h.wtick + Config.freeLatency h.fresh }
  ({ h with transit := h.transit ++ [t] }).used

/-- Whether the command of an embedding engine has landed the last byte of its output: it completes with that piece (R298, R430). -/
def Hw.embOver (h : Hw) (exe queue cmd : Nat) : Bool :=
  Config.slotType exe == .gs && (embCores exe queue).any fun c => (h.core c).eq.any fun x => x.id == cmd &&
    match x.move with
    | some m => m.begun && decide (x.n ≤ m.next) && m.counted == m.out && m.fault.isNone
    | none => false

/-- A piece is visible: it is counted and reported, after its command has completed where it is a gemb's last. -/
def Hw.landed (h : Hw) (t : Transit) : Hw :=
  let g := h.updMove t.exe t.queue t.cmd fun m => { m with counted := m.counted + t.bytes.length }
  let g := if g.embOver t.exe t.queue t.cmd then
      (g.updMove t.exe t.queue t.cmd fun m => { m with closing := true }).soon (.engineCommandComplete t.exe t.queue)
    else g
  g.report t.part ((t.dst.head?.bind (·.1.die)).getD t.exe) t.report t.bytes.length none

/-- A piece that has reached its die is judged there; it lands in two ticks, a free set of its elements in the first (R32), and
is then counted (R100). One that finds the engine port taken waits. -/
def State.landPiece (s : State) (t : Transit) : State :=
  let h := s.hw
  let i := firstKey t.dst % 4
  let back := fun (x : Transit) (s : State) => s.updHw fun h => { h with transit := h.transit ++ [x] }
  if t.code ≠ 0 then s.updHw fun h => h.failMove t.exe t.queue t.cmd t.code (firstKey t.dst)
  else if t.dst = [] then s
  else if h.eportFree (firstKey t.dst) = false then back t s
  else
    match t.left with
    | some left =>
      if h.windowShut t.dst then s.updHw fun h => h.failMove t.exe t.queue t.cmd 0x0402 (firstKey t.dst)
      else
        ((s.updHw fun h => h.takeEport (firstKey t.dst) t.bytes.length).putSome t.dst t.bytes i left).updHw fun h => h.landed t
    | none =>
      match piecesFail h t.part t.exe t.dst with
      | some c => s.updHw fun h => h.failMove t.exe t.queue t.cmd c (firstKey t.dst)
      | none =>
        if h.windowShut t.dst then s.updHw fun h => h.failMove t.exe t.queue t.cmd 0x0402 (firstKey t.dst)
        else
          let all := 2 ^ 257 - 1
          let early := Config.freeNat h.fresh % 2 ^ 257
          back { t with left := some (all - early) }
            (((s.updHw fun h => (h.takeEport (firstKey t.dst) t.bytes.length).used).putSome t.dst t.bytes i early).updHw fun h =>
              h.touchFar t.dst)

def Hw.transitDue (h : Hw) (t : Transit) : Bool :=
  t.hops.isEmpty && decide (t.ready ≤ h.wtick) && !(h.part t.part).frozen

/-- Every piece that has arrived lands. -/
def State.landPieces (s : State) : State :=
  let due := s.hw.transit.filter s.hw.transitDue
  due.foldl State.landPiece (s.updHw fun h => { h with transit := h.transit.filter fun t => !h.transitDue t })

/-! ### The slots of the seams (R14, R320, R351) -/

def beatSlots : Nat := 192

/-- Slots that timed copies take of a beat, in one direction of a seam. -/
def Hw.timedSlots (h : Hw) (a b : Nat) : Nat :=
  ((List.range 8).map fun p =>
    let q := h.part p
    if q.live && !q.frozen then (q.timed.map fun c => c.slotsAt a b q.pclk).sum else 0).sum

/-- Slots for the collective, the copy and the background class, of those that are left (R320). -/
def classSlots (avail coll copy back : Nat) : List Nat :=
  let my := Nat.min 16 copy
  let mb := Nat.min 8 back
  let c := Nat.min coll (avail - my - mb)
  let y := Nat.min copy (avail - c - mb)
  [c, y, Nat.min back (avail - c - y)]

/-- n slots dealt one at a time round the queues, each with what it still wants: the queues in the order in which they are served. -/
def dealSlots (n : Nat) (qs : List (Nat × Nat)) (acc : List Nat) : List Nat :=
  match n, qs with
  | 0, _ => acc
  | _, [] => acc
  | n + 1, (q, w) :: t => dealSlots n (if w ≤ 1 then t else t ++ [(q, w - 1)]) (acc ++ [q])

/-- Queues in ascending order, starting after the one that was served last. -/
def afterLast (last : Option Nat) (qs : List (Nat × Nat)) : List (Nat × Nat) :=
  match last with
  | none => qs
  | some l => (qs.filter fun x => decide (l < x.1)) ++ qs.filter fun x => decide (x.1 ≤ l)

def insertQueue (q w : Nat) (l : List (Nat × Nat)) : List (Nat × Nat) :=
  match l with
  | [] => [(q, w)]
  | (r, v) :: t => if q < r then (q, w) :: (r, v) :: t else if q = r then (r, v + w) :: t else (r, v) :: insertQueue q w t

def Transit.key (t : Transit) : Nat := t.exe * 16 + t.queue

/-- A piece that waits on a direction of a seam, in a class. -/
def Hw.waits (h : Hw) (a b cls : Nat) (t : Transit) : Bool :=
  t.hops.head? == some (a, b) && t.cls == cls && decide (t.ready ≤ h.wtick) && !(h.part t.part).frozen

/-- A piece takes n slots; with its last one it is across, 12 ticks later at the next die, and 4 more where that is a switch it
goes on through (R16). -/
def Transit.cross (t : Transit) (w n : Nat) : Transit :=
  if n < t.slots then { t with slots := t.slots - n }
  else
    { t with
      hops := t.hops.tail, slots := slotsOf t.bytes.length
      ready := w + 12 + (if t.hops.length ≤ 1 then 0 else 4) }

/-- The slots dealt go to the pieces of each queue in order. -/
def takeSlots (w : Nat) (mine : Transit → Bool) (served : List Nat) (ts : List Transit) : List Transit :=
  match ts with
  | [] => []
  | t :: r =>
    if mine t then
      let n := Nat.min t.slots (served.count t.key)
      (if n = 0 then t else t.cross w n) :: takeSlots w mine ((List.replicate n t.key).foldl (fun l k => l.erase k) served) r
    else t :: takeSlots w mine served r

/-- One class of one beat of a direction of a seam. -/
def Hw.dealClass (h : Hw) (a b cls n : Nat) : Hw :=
  let want := (h.transit.filter (h.waits a b cls)).foldl (fun l t => insertQueue t.key t.slots l) []
  let last := (h.pkg.served.find? fun x => x.1 == (a, b, cls)).map (·.2)
  match dealSlots n (afterLast last want) [] with
  | [] => h
  | q :: r =>
    ({ h with transit := takeSlots h.wtick (h.waits a b cls) (q :: r) h.transit }).updPkg fun k =>
      { k with served := ((a, b, cls), r.getLastD q) :: k.served.filter fun x => x.1 != (a, b, cls) }

/-- One beat of a direction of a seam. -/
def Hw.dealSeam (h : Hw) (a b : Nat) : Hw :=
  let demand := fun (cls : Nat) => ((h.transit.filter (h.waits a b cls)).map (·.slots)).sum
  let ns := classSlots (beatSlots - h.timedSlots a b) (demand 0) (demand 1) (demand 2)
  (((h.dealClass a b 0 (ns.getD 0 0)).dealClass a b 1 (ns.getD 1 0)).dealClass a b 2 (ns.getD 2 0))

/-- The beats of a tick. -/
def Hw.seamsMove (h : Hw) : Hw :=
  let dirs := ((h.transit.filter fun t => decide (t.ready ≤ h.wtick)).filterMap fun t => t.hops.head?).eraseDups
  dirs.foldl (fun (g : Hw) d => g.dealSeam d.1 d.2) h

/-! ### One read of an engine (R305) -/

/-- Seam class of a transfer control word; class 00 travels as class 10 in queued mode (R319). -/
def clsOf (c : Nat) : Nat := if c = 1 then 0 else if c = 3 then 2 else 1

/-- The engine takes a run of its source: nothing while the port is taken; else the state, with the lines counted and the words
in error corrected, recorded or found lost, the bytes, and the ticks by which a correction or a rebuild delays what follows. -/
inductive Taken where
  | wait
  | fault (h : Hw) (code key : Nat)
  | bytes (h : Hw) (bs : List Byte) (late : Nat)

def State.take (s : State) (p exe : Nat) (a : EngAddr) (ps : List (Place × Nat)) : Taken :=
  let n := piecesLen ps
  if s.hw.eportFree (firstKey ps) = false then .wait
  else
    match piecesFail s.hw p exe ps with
    | some c => .fault s.hw c a.key
    | none =>
      match ps.find? fun x => s.hw.badAt x.1.key x.2 with
      | some x => .fault (s.hw.poisonAt x.1.key x.2) 0x0403 x.1.key
      | none =>
        let r := ps.foldl (fun (y : Hw × Nat) x =>
          let z := y.1.untimedScan (x.1.die.getD exe) (unitOfKey x.1.key) x.1.key x.2
          (z.1, Nat.max y.2 z.2)) (s.hw, 0)
        .bytes (((r.1.takeEport (firstKey ps) n).engTouch exe a n).touchFar ps) (readPieces s.mem ps) r.2

/-- The keys of a region, line by line; lines without a place have none. -/
def Hw.regionKeys (h : Hw) (exe : Nat) (a : EngAddr) (n : Nat) : List (Nat × Nat) :=
  match a with
  | .virt va => ((h.die exe).places va n).filterMap fun x => match x.1 with | .fail _ => none | pl => some (pl.key, x.2)
  | _ => lines a.key n

/-- Bytes for a destination, free where it overlaps the source (R306). -/
def overlapped (h : Hw) (src : List (Nat × Nat)) (dst : List (Place × Nat)) (bs : List Byte) : List Byte :=
  let keys := dst.flatMap fun x => (List.range x.2).map (x.1.key + ·)
  (keys.zip bs).map fun x =>
    if src.any fun r => decide (r.1 ≤ x.1) && decide (x.1 < r.1 + r.2) then Config.freeByte h.fresh x.1 else x.2

/-- A bit flipped on its way: the byte at an offset of the command's data (R307, R324). -/
def flipped (up : Option (Nat × Byte)) (off : Nat) (bs : List Byte) : List Byte :=
  match up with
  | some (i, x) => if off ≤ i ∧ i < off + bs.length then bs.set (i - off) (bs.getD (i - off) 0 ^^^ x) else bs
  | none => bs

/-! ### The fold checksum (R307) -/

def foldSum (ab : Nat × Nat) (bs : List Byte) : Nat × Nat :=
  match bs with
  | x :: y :: t =>
    let a := (ab.1 + (x.toNat + 256 * y.toNat)) % 65535
    foldSum (a, (ab.2 + a) % 65535) t
  | _ => ab

def sumWord (ab : Nat × Nat) : Nat := ab.2 * 2 ^ 16 + ab.1

/-! ### Hints and status (R311, R312, R318) -/

/-- prefetch: the lines whose translation permits a read are touched. -/
def Hw.prefetchRun (h : Hw) (exe va n : Nat) : Hw :=
  (lines va n).foldl (fun g l =>
    match (g.die exe).piece l.1 .read false with
    | .ok p => (g.updDie exe fun d => d.touch l.1 l.2).touchFar [(p, l.2)]
    | .error _ => g) h

/-- Capacity of the migration request log (R396). -/
def migLogSize : Nat := 1024

def Hw.migrRun (h : Hw) (exe : Nat) (va n : Nat) (far : Bool) : Hw × Option EngFault :=
  if migLogSize ≤ (h.die exe).miglog.length then (h, some { code := 0x0405 })
  else (h.updDie exe fun d => { d with miglog := d.miglog ++ [⟨va, n, far⟩] }, none)

def XQueue.status (x : XQueue) : Nat :=
  x.chkB * 2 ^ 112 + x.chkA * 2 ^ 96 + x.chn.toNat * 2 ^ 95 + x.cmds.length * 2 ^ 80 + x.lcode.toNat * 2 ^ 64 +
    x.nerr.toNat * 2 ^ 32 + x.ndone.toNat

/-! ### Steps of X commands (R305-R309, R314) -/

/-- The report of a piece: none where the command reports once, at its end. -/
def pieceReport (op : XOp) (t : Tcw) (tgt : Option (Nat × Nat)) : Option (Nat × Nat) :=
  if op = .copyc ∧ t.last = true then none else tgt

/-- The fold state with further bytes, of the chain for copyc, of the command for csum: a step may end between the two bytes of a
half-word, of which the first then waits for the second (R307). -/
def Hw.foldBytes (h : Hw) (slot q : Nat) (c : XCmd) (was bs : List Byte) : Hw :=
  let all := was ++ bs
  let rest := all.drop (all.length / 2 * 2)
  match c.op with
  | .copyc => (h.updQueue slot q fun y =>
      let ab := foldSum (y.chkA, y.chkB) all
      { y with chkA := ab.1, chkB := ab.2 }).updMove slot q c.id fun m => { m with operand := rest }
  | .csum => h.updMove slot q c.id fun m =>
    let ab := foldSum (m.idx.getD 0 0, m.idx.getD 1 0) all
    { m with idx := [ab.1, ab.2], operand := rest }
  | _ => h

/-- A read of at most 1 KiB, on its way to the destination, or to the engine where there is none: the trailer of a chain among what the
engine keeps, which is no part of the fold (R309). -/
def State.copyStep (s : State) (slot q : Nat) (c : XCmd) (m : Moving) (src : EngAddr) (dst : Option EngAddr) (len cls : Nat) (sh : Bool)
    (report : Option (Nat × Nat)) : State :=
  let h := s.hw
  let fail := fun (code : Nat) (a : EngAddr) => s.updHw fun h => h.failMove slot q c.id code a.key
  let n0 := Nat.min 1024 (len - m.next)
  let a := src.plus m.next
  match h.run slot a n0 .read false with
  | .error code => fail code a
  | .ok ps =>
    match (match dst with | some d => h.run slot (d.plus m.next) n0 .write sh | none => .ok []) with
    | .error code => fail code ((dst.getD src).plus m.next)
    | .ok ds =>
      let n := if dst.isSome then Nat.min (piecesLen ps) (piecesLen ds) else piecesLen ps
      match s.take c.part slot a (cutPieces n ps) with
      | .wait => s
      | .fault h1 code key => { s with hw := h1.failMove slot q c.id code key }
      | .bytes h1 bs late =>
        let bs := match dst with
          | some _ => overlapped h (h.regionKeys slot src len) (cutPieces n ds) bs
          | none => bs
        let bs := flipped (h.die slot |>.queue q).upset m.next bs
        let h2 := match dst with | some d => h1.engTouch slot (d.plus m.next) n | none => h1
        let h2 := if c.op = .copyc ∧ dst = none then h2 else h2.foldBytes slot q c m.operand bs
        let h3 := (h2.updQueue slot q fun y =>
            { y with upset := y.upset.filter fun u => !(decide (m.next ≤ u.1) && decide (u.1 < m.next + n)) }).updMove slot q c.id fun m =>
          { m with next := m.next + n, ready := h.wtick + 1 + late, data := if dst.isSome then m.data else m.data ++ bs }
        { s with hw := h3.send c.part slot q c.id cls ((ps.head?).map (·.1)) bs (cutPieces n ds) report m.next m.prompt }

/-- Constant data on its way: at most 1 KiB from an offset of the destination on. -/
def State.putStep (s : State) (slot q : Nat) (c : XCmd) (dst : EngAddr) (off cls : Nat) (sh : Bool) (bs : List Byte)
    (report : Option (Nat × Nat)) (prompt : Bool) (next : Nat → Moving → Moving) : State :=
  match s.hw.run slot (dst.plus off) (Nat.min 1024 bs.length) .write sh with
  | .error code => s.updHw fun h => h.failMove slot q c.id code (dst.plus off).key
  | .ok ds =>
    let n := piecesLen ds
    s.updHw fun h => (((h.engTouch slot (dst.plus off) n).updMove slot q c.id fun m =>
      { next n m with ready := h.wtick + 1 })).send c.part slot q c.id cls none (bs.take n) ds report off prompt

/-- The next segment of a command's constant data. -/
def State.segStep (s : State) (slot q : Nat) (c : XCmd) (m : Moving) (dst : EngAddr) (cls : Nat) (sh : Bool)
    (report : Option (Nat × Nat)) : State :=
  match m.segs with
  | [] => s
  | (off, bs) :: t =>
    s.putStep slot q c dst off cls sh bs report m.prompt fun n m =>
      { m with segs := if n < bs.length then (off + n, bs.drop n) :: t else t }

/-! ### Embedding gather (R298) -/

/-- The value of an element of a row, exact. -/
def embVal (t : Tag) (code : Nat) : FVal :=
  if t = tI8 then (ofInt (bitsInt 8 true code)).v else ((fmtOf t).getD b32).unpack code

/-- Where row i of a table lies; none at or beyond NR, which reads as zeros. -/
def EmbTable.rowAt (t : EmbTable) (i : Nat) : Option (Except EngFault EngAddr) :=
  if t.nr ≤ i then none
  else
    match EngAddr.ofNat t.base.toNat with
    | none => some (.error { code := 0x0402 })
    | some b =>
      let a := b.plus (i * t.rb)
      some (if a.fits t.rb then .ok a else .error { code := 0x0402, key := a.key })

/-- One pooled output row: sums in index order, divided for the mean. -/
def poolRow (t : EmbTable) (mean : Bool) (z : Nat) (rows : List (List Byte)) : List Byte × FlagBits :=
  let w := (embSize t.fmt).getD 1
  let outs := (List.range (t.rb / w)).map fun e =>
    let acc := rows.foldl (fun (acc : Nat × FlagBits) r =>
      let x := embVal t.fmt (leNat ((r.drop (w * e)).take w))
      let y := b32.deliver false .rne 0 (exAdd .rne (b32.unpack acc.1) x)
      (y.1, acc.2 ||| y.2)) (0, 0)
    if mean then
      let y := b32.deliver false .rne 0 (exDiv (b32.unpack acc.1) (ofInt (z : Int)).v)
      (y.1, acc.2 ||| y.2)
    else acc
  (outs.flatMap fun x => leBytes 4 x.1, outs.foldl (fun f x => f ||| x.2) 0)

/-- Bytes in rows of a given length. -/
def rowsOf (k len : Nat) (bs : List Byte) : List (List Byte) := (List.range k).map fun i => (bs.drop (i * len)).take len

/-- A gemb takes one step: first its indices, through the engine port; then a piece of the next row of the bag at hand; and when
the bag is complete its output, in pieces of at most 1 KiB. Each step waits for what the last one sent. -/
def State.embStep (s : State) (p exe e core : Nat) (c : EmbCmd) (m : Moving) : State :=
  let h := s.hw
  let fail := fun (code key : Nat) => s.updHw fun h => h.failMove exe e c.id code key
  let upd := fun (h : Hw) (f : Moving → Moving) => h.updMove exe e c.id f
  if h.transit.any (·.cmd == c.id) then s
  else if m.begun = false then
    let k := spadKey core c.idx
    if h.eportFree k = false then s
    else if h.badAt k (4 * c.n) then fail 0x0403 k
    else
      let r := (h.takeEport k (4 * c.n)).untimedScan exe (spadUnit core) k (4 * c.n)
      { s with hw := upd r.1 fun m =>
        { m with begun := true, idx := (List.range c.n).map fun i => Memory.readNat s.mem (k + 4 * i) 4
                 ready := h.wtick + 1 + r.2 } }
  else
    let bag := Nat.min c.z (c.n - m.next)
    if m.data.length < bag * c.table.rb then
      let i := m.idx.getD (m.next + m.data.length / c.table.rb) 0
      let off := m.data.length % c.table.rb
      match c.table.rowAt i with
      | none => { s with hw := upd h fun m => { m with data := m.data ++ List.replicate c.table.rb 0, ready := h.wtick + 1 } }
      | some (.error f) => fail f.code f.key
      | some (.ok a) =>
        match h.run exe (a.plus off) (Nat.min 1024 (c.table.rb - off)) .read false with
        | .error code => fail code (a.plus off).key
        | .ok ps =>
          match s.take p exe (a.plus off) ps with
          | .wait => s
          | .fault h1 code key => { s with hw := h1.failMove exe e c.id code key }
          | .bytes h1 bs late =>
            let g := upd h1 fun m => { m with data := m.data ++ bs, ready := h.wtick + 1 + late }
            { s with hw := g.send p exe e c.id 1 ((ps.head?).map (·.1)) bs [] none 0 false }
    else
      let rows := rowsOf bag c.table.rb m.data
      let r := if c.pool = 0 then (rows.flatten, (0 : FlagBits)) else poolRow c.table (c.pool == 2) c.z rows
      let g := (List.range ((r.1.length + 1023) / 1024)).foldl (fun (g : Hw) j =>
        let bs := (r.1.drop (1024 * j)).take 1024
        g.send p exe e c.id 1 none bs [(.mem (some exe) (spadKey core (c.out + m.out + 1024 * j)), bs.length)] (some (core, c.sync)) 0 false) h
      { s with hw := upd g fun m =>
        { m with next := m.next + bag, data := [], out := m.out + r.1.length, flags := m.flags ||| r.2, ready := h.wtick + 1 } }

/-- A gemb ends: its counts of indices at or beyond NR, of the rows it took, and its exceptions (R298, R299). -/
def Core.embEnd (x : Core) (c : EmbCmd) (m : Moving) : Core :=
  { x with
    eq := x.eq.filter (·.id != c.id), eexc := x.eexc ||| m.flags.setWidth 5
    eoor := incSat x.eoor (m.idx.countP fun i => decide (c.table.nr ≤ i)) }

/-! ### Base-die products (R97, R266) -/

/-- Codes of 256 elements of x or of a row. -/
def chunkCodes (t : Tag) (bs : List Byte) (c : Nat) : List Nat :=
  let w := gemvBytes t
  (List.range 256).map fun i => leNat ((bs.drop (w * (256 * c + i))).take w)

/-- Breaches of R97 over all rows of B, found before anything is written: a page that misses, refuses, or is not HOME here. -/
def Hw.gemvBreach (h : Hw) (nb : Nat) (g : Gemv) : Option (Nat × Nat) :=
  let d := h.die nb
  (lines g.b (g.m * g.k * gemvBytes g.fmt)).findSome? fun l =>
    match d.piece l.1 .read false with
    | .error c => some (c, l.1)
    | .ok _ => if d.homeOf l.1 = some nb then none else some (0x0402, l.1)

/-- A GEMV takes one step: first the conditions of R97 and x, through the engine port; then a piece of the next row of B; and
when the row is complete its product, 4 bytes of y. Each step waits for what the last one sent. -/
def State.gemvStep (s : State) (p nb : Nat) (g : Gemv) (m : Moving) : State :=
  let h := s.hw
  let w := gemvBytes g.fmt
  let fail := fun (code key : Nat) => s.updHw fun h => h.failMove nb 15 g.id code key
  let upd := fun (h : Hw) (f : Moving → Moving) => h.updMove nb 15 g.id f
  if h.transit.any (·.cmd == g.id) then s
  else if m.begun = false then
    let ps : List (Place × Nat) := [(.mem (some (g.core / 32)) (spadKey g.core g.x), g.k * w)]
    match h.gemvBreach nb g with
    | some (c, k) => fail c k
    | none =>
      match s.take p nb (.spad (g.core / 32) (g.core % 32) g.x) ps with
      | .wait => s
      | .fault h1 code key => { s with hw := h1.failMove nb 15 g.id code key }
      | .bytes h1 bs late =>
        let h2 := upd h1 fun m => { m with begun := true, operand := bs, ready := h.wtick + 1 + late }
        { s with hw := h2.send p nb 15 g.id 1 ((ps.head?).map (·.1)) bs [] none 0 false }
  else
    let len := g.k * w
    if m.data.length < len then
      let a := EngAddr.virt (g.b + m.next * len + m.data.length)
      match h.run nb a (Nat.min 1024 (len - m.data.length)) .read false with
      | .error code => fail code a.key
      | .ok ps =>
        match s.take p nb a ps with
        | .wait => s
        | .fault h1 code key => { s with hw := h1.failMove nb 15 g.id code key }
        | .bytes h1 bs late => { s with hw := upd h1 fun m => { m with data := m.data ++ bs, ready := h.wtick + 1 + late } }
    else
      let chunks := (List.range (g.k / 256)).map fun c => (chunkCodes g.fmt m.operand c, chunkCodes g.fmt m.data c)
      let y : List (Place × Nat) := [(.mem (some (g.core / 32)) (spadKey g.core (g.y + 4 * m.next)), 4)]
      let h1 := upd h fun m => { m with next := m.next + 1, data := [], ready := h.wtick + 1 }
      { s with hw := h1.send p nb 15 g.id 1 none (leBytes 4 (gemvRow g.fmt g.sat chunks)) y (some (g.core, g.sync)) 0 false }

/-! ### Reports (R305) -/

/-- After a fault the bytes left over are reported as one arrival with the code. -/
def Hw.reportEnd (h : Hw) (p src : Nat) (tgt : Option (Nat × Nat)) (left : Nat) (fault : Option (Nat × Nat)) : Hw :=
  match fault with
  | some f => h.report p src tgt left (some f.1)
  | none => h

def Hw.recordFault (h : Hw) (slot : Nat) (f : EngFault) : Hw :=
  h.record slot 2 (unitOfKey f.key) (f.key % 2 ^ 60) f.code none

end Sys2Proof.Machine
end

