-- ==== Sys2Proof/Machine/Views.lean ====
section
/-! DEFINITION. Fabric groups at this package's ranks: views and their agents, collectives, heartbeats, fabric time
(R267-R285, R313-R317, R437). Messages to ranks of this package arrive after a free time; messages to other packages are
outputs (notes/assumptions/26.md). -/
namespace Sys2Proof.Machine
open Sys2Proof

/-! ### Fabric groups -/

def Hw.fab? (h : Hw) (p g : Nat) : Option FabGroup := (h.part p).fab? g
def Hw.updFab (h : Hw) (p g : Nat) (f : FabGroup → FabGroup) : Hw :=
  h.updPart p fun q => { q with fabs := q.fabs.map fun x => if x.num = g then f x else x }

/-- Serial order of sequence numbers (R274). -/
def serLt (a b : BitVec 32) : Bool := decide (1 ≤ (b - a).toNat) && decide ((b - a).toNat < 2 ^ 31)
def serLe (a b : BitVec 32) : Bool := a == b || serLt a b
def serMax (xs : List (BitVec 32)) (d : BitVec 32) : BitVec 32 := xs.foldl (fun m x => if serLt m x then x else m) d

/-- The coordinator: the lowest member not marked suspect (R268). -/
def FabGroup.coordinator (f : FabGroup) : Option Nat := f.members.find? fun r => !f.suspects.contains r

def insertRank (r : Nat) (l : List Nat) : List Nat :=
  match l with
  | [] => [r]
  | x :: t => if r < x then r :: x :: t else if r = x then x :: t else x :: insertRank r t
def unionRanks (a b : List Nat) : List Nat := b.foldl (fun l r => insertRank r l) a

/-- A message to a rank: to this package, an event after a number of ticks; to another one, an output. A rank in LOST sends
nothing on the group (R281). -/
def Hw.sendRankIn (h : Hw) (n p g rank : Nat) (mk : Nat → Event) : Hw :=
  match h.fab? p g with
  | none => h
  | some f =>
    match f.ranks[rank]? with
    | none => h
    | some (pkg, q) =>
      if f.agent = .lost then h
      else if pkg = h.pkg.pkgId then h.at (h.wtick + n) (mk q) else h.out (.fabric (mk q))

/-- The same after a free time. -/
def Hw.sendRank (h : Hw) (p g rank : Nat) (mk : Nat → Event) : Hw :=
  h.used.sendRankIn (1 + Config.freeLatency h.fresh) p g rank mk

def Hw.sendAll (h : Hw) (p g : Nat) (rs : List Nat) (mk : Nat → Event) : Hw := rs.foldl (fun g' r => g'.sendRank p g r mk) h

/-- Strands of the teams whose GRPSET holds a group. -/
def Hw.groupStrands (h : Hw) (p g : Nat) : List Nat :=
  h.cores.flatMap fun c =>
    if h.partOf (c.1 / 32) = p ∧ c.2.team.isSome = true ∧ c.2.grps.any (·.num == g) = true then
      ([0, 1, 2, 3].map (c.1 * 4 + ·)).filter fun k => (h.strand k).status == .running || (h.strand k).status == .parked
    else []

/-! ### Collectives (R271, R278, R314) -/

/-- The view in which a sequence number was issued (R437): its members. -/
def FabGroup.issueMembers (f : FabGroup) (σ : BitVec 32) : List Nat :=
  match f.past.find? fun w => serLe σ w.2.2 with
  | some w => w.2.1
  | none => f.members

/-- The error that a change of view gives a collective (R278): it was issued in a view that is past, under ABORT; or its root is
gone. -/
def FabGroup.policyErr (f : FabGroup) (c : Coll) : Nat :=
  let d := collDesc c.desc
  if d.pol == 2 && f.past.any fun w => serLe c.seq w.2.2 then 0x0501
  else if c.op = .cbc ∧ f.members.contains d.root = false then 0x0503 else 0

/-- A collective whose result is taken from a survivor (R277) (notes/assumptions/42.md). -/
def FabGroup.taken (f : FabGroup) (σ : BitVec 32) : Bool := !f.past.isEmpty && serLe σ f.lastC

/-- The agent holds a collective (R275, R282). -/
def FabGroup.holds (f : FabGroup) (σ : BitVec 32) : Bool :=
  f.agent == .proposing || f.agent == .changing || (!f.awaitAck.isEmpty && serLe f.s0 σ)

def Coll.d (c : Coll) : CollDesc := collDesc c.desc
def posIn (r : Nat) (v : List Nat) : Nat := v.findIdx (· == r)

/-- A collective whose result is one and the same at every rank that has it (R314). -/
def Coll.shared (c : Coll) : Bool :=
  match c.op with
  | .cred => c.d.root == allRoot
  | .cag | .cbc => true
  | _ => false

/-- Whether this rank writes an output. -/
def FabGroup.receives (f : FabGroup) (c : Coll) (r : Nat) : Bool :=
  match c.op with
  | .cred => c.d.root == allRoot || c.d.root == r
  | _ => (f.issueMembers c.seq).contains r

/-- Ranks whose contributions this rank needs. -/
def FabGroup.needs (f : FabGroup) (c : Coll) : List Nat :=
  let v := f.issueMembers c.seq
  if f.receives c f.self = false then [f.self]
  else
    match c.op with
    | .cred | .crs => f.members
    | .cbc => [c.d.root]
    | _ => v.filter f.members.contains

/-- Whether this rank reads its input. -/
def FabGroup.reads (f : FabGroup) (c : Coll) : Bool :=
  match c.op with | .cbc => f.self == c.d.root | _ => true

/-- Whether a collective moves blocks, each of which goes to the output by itself. -/
def Coll.moves (c : Coll) : Bool := match c.op with | .cag | .cbc | .ca2a => true | _ => false

/-- Where a rank's block lies in the output of a move. -/
def FabGroup.blockAt (f : FabGroup) (c : Coll) (r : Nat) : Nat :=
  match c.op with
  | .cbc => 0
  | _ => posIn r (f.issueMembers c.seq) * c.d.outBlock

/-- Blocks of a time-triggered move that have come and are not yet on their way to the output (R285). -/
def FabGroup.newBlocks (f : FabGroup) (c : Coll) : List (Nat × List Byte) :=
  if c.timed && c.moves && c.err == 0 && c.sent && f.receives c f.self then
    (c.got.filter fun x => (f.needs c).contains x.1 && !c.placed.contains x.1)
  else []

/-- Ranks to which this rank sends. -/
def FabGroup.targets (f : FabGroup) (c : Coll) : List Nat :=
  let v := f.issueMembers c.seq
  match c.op with
  | .cred => if c.d.root = allRoot then f.members else f.members.filter (· == c.d.root)
  | .cbc => if f.self = c.d.root then v.filter f.members.contains else []
  | _ => v.filter f.members.contains

/-- What a rank's input contributes to a target: a whole block, or the block of the target's position. -/
def FabGroup.slice (f : FabGroup) (c : Coll) (input : List Byte) (r : Nat) : List Byte :=
  match c.op with
  | .crs | .ca2a => (input.drop (posIn r (f.issueMembers c.seq) * c.d.inBlock)).take c.d.inBlock
  | _ => input

/-- The code of an element widened to binary32 (R271). -/
def widenElem (t : Tag) (v : Nat) : Nat := if t = tB16 then v * 2 ^ 16 else v

/-- One element of a reduction: the tree over the contributions, then the divisor or the factor, rounded once to binary32 and
then to the output format. -/
def reduceElem (d : CollDesc) (ni nf : Nat) (xs : List Nat) : Nat :=
  let r : Red := if d.op = 2 then .max else if d.op = 3 then .min else .sum
  let s := b32.unpack ((pairTree 20 (redNode r b32) (xs.map fun x => (x, (0 : FlagBits)))).headD (0, 0)).1
  let num := fun (n : Nat) => (ofInt (n : Int)).v
  let y : Nat :=
    if d.op = 1 then (b32.deliver false .rne 0 (exDiv s (num (if d.pol = 1 then nf else ni)))).1
    else if d.op = 4 then
      let f := (exMul s (b32.unpack d.factor)).v
      (b32.deliver false .rne 0 (if d.pol = 1 then exDiv (exMul f (num ni)).v (num nf) else exMul f (num 1))).1
    else (b32.deliver false .rne 0 { v := s }).1
  ((fmtOf d.tout).getD b32).deliver false .rne 0 { v := b32.unpack y } |>.1

/-- The reduction of blocks listed in ascending rank (R271, R278). -/
def reduceBlocks (d : CollDesc) (ni nf : Nat) (blocks : List (List Byte)) : List Byte :=
  let w := collElem d.tin
  (List.range d.count).flatMap fun e =>
    leBytes (collElem d.tout)
      (reduceElem d ni nf (blocks.map fun b => widenElem d.tin (leNat ((b.drop (w * e)).take w))))

/-- Contributions in ascending rank. -/
def Coll.from_ (c : Coll) (rs : List Nat) : List (Nat × List Byte) :=
  rs.filterMap fun r => (c.got.find? (·.1 == r))

/-- What a rank forms of the contributions: offsets and bytes. Blocks of absent members stay as they were. -/
def FabGroup.formed (f : FabGroup) (c : Coll) : List (Nat × List Byte) :=
  let got := c.from_ (f.needs c)
  match c.op with
  | .cred | .crs => [(0, reduceBlocks c.d (f.issueMembers c.seq).length f.members.length (got.map (·.2)))]
  | _ => got.map fun x => (f.blockAt c x.1, x.2)

/-- A result taken from a survivor: of a gather, the blocks of the members of the view that was left, in ascending rank. -/
def FabGroup.placedResult (f : FabGroup) (c : Coll) (bs : List Byte) : List (Nat × List Byte) :=
  match c.op with
  | .cag =>
    let last := match f.past.getLast? with | some w => w.2.1 | none => f.members
    ((f.issueMembers c.seq).filter last.contains).zipIdx.map fun x =>
      (f.blockAt c x.1, (bs.drop (x.2 * c.d.outBlock)).take c.d.outBlock)
  | _ => [(0, bs)]

/-- What a rank writes; nothing that it knows of where the result of a collective that has completed elsewhere is lost to it. -/
def FabGroup.outputs (f : FabGroup) (c : Coll) : List (Nat × List Byte) :=
  if f.receives c f.self = false then []
  else
    match c.formed, c.result with
    | some os, _ => os
    | none, some bs => f.placedResult c bs.2
    | none, none => if f.taken c.seq then [] else f.formed c

/-- A collective that has completed elsewhere, whose result no survivor can give this rank: each rank had its own (R277). -/
def FabGroup.missing (f : FabGroup) (c : Coll) : Bool :=
  f.taken c.seq && c.formed.isNone && f.receives c f.self && !c.shared

/-- A collective that has completed elsewhere can publish here: its result is formed or has come, or can be had from nobody. -/
def FabGroup.takenReady (f : FabGroup) (c : Coll) : Bool := c.result.isSome || c.formed.isSome || !f.receives c f.self || !c.shared

/-- A collective that can complete at this rank: the earliest of its group, not held, in error or with all it needs. -/
def FabGroup.canPublish (f : FabGroup) (c : Coll) : Bool :=
  (match f.colls with | x :: _ => x.seq == c.seq | [] => false) &&
    (c.err != 0 || (!f.holds c.seq &&
      (if f.taken c.seq then f.takenReady c
       else c.sent && (f.needs c).all fun r => c.got.any (·.1 == r))))

def FabGroup.updColl (f : FabGroup) (σ : BitVec 32) (g : Coll → Coll) : FabGroup :=
  { f with colls := f.colls.map fun c => if c.seq = σ then g c else c }

/-- A result of a lower-ranked survivor of this package is on its way (R277) (notes/assumptions/42.md). -/
def Hw.lowerHolder (h : Hw) (f : FabGroup) (c : Coll) : Bool :=
  match c.result, c.formed with
  | some x, none => (f.members.filter (· < x.1)).any fun r => match f.ranks[r]? with
    | some (pkg, q) => pkg == h.pkg.pkgId && match h.fab? q f.num with
      | some g => g.agent != .lost && g.results.any (·.1 == c.seq)
      | none => false
    | none => false
  | _, _ => false

/-- Whether two ranks' commands are one collective: the command, and every field of the descriptor that says what it computes. -/
def sameColl (op op' : XOp) (a b : CollDesc) : Bool :=
  op == op' && a.op == b.op && a.root == b.root && a.tin == b.tin && a.tout == b.tout && a.pol == b.pol && a.count == b.count &&
    a.factor == b.factor

/-- Whether the input of a collective has been written at a rank of this package, or its ranks here have issued different
collectives under its number, published by now or not, so that its result is undefined (R120, R315). -/
def Hw.unsettled (h : Hw) (f : FabGroup) (c : Coll) : Bool :=
  f.ranks.any fun r => r.1 == h.pkg.pkgId && match h.fab? r.2 f.num with
    | none => false
    | some g => (g.colls.any fun k => k.seq == c.seq && k.dirty) ||
        g.issued.any fun k => k.1 == c.seq && !sameColl k.2.1 c.op (collDesc k.2.2) c.d

def freeBytes (n : Nat) (bs : List Byte) : List Byte := bs.zipIdx.map fun x => Config.freeByte n x.2

/-- The executing engine has read its rank's input and sends it to the ranks that need it; its own contribution counts at once.
What has been written since the issue goes as free bytes (R120). In-package, a send bound to TSTART takes a tick (R285). -/
def Hw.collSend (h : Hw) (p g : Nat) (σ : BitVec 32) (input : List Byte) : Hw :=
  match h.fab? p g with
  | none => h
  | some f =>
    match f.colls.find? (·.seq == σ) with
    | none => h
    | some c =>
      let bs := if c.dirty then freeBytes h.fresh input else input
      let own : List (Nat × List Byte) := if f.reads c then [(f.self, f.slice c bs f.self)] else []
      let h1 := h.used.updFab p g fun f => f.updColl σ fun c =>
        { c with sent := true, got := own ++ c.got.filter (·.1 != f.self) }
      ((f.targets c).filter (· != f.self)).foldl (fun (h : Hw) r =>
        let mk := fun (q : Nat) => Event.collectivePacket q g f.self f.view σ (f.slice c bs r)
        if c.timed then h.sendRankIn 1 p g r mk else h.sendRank p g r mk) h1

/-- A collective whose input cannot be read: it completes in error at this rank (R314). -/
def Hw.collFail (h : Hw) (p g : Nat) (σ : BitVec 32) (code key : Nat) : Hw :=
  h.updFab p g fun f => f.updColl σ fun c => { c with err := if c.err = 0 then code else c.err, errKey := key, sent := true }

/-- At TSTART, or at once without one, the engine begins to read and send (R314), unless the group is held (R275, R282): in the
very tick of TSTART (R285), otherwise after a free time. -/
def State.collStart (s : State) (slot queue : Nat) (c : XCmd) : State :=
  let g := (collDesc c.desc).grp
  match s.hw.fab? c.part g with
  | none => s
  | some f =>
    match f.colls.find? (·.seq == c.seq) with
    | none => s
    | some k =>
      let t := (collDesc c.desc).tstart.toNat
      if k.err ≠ 0 ∨ f.taken k.seq = true ∨ f.agent = .lost then
        s.updHw fun h => h.updFab c.part g fun f => f.updColl k.seq fun c => { c with sent := true }
      else if f.holds k.seq = true ∨ k.sent = true then s
      else if f.reads k = false then s.updHw fun h => h.collSend c.part g k.seq []
      else
        let m : Moving :=
          if k.timed ∧ s.hw.ftime.toNat < t + 512 then { ready := s.hw.wtick, prompt := true }
          else { ready := s.hw.wtick + 1 + Config.freeLatency s.hw.fresh }
        s.updHw fun h => (h.updQueue slot queue fun q => { q with cmds := q.cmds.map fun x =>
          if x.id = c.id ∧ x.move = none then { x with move := some m } else x }).used

def execCollectiveStart (slot : Nat) (queue : Nat) (s : State) : Out :=
  atSlot slot s fun s =>
    match ((s.hw.die slot).queue queue).cmds.head? with
    | none => s
    | some c => if xIsColl c.op && c.started then s.collStart slot queue c else s

/-- A packet: discarded, matched to its collective, or held (R270). -/
def FabGroup.packet (f : FabGroup) (sender : Nat) (view σ : BitVec 32) (data : List Byte) : FabGroup :=
  if f.agent = .lost ∨ serLt view f.view = true then f
  else if view ≠ f.view ∨ f.colls.any (·.seq == σ) = false then { f with held := f.held ++ [(sender, view, σ, data)] }
  else if f.taken σ then f.updColl σ fun c =>
    { c with result := match c.result with
        | some x => if x.1 ≤ sender then some x else some (sender, data)
        | none => some (sender, data) }
  else f.updColl σ fun c => if c.got.any (·.1 == sender) then c else { c with got := c.got ++ [(sender, data)] }

/-- Held packets of the committed view meet the collectives issued here. -/
def FabGroup.unhold (f : FabGroup) : FabGroup :=
  let now := f.held.filter fun x => x.2.1 == f.view
  now.foldl (fun g x => g.packet x.1 x.2.1 x.2.2.1 x.2.2.2) { f with held := f.held.filter fun x => x.2.1 != f.view }

def execCollectivePacket (part grp sender : Nat) (view seq : BitVec 32) (data : List (BitVec 8)) (s : State) : Out :=
  inPart part s fun s => s.updHw fun h => h.updFab part grp fun f => f.packet sender view seq data

/-- A region whose elements are undefined from now on. -/
def State.undefRegion (s : State) (ks : List (Nat × Nat)) : State :=
  (ks.foldl (fun (s : State) r => s.poke r.1 ((List.range r.2).map fun i => Config.freeByte s.hw.fresh (r.1 + i))) s).updHw Hw.used

def overlaps (xs ys : List (Nat × Nat)) : Bool :=
  xs.any fun x => ys.any fun y => decide (x.1 < y.1 + y.2) && decide (y.1 < x.1 + x.2)

/-- The sync word that a collective reports to, as a region. -/
def XCmd.syncRegion (c : XCmd) : List (Nat × Nat) :=
  let d := collDesc c.desc
  match reportTo d.rpt d.swo (if c.core = 0 then none else some c.core) (EngAddr.ofNat c.d.toNat) with
  | some (core, off) => [(spadKey core off, 16)]
  | none => []

/-- A collective is numbered (R315). Its outputs are undefined until it publishes (R314), but for those of a time-triggered move,
which hold the old value or the new one (R285); its result is undefined where its regions, the sync word among them, overlap (R334,
notes/assumptions/87.md). -/
def State.numberColl (s : State) (slot queue : Nat) (c : XCmd) : State :=
  let g := (collDesc c.desc).grp
  match s.hw.fab? c.part g with
  | none => s
  | some f =>
    let k : Coll :=
      { seq := f.nextSeq, slot := slot, queue := queue, cmd := c.id, op := c.op, desc := c.desc, out := c.d, inp := c.a
        timed := (collDesc c.desc).tstart != 0 }
    let n := (f.issueMembers k.seq).length
    let keys := fun (on : Bool) (a : W64) (n : Nat) =>
      if on then s.hw.regionKeys slot ((EngAddr.ofNat a.toNat).getD (.virt 0)) n else []
    let ins := keys (f.reads k) c.a (k.d.inBytes k.op n)
    let outs := keys (f.receives k f.self) c.d (k.d.outBytes k.op n)
    let k : Coll :=
      { k with
        err := if f.agent = .lost then 0x0502 else if c.pre ≠ 0 then c.pre else if f.taken k.seq then 0 else f.policyErr k
        inKeys := ins, dirty := overlaps ins (outs ++ c.syncRegion) || overlaps outs c.syncRegion, before := outs.flatMap fun r => Memory.readBytes s.mem r.1 r.2 }
    (if k.timed ∧ k.moves = true then s else s.undefRegion outs).updHw fun h =>
      (h.updFab c.part g fun f => FabGroup.unhold
          { f with nextSeq := k.seq + 1, assigned := k.seq, issued := f.issued ++ [(k.seq, k.op, k.desc)], colls := f.colls ++ [k] }).updQueue slot queue fun q =>
        { q with cmds := q.cmds.map fun y => if y.id = c.id then { y with numbered := true, seq := k.seq } else y }

/-- Collectives accepted in a tick are numbered at its end, in ascending slot and queue. -/
def State.numberColls (s : State) : State :=
  let new := s.hw.dies.flatMap fun d => d.2.queues.flatMap fun q =>
    (q.2.cmds.filter fun c => xIsColl c.op && !c.numbered).map fun c => (d.1, q.1, c)
  new.foldl (fun s x => s.numberColl x.1 x.2.1 x.2.2) s

/-- What a collective writes at this rank; free bytes where its result is undefined. -/
def Hw.collOuts (h : Hw) (f : FabGroup) (c : Coll) : List (Nat × List Byte) :=
  if c.err ≠ 0 then []
  else if f.missing c then [(0, freeBytes h.fresh (List.replicate (c.d.outBytes c.op (f.issueMembers c.seq).length) 0))]
  else if h.unsettled f c then (f.outputs c).map fun o => (o.1, freeBytes (h.fresh + o.1) o.2)
  else f.outputs c

/-- Bytes that a collective reports at this rank: those of the output it writes, or 16 (R305). -/
def FabGroup.collTotal (f : FabGroup) (c : Coll) (outs : List (Nat × List Byte)) : Nat :=
  if f.receives c f.self = false then 16
  else if c.err ≠ 0 then c.d.outBytes c.op (f.issueMembers c.seq).length
  else if outs = [] then 16 else (outs.map (·.2.length)).sum

/-- The blocks of a gather or an all-to-all whose members are absent stand as they stood before the collective (R278). -/
def State.restoreBlocks (s : State) (f : FabGroup) (c : Coll) : State :=
  let v := f.issueMembers c.seq
  let moved := match c.op with | .cag | .ca2a => !f.taken c.seq && f.receives c f.self | _ => false
  if moved then
    (v.zipIdx.filter fun x => !f.members.contains x.1).foldl (fun (s : State) x =>
      let off := x.2 * c.d.outBlock
      match s.engWrite (s.hw.partOf c.slot) c.slot (((EngAddr.ofNat c.out.toNat).getD (.virt 0)).plus off)
          ((c.before.drop off).take c.d.outBlock) false false with
      | .ok t => t
      | .error _ => s) s
  else s

/-- A collective counts as published at this rank (R274). -/
def Hw.collPublished (h : Hw) (p : Nat) (g : Nat) (c : Coll) (outs : List (Nat × List Byte)) (ok : Bool) : Hw :=
  h.updFab p g fun f =>
    { f with
      published := c.seq, colls := f.colls.filter (·.seq != c.seq)
      results := if ok then f.results ++ [(c.seq, (outs.map (·.2)).flatten)] else f.results }

/-! ### The view agent (R274-R282) -/

def FabGroup.quorum (f : FabGroup) (n : Nat) : Bool := decide (f.members.length < 2 * n)

/-- What an engine has on its way for a collective is dropped. -/
def Hw.dropMove (h : Hw) (c : Coll) : Hw :=
  ({ h with transit := h.transit.filter (·.cmd != c.cmd) }).updQueue c.slot c.queue fun q =>
    { q with cmds := q.cmds.map fun (x : XCmd) => if x.id = c.cmd then { x with move := none } else x }

/-- The rank enters LOST: every collective that has not completed here fails with 0x0502, and the strands of the group take the
quorum-lost trap (R281). -/
def Hw.enterLost (h : Hw) (p g : Nat) : Hw :=
  let h0 := match h.fab? p g with | some f => f.colls.foldl Hw.dropMove h | none => h
  let h1 := h0.updFab p g fun f =>
    { f with agent := .lost, held := [], colls := f.colls.map fun c =>
        { c with err := 0x0502, errKey := 0, closing := false, ended := false } }
  (h1.groupStrands p g).foldl (fun h k => h.updStrand k fun st => { st with quorumLost := some g }) h1

/-- R277 and R278 on a collective of group f that a change to g catches: one that had completed at a survivor keeps what this rank
had formed of it, or takes a survivor's result; every other one, whatever an earlier change made of it, is formed again from the
inputs, with the blocks of the view in which it was issued, unless its policy ends it. -/
def FabGroup.caught (f g : FabGroup) (c : Coll) : Coll :=
  let ready := f.receives c f.self && !f.taken c.seq && c.sent && (f.needs c).all fun r => c.got.any (·.1 == r)
  let took := c.err == 0 && g.taken c.seq
  { c with
    got := [], sent := false, closing := false, ended := false, timed := false, placed := []
    formed := if took then (if ready then some (f.formed c) else c.formed) else none
    result := if took then c.result else none
    err := if c.err ≠ 0 then c.err else if g.taken c.seq then 0 else g.policyErr c }

/-- The group at a commit of view `view` (R276, R437). A joiner that last knew an older view than the one left takes that one's
members to be the others of the new one (notes/assumptions/45.md). Acknowledgements of earlier joiners are still awaited (R282). -/
def FabGroup.commit (f : FabGroup) (view : BitVec 32) (members : List Nat) (C A : BitVec 32) : FabGroup :=
  let old := f.members
  let joiners := members.filter fun r => !old.contains r
  let wasIn := old.contains f.self
  let rest := f.awaitAck.filter members.contains
  let g : FabGroup :=
    { f with
      past := f.past ++ [(view - 1, if wasIn || f.view + 1 == view then old else members.filter (· != f.self), A)]
      view := view, members := members, agent := .steady, accepts := [], proposed := []
      suspects := f.suspects.filter members.contains, joins := f.joins.filter fun r => !members.contains r
      admitted := f.admitted.filter fun r => !members.contains r
      awaitAck := unionRanks rest (joiners.filter fun r => !f.acked.contains r), acked := []
      s0 := if rest = [] then C + 1 else f.s0, lastC := C, nextSeq := if wasIn then f.nextSeq else C + 1
      held := f.held.filter fun x => x.2.1 == view }
  FabGroup.unhold { g with colls := g.colls.map (f.caught g) }

/-- A commit (R276): view v + 1 is installed, collectives are settled, results that a survivor may lack are sent, and the
strands of the group are owed the view-change trap (R280) (notes/assumptions/45.md) (notes/assumptions/48.md). -/
def Hw.commitView (h : Hw) (p g : Nat) (view : BitVec 32) (members : List Nat) (C A : BitVec 32) : Hw :=
  match h.fab? p g with
  | none => h
  | some f =>
    let h1 := f.colls.foldl Hw.dropMove (h.updFab p g fun f => f.commit view members C A)
    let mine := f.results.filter fun r => serLe r.1 C
    let h2 := mine.foldl (fun h r => h.sendAll p g (members.filter (· != f.self)) fun q =>
      .collectivePacket q g f.self view r.1 r.2) h1
    let back := fun (x : Nat × Peer) =>
      if members.any (fun r => (f.ranks[r]?.map (·.1)) == some x.1) then (x.1, { x.2 with suspect := false }) else x
    let h3 := h2.updPkg fun k => { k with peers := k.peers.map back }
    (h3.groupStrands p g).foldl (fun h k => h.soon (.viewChangeTrap k g)) h3

/-- A collective that the commit places in another view than the one in which it was numbered has regions of that view's size (R437):
what it no longer writes is as it was, and what it writes beside is undefined from now on (R314). -/
def State.reshape (s : State) (f : FabGroup) (c : Coll) : State :=
  let n := (f.issueMembers c.seq).length
  let len := c.d.outBytes c.op n
  let keys := fun (on : Bool) (a : W64) (n : Nat) =>
    if on then s.hw.regionKeys c.slot ((EngAddr.ofNat a.toNat).getD (.virt 0)) n else []
  let outs := keys (f.receives c f.self) c.out len
  let ins := keys (f.reads c) c.inp (c.d.inBytes c.op n)
  let was := c.before.length
  let bytes := outs.flatMap fun r => Memory.readBytes s.mem r.1 r.2
  if f.receives c f.self = false ∨ was = len then s
  else
    let a := (EngAddr.ofNat c.out.toNat).getD (.virt 0)
    let s1 : State :=
      if len < was then
        (s.hw.regionKeys c.slot (a.plus len) (was - len)).foldl (fun (x : State × List Byte) r =>
          (x.1.poke r.1 (x.2.take r.2), x.2.drop r.2)) (s, c.before.drop len) |>.1
      else s.undefRegion (s.hw.regionKeys c.slot (a.plus was) (len - was))
    s1.updHw fun h => h.updFab (h.partOf c.slot) f.num fun g => g.updColl c.seq fun k =>
      { k with before := if len < was then k.before.take len else k.before ++ bytes.drop was, inKeys := ins }

def State.commitView (s : State) (p g : Nat) (view : BitVec 32) (members : List Nat) (C A : BitVec 32) : State :=
  let s1 := s.updHw fun h => h.commitView p g view members C A
  match s1.hw.fab? p g with
  | some f => f.colls.foldl (fun (s : State) c => s.reshape f c) s1
  | none => s1

/-- A STEADY rank that is not the coordinator reports its suspicions to it (R273, R275). -/
def Hw.report? (h : Hw) (p g : Nat) : Hw :=
  match h.fab? p g with
  | none => h
  | some f =>
    if f.agent ≠ .steady ∨ f.members.contains f.self = false ∨ f.suspects.isEmpty = true then h
    else
      match f.coordinator with
      | none => h
      | some c => if c = f.self then h else h.sendRank p g c fun q => .suspect q g f.view f.suspects

/-- Accepts have reached a quorum: COMMIT is sent, and this rank commits; of the suspicions held meanwhile it tells the coordinator,
where it is not that itself (R275). -/
def State.tryCommit (s : State) (p g : Nat) : State :=
  match s.hw.fab? p g with
  | none => s
  | some f =>
    match f.accepts.filter fun a => f.members.contains a.1 with
    | [] => s
    | a :: acc =>
      if f.agent = .proposing ∧ f.quorum (acc.length + 1) = true then
        let C := serMax (acc.map (·.2.1)) a.2.1
        let A := serMax (acc.map (·.2.2)) a.2.2
        let tgt := (unionRanks f.members f.admitted).filter (· != f.self)
        let v := f.view + 1
        let s1 := s.updHw fun h => h.sendAll p g tgt fun q => .commit q g v f.proposed C A
        (s1.commitView p g v f.proposed C A).updHw fun h => h.report? p g
      else s

/-- PROPOSE: suspects removed, admitted joiners added (R275). -/
def State.proposeView (s : State) (p g : Nat) : State :=
  match s.hw.fab? p g with
  | none => s
  | some f =>
    let members := unionRanks (f.members.filter fun r => !f.suspects.contains r) f.admitted
    let tgt := members.filter (· != f.self)
    let h1 := s.hw.updFab p g fun f =>
      { f with agent := .proposing, proposed := members, proposer := f.self, since := s.hw.wtick
               accepts := [(f.self, f.published, f.assigned)] }
    ({ s with hw := h1.sendAll p g tgt fun q => .propose q g (f.view + 1) members f.self }).tryCommit p g

/-- What a STEADY rank does about suspicions and admissions: as coordinator it proposes; else it reports (R273, R275). -/
def State.act (s : State) (p g : Nat) : State :=
  match s.hw.fab? p g with
  | none => s
  | some f =>
    if f.agent ≠ .steady ∨ f.members.contains f.self = false then s
    else
      match f.coordinator with
      | none => s
      | some c =>
        if c = f.self then (if f.suspects.isEmpty && f.admitted.isEmpty then s else s.proposeView p g)
        else s.updHw fun h => h.report? p g

/-- Ranks become suspect at this rank. -/
def State.markSuspect (s : State) (p g : Nat) (ranks : List Nat) : State :=
  match s.hw.fab? p g with
  | none => s
  | some f =>
    let new := ranks.filter fun r => f.members.contains r && !f.suspects.contains r && r != f.self
    if new = [] ∨ f.agent = .lost then s
    else (s.updHw fun h => h.updFab p g fun f => { f with suspects := unionRanks f.suspects new }).act p g

/-- A peer package becomes suspect: every rank of it, in every group (R273). -/
def State.suspectPackage (s : State) (pkg : Nat) : State :=
  let s1 := s.updHw fun h => h.updPkg fun k => { k with peers := k.peers.map fun x =>
    if x.1 = pkg then (x.1, { x.2 with suspect := true }) else x }
  (List.range 8).foldl (fun s p =>
    ((s.hw.part p).fabs).foldl (fun s f =>
      s.markSuspect p f.num ((List.range f.ranks.length).filter fun r => (f.ranks[r]?.map (·.1)) == some pkg)) s) s1

def execSuspect (part grp : Nat) (view : BitVec 32) (ranks : List Nat) (s : State) : Out :=
  inPart part s fun s =>
    match s.hw.fab? part grp with
    | some f => if f.view = view then s.markSuspect part grp ranks else s
    | none => s

/-- The rank holds its collectives and sends ACCEPT to the proposer (notes/assumptions/43.md). -/
def Hw.acceptTo (h : Hw) (p g : Nat) (members : List Nat) (proposer : Nat) (view : BitVec 32) : Hw :=
  match h.fab? p g with
  | none => h
  | some f =>
    (h.updFab p g fun f => { f with agent := .changing, proposed := members, proposer := proposer, since := h.wtick }).sendRank
      p g proposer fun q => .accept q g view f.self f.published f.assigned

/-- A message of the change to view v + 1; a rank that is not a member takes the view number that it is told. -/
def FabGroup.next (f : FabGroup) (view : BitVec 32) : Bool := view == f.view + 1 || !f.members.contains f.self

/-- See notes/assumptions/44.md. -/
def execPropose (part grp : Nat) (view : BitVec 32) (members : List Nat) (proposer : Nat) (s : State) : Out :=
  inPart part s fun s => s.updHw fun h =>
    match h.fab? part grp with
    | none => h
    | some f =>
      let listed := members.contains f.self
      if f.next view = false then h
      else
        match f.agent with
        | .steady => if listed then h.acceptTo part grp members proposer view else h
        | .proposing => if proposer < f.self then h.acceptTo part grp members proposer view else h
        | .changing => if listed ∧ proposer ≤ f.proposer then h.acceptTo part grp members proposer view else h
        | .lost => h

def execAccept (part grp : Nat) (view : BitVec 32) (rank : Nat) (cfront afront : BitVec 32) (s : State) : Out :=
  inPart part s fun s =>
    match s.hw.fab? part grp with
    | none => s
    | some f =>
      if f.agent = .proposing ∧ view = f.view + 1 ∧ f.accepts.any (·.1 == rank) = false then
        (s.updHw fun h => h.updFab part grp fun f => { f with accepts := f.accepts ++ [(rank, cfront, afront)] }).tryCommit part grp
      else s

def execCommit (part grp : Nat) (view : BitVec 32) (members : List Nat) (cfront afront : BitVec 32) (s : State) : Out :=
  inPart part s fun s =>
    match s.hw.fab? part grp with
    | none => s
    | some f =>
      if f.agent = .lost ∨ f.next view = false then s
      else if members.contains f.self = false then s.updHw fun h => h.enterLost part grp
      else if f.agent = .changing then (s.commitView part grp view members cfront afront).act part grp
      else s

/-- JOIN: pending at the coordinator, to which any other member forwards it (R274, R282). -/
def execJoin (part grp rank pkg : Nat) (s : State) : Out :=
  inPart part s fun s => s.updHw fun h =>
    match h.fab? part grp with
    | none => h
    | some f =>
      if f.agent = .lost ∨ f.members.contains rank = true then h
      else
        match f.coordinator with
        | some c =>
          if c = f.self then h.updFab part grp fun f => { f with joins := insertRank rank f.joins }
          else h.sendRank part grp c fun q => .join q grp rank pkg
        | none => h

/-- A joiner's acknowledgement; one that comes before the commit that admits the joiner is kept for it (R282). -/
def execJoinAck (part grp rank : Nat) (s : State) : Out :=
  inPart part s fun s => s.updHw fun h => h.updFab part grp fun f =>
    if f.awaitAck.contains rank then { f with awaitAck := f.awaitAck.filter (· != rank) }
    else if f.members.contains rank then f else { f with acked := insertRank rank f.acked }

/-- 100 µs without a quorum: the members that did not answer are suspect, and joiners that did not are left out; a new proposal
when a quorum is still possible, else LOST. -/
def execProposeTimeout (part grp : Nat) (s : State) : Out :=
  inPart part s fun s =>
    match s.hw.fab? part grp with
    | none => s
    | some f =>
      if f.agent ≠ .proposing then s
      else
        let silent := f.members.filter fun r => f.accepts.any (·.1 == r) = false
        let sus := unionRanks f.suspects silent
        let left := f.members.countP fun r => !sus.contains r
        let s1 := s.updHw fun h => h.updFab part grp fun f =>
          { f with suspects := sus, admitted := f.admitted.filter fun r => f.accepts.any (·.1 == r) }
        if f.quorum left then s1.proposeView part grp else s1.updHw fun h => h.enterLost part grp

/-- 200 µs in CHANGING without COMMIT: the proposer is suspect, and the rank is STEADY again. -/
def execCommitTimeout (part grp : Nat) (s : State) : Out :=
  inPart part s fun s =>
    match s.hw.fab? part grp with
    | none => s
    | some f =>
      if f.agent ≠ .changing then s
      else
        (s.updHw fun h => h.updFab part grp fun f =>
          { f with agent := .steady, suspects := insertRank f.proposer f.suspects }).act part grp

/-- A NAK from a peer package for a collective packet (R273). -/
def execCollectiveNak (part grp pkg : Nat) (s : State) : Out :=
  inPart part s fun s => if (s.hw.fab? part grp).isSome then s.suspectPackage pkg else s

/-- Whether a rank's time-triggered delivery is complete here: it has come, and of a move its block is visible (R285). -/
def Hw.delivered (h : Hw) (f : FabGroup) (c : Coll) (r : Nat) : Bool :=
  let mine := fun (off : Nat) => match c.op with | .cbc => true | _ => off / Nat.max 1 c.d.outBlock == posIn r (f.issueMembers c.seq)
  let waiting := ((h.die c.slot).queue c.queue).cmds.any fun x => x.id == c.cmd && match x.move with
    | some m => m.begun && m.segs.any fun s => mine s.1
    | none => false
  c.got.any (·.1 == r) && (!(c.moves && f.receives c f.self) ||
    (c.placed.contains r && !waiting && !h.transit.any fun t => t.cmd == c.cmd && t.dst != [] && mine t.off))

/-- A time-triggered delivery missed its bound: the sender is suspect (R285). -/
def execTtDeliveryDeadline (part grp : Nat) (seq : BitVec 32) (sender : Nat) (s : State) : Out :=
  inPart part s fun s =>
    match s.hw.fab? part grp with
    | none => s
    | some f =>
      match f.colls.find? (·.seq == seq) with
      | none => s
      | some c =>
        if s.hw.delivered f c sender then s
        else
          match f.ranks[sender]? with
          | some (pkg, _) => if pkg = s.hw.pkg.pkgId then s.markSuspect part grp [sender] else s.suspectPackage pkg
          | none => s

/-- The view-change trap is owed to a strand; in queued mode a strand that stands in an explicit wait takes it now (R280). -/
def Wait.isExplicit : Wait → Bool
  | .token _ | .sync _ _ | .barrier _ _ | .drain | .retire | .ftime _ | .wtick _ | .rendezvous => true
  | _ => false

def execViewChangeTrap (strand : Nat) (grp : Nat) (s : State) : Out :=
  happen s fun s => s.updHw fun h =>
    let g := h.updStrand strand fun st => { st with viewTrap := some grp }
    let st := h.strand strand
    if h.strictOf (h.partOf (slotOf strand)) = false ∧ st.mode = .kernel ∧ st.wait.isExplicit = true then g.takeView strand else g

/-! ### View operations (R316, R317) -/

def agentCode : AgentState → Nat
  | .steady => 0 | .proposing => 1 | .changing => 2 | .lost => 3

/-- The 64 bytes of the view record. -/
def FabGroup.record (f : FabGroup) : Nat :=
  let isC := f.coordinator == some f.self
  let nj := if isC then Nat.min f.joins.length 4095 else 0
  f.self * 2 ^ 152 + (f.joins.headD 0) * 2 ^ 128 + nj * 2 ^ 112 + f.nextSeq.toNat * 2 ^ 80 + agentCode f.agent * 2 ^ 72 +
    (f.coordinator.getD 0) * 2 ^ 52 + f.members.length * 2 ^ 32 + f.view.toNat

def FabGroup.bitmap (f : FabGroup) (n : Nat) : List Byte :=
  (List.range n).map fun i => BitVec.ofNat 8 (packNat 1 ((List.range 8).map fun b => if f.members.contains (8 * i + b) then 1 else 0))

/-- A view operation other than view.rd executes: its effect, and its error code or 0; `none` when it still waits (a JOIN until
its commit). -/
def State.viewRun (s : State) (c : XCmd) : Option (State × Nat) :=
  let g := c.a.toNat % 256
  match s.hw.fab? c.part g with
  | none => some (s, 0x0402)
  | some f =>
    match c.op with
    | .viewAdm =>
      let r := c.d.toNat % 2 ^ 20
      if f.coordinator ≠ some f.self then some (s, 0x0504)
      else if f.joins.contains r = false then some (s, 0x0505)
      else
        let s1 := s.updHw fun h => h.updFab c.part g fun f =>
          { f with joins := f.joins.filter (· != r), admitted := insertRank r f.admitted }
        some (s1.act c.part g, 0)
    | .viewAck =>
      if f.awaitAck.contains f.self = false ∨ f.members.contains f.self = false then some (s, 0x0506)
      else
        let h1 := s.hw.updFab c.part g fun f => { f with awaitAck := f.awaitAck.filter (· != f.self) }
        some ({ s with hw := h1.sendAll c.part g (f.members.filter (· != f.self)) fun q => .joinAck q g f.self }, 0)
    | .viewJoin =>
      if c.waiting then (if f.members.contains f.self then some (s, 0) else none)
      else some (s, 0x0506)
    | _ => some (s, 0)

/-- view.join begins: the JOIN goes to a member (R282). -/
def Hw.sendJoin (h : Hw) (p g : Nat) : Hw :=
  match h.fab? p g with
  | none => h
  | some f =>
    match f.members.head? with
    | none => h
    | some r => h.sendRank p g r fun q => .join q g f.self h.pkg.pkgId

/-! ### Heartbeats (R273) -/

def heartbeatPeriod (m : PowerMode) : Nat := usTicks m 2
def heartbeatLimit (m : PowerMode) : Nat := usTicks m 20

/-- A heartbeat flit on each of the four links of a SW die (R272, R273). -/
def execHeartbeatSend (slot : Nat) (s : State) : Out :=
  atSlot slot s fun s => s.updHw fun h =>
    [0, 1, 2, 3].foldl (fun (g : Hw) l => g.out (.heartbeat slot l h.pkg.pkgId h.pkg.clock)) h

def execHeartbeatReceive (pkg : Nat) (clock : ClockState) (s : State) : Out :=
  happen s fun s =>
    let p0 : Peer := amGet s.hw.pkg.peers pkg {}
    let s1 := s.updHw fun h => h.updPkg fun k =>
      { k with peers := amSet k.peers pkg { p0 with lastBeat := h.wtick, clock := clock, lost := false } }
    match clock with
    | .locked | .holdover => s1
    | _ => s1.suspectPackage pkg

/-- No heartbeat for more than 20 µs: the peer is suspect, and the fabric holds it unreachable until one comes (R273, R389). -/
def execHeartbeatTimeout (pkg : Nat) (s : State) : Out :=
  happen s fun s => (s.updHw fun h => h.updPkg fun k =>
    { k with peers := amSet k.peers pkg { (amGet k.peers pkg {}) with lost := true } }).suspectPackage pkg

/-! ### Fabric time (R283, R284) -/

/-- The PTP domain of the fabric; messages of another one are none of this profile's (R284, notes/assumptions/19.md). -/
def ptpDomain : Nat := 0x4B

/-- A Sync at the port that leads to the grandmaster gives a time source, and at any other port nothing: FREE turns to ACQUIRING, ACQUIRING and HOLDOVER to LOCKED; how many Syncs an acquisition takes the manual leaves
open (notes/assumptions/7.md) (notes/assumptions/19.md). -/
def execPtpSync (port : Nat) (origin : BitVec 64) (s : State) : Out :=
  happen s fun s => s.updHw fun h =>
    if h.pkg.slavePort ≠ some port then h else
    let p0 : PtpPort := amGet h.pkg.ports port {}
    let locked := Config.freeNat h.fresh % 2 == 1
    let h1 := h.used.updPkg fun k =>
      { k with
        ports := amSet k.ports port { p0 with lastOrigin := origin, syncs := p0.syncs + 1 }
        clock := match k.clock with
          | .free => .acquiring
          | .holdover => if locked then .locked else .holdover
          | .acquiring => if locked then .locked else .acquiring
          | .locked => .locked }
    if h1.pkg.clock = h.pkg.clock then h1 else h1.updPkg fun k => { k with clockSince := h.wtick }

/-- A peer-delay request is answered on its port. -/
def execPtpPdelayReq (port : Nat) (s : State) : Out := happen s fun s => s.updHw fun h => h.out (.ptpPdelayResp port ptpDomain)
def execPtpPdelayResp (port : Nat) (delay : Nat) (s : State) : Out :=
  happen s fun s => s.updHw fun h => h.updPkg fun k =>
    { k with ports := amSet k.ports port { (amGet k.ports port {}) with delay := delay } }

/-- The order of the default best master clock algorithm: the data sets compared attribute by attribute, and of two that name
one grandmaster the one with fewer steps. -/
def betterMaster (a b : Announced) : Bool :=
  let key := fun (c : Announced) =>
    [c.gm.priority1, c.gm.quality, c.gm.accuracy, c.gm.variance, c.gm.priority2, c.gm.ident, c.steps]
  decide (key a < key b)

/-- Ticks between two messages of log interval −n; an Announce is forgotten after three of its intervals. -/
def ptpEvery (m : PowerMode) (n w : Nat) : Bool := w * 2 ^ n / (usTicks m 1000000) != (w - 1) * 2 ^ n / (usTicks m 1000000)
def announceLimit (m : PowerMode) : Nat := 3 * usTicks m 1000000 / 8

/-- The best master: the package's own clock, or the best of those announced lately at its ports. -/
def Package.chooseMaster (k : Package) (w : Nat) : Package :=
  let best := k.ports.foldl (fun (m : Announced × Option Nat) x =>
    match x.2.best with
    | some c => if w ≤ x.2.heard + announceLimit k.mode ∧ betterMaster c m.1 then (c, some x.1) else m
    | none => m) ({ gm := k.ownClock }, none)
  { k with grandmaster := some best.1, slavePort := best.2 }

def execPtpAnnounce (port : Nat) (gm : ClockSet) (steps : Nat) (s : State) : Out :=
  happen s fun s => s.updHw fun h => h.updPkg fun k =>
    { k with ports := amSet k.ports port { (amGet k.ports port {}) with best := some { gm := gm, steps := steps }, heard := h.wtick } }.chooseMaster h.wtick

/-- The fabric ports: four to a SW die (R272). -/
def fabricPorts : List Nat := List.range 16

/-- What the boundary clock sends in a tick (R284): peer-delay requests at every port; Sync, and Announce of the grandmaster one
step further on, at every port but the one that leads to it. -/
def Hw.ptpSends (h : Hw) : Hw :=
  let w := h.wtick
  let ports := fabricPorts.filter fun p => h.healthy (p / 4) && decide (6 ≤ h.pkg.bootStep)
  let down := ports.filter fun p => h.pkg.slavePort != some p
  let ev := fun (n : Nat) => ptpEvery h.pkg.mode n w
  let g := if ev 3 then h.updPkg fun k => k.chooseMaster w else h
  let gm := g.pkg.grandmaster.getD { gm := g.pkg.ownClock }
  let g := if ev 7 then ports.foldl (fun (g : Hw) p => g.out (.ptpPdelayReq p ptpDomain)) g else g
  let g := if ev 10 then down.foldl (fun (g : Hw) p => g.out (.ptpSync p ptpDomain h.ftime)) g else g
  if ev 3 then down.foldl (fun (g : Hw) p => g.out (.ptpAnnounce p ptpDomain { gm with steps := gm.steps + 1 })) g else g

/-- A package that loses its time source: HOLDOVER, whose 1 ms runs from the loss (R283). -/
def execTimeSourceLoss (s : State) : Out :=
  happen s fun s => s.updHw fun h => h.updPkg fun k =>
    match k.clock with
    | .locked | .acquiring => { k with clock := .holdover, clockSince := h.wtick }
    | _ => k
def execHoldoverExpiry (s : State) : Out :=
  happen s fun s => s.updHw fun h => h.updPkg fun k =>
    if k.clock = .holdover then { k with clock := .free, clockSince := h.wtick } else k

end Sys2Proof.Machine
end

