-- ==== Sys2Proof/Machine/EngineRun.lean ====
section
/-! DEFINITION. Engine commands start, move their data and complete, in the order of their queues (R287, R298, R305); publishes
reach the partition master and flip (R118) (notes/assumptions/16.md). -/
namespace Sys2Proof.Machine
open Sys2Proof

/-- The completion of a queue's command, after a free time. -/
def Hw.scheduleComplete (h : Hw) (slot q : Nat) : Hw :=
  (h.at (h.wtick + 1 + Config.freeLatency h.fresh) (.engineCommandComplete slot q)).used

/-! ### Embedding engines (R287, R298) -/

/-- The command in execution. -/
def Hw.embRunning (h : Hw) (slot e : Nat) : Option (Nat × EmbCmd) :=
  (embCores slot e).findSome? fun c => ((h.core c).eq.find? (·.started)).map fun x => (c, x)
/-- The next one: of the cores' heads the least issue tick, then the lower core; it starts when what fences order before it has
happened. -/
def Hw.embHead (h : Hw) (slot e : Nat) : Option (Nat × EmbCmd) :=
  let cand := (embCores slot e).filterMap fun c => (h.core c).eq.head?.map fun x => (c, x)
  (cand.foldl (fun best y => match best with
    | none => some y
    | some z => if y.2.issued < z.2.issued then some y else some z) none).filter fun x =>
      decide (x.2.issued < h.wtick) && h.clear x.2.strand x.2.afterSeq x.2.afterAcq x.2.after

/-! ### Starts -/

/-- The head of a queue when it can start. -/
def Hw.xHead (h : Hw) (slot q : Nat) : Option XCmd :=
  match ((h.die slot).queue q).cmds.head? with
  | none => none
  | some c =>
    if c.started ∨ h.clear c.strand c.afterSeq c.afterAcq c.after = false ∨ h.wtick ≤ c.issued then none
    else if xIsColl c.op then
      (match h.fab? c.part (collDesc c.desc).grp with
       | some f => if c.numbered ∧ (f.holds c.seq = false ∨ f.agent = .lost) then some c else none
       | none => some c)
    else some c

def Hw.updHead (h : Hw) (slot q : Nat) (f : XCmd → XCmd) : Hw :=
  h.updQueue slot q fun x => match x.cmds with | c :: t => { x with cmds := f c :: t } | [] => x

/-- The first of a die's GEMVs when it can start. -/
def Hw.gemvHead (h : Hw) (slot : Nat) : Option Gemv :=
  match (h.die slot).gemv with
  | g :: _ => if !g.started && h.clear g.strand g.afterSeq g.afterAcq g.after then some g else none
  | [] => none

/-- What can start at a queue number of a die now. -/
def Hw.engineReady (h : Hw) (slot q : Nat) : Bool :=
  h.healthy slot &&
    match Config.slotType slot with
    | .gs => decide (q < 2) && (h.embRunning slot q).isNone && (h.embHead slot q).isSome
    | .nb => if q = 15 then (h.gemvHead slot).isSome else (h.xHead slot q).isSome
    | _ => (h.xHead slot q).isSome

/-- The addresses in the list of a publish. -/
def listed (bs : List Byte) : List Nat := (List.range (bs.length / 8)).map fun i => leNat ((bs.drop (8 * i)).take 8)

/-- The error of the first entry of a publish that misses or has no pair (R310). -/
def Hw.publishFault (h : Hw) (exe : Nat) (vas : List Nat) : Option Nat :=
  vas.findSome? fun va => match (h.die exe).translate va with
    | .error x => some x
    | .ok (slot, _) => if ((h.die exe).brimAt slot).paired then none else some 0x0402

/-- A command begins to move its data after a free time. -/
def Hw.firstMove (h : Hw) (m : Moving) : Moving := { m with ready := h.wtick + 1 + Config.freeLatency h.fresh }
def Hw.beginMove (h : Hw) (slot q : Nat) (m : Moving) : Hw :=
  (h.updHead slot q fun c => { c with move := some (h.firstMove m) }).used

/-- A link of a chained copy opens its chain, or finds it open, or ends (R309). -/
def Hw.openChain (h : Hw) (slot q : Nat) (t : Tcw) : Hw :=
  if t.first then (h.updQueue slot q fun x => { x with chn := true, chkA := 0, chkB := 0 }).beginMove slot q {}
  else if ((h.die slot).queue q).chn then h.beginMove slot q {}
  else h.beginMove slot q { fault := some (0x0407, 0) }

/-- The first command of an X queue starts. -/
def State.xStart (s : State) (slot q : Nat) (c : XCmd) : State :=
  let s1 := s.updHw fun h => h.updHead slot q fun x => { x with started := true }
  let wait := fun (h : Hw) => h.updHead slot q fun x => { x with waiting := true }
  let t := tcwOf c.op c.b
  if xIsColl c.op then
    let now := c.pre ≠ 0 ∨ (collDesc c.desc).tstart ≤ s.hw.ftime
    s1.updHw fun h => if now then (wait h).soon (.collectiveStart slot q) else wait h
  else
    match c.op with
    | .copy | .fill => s1.updHw fun h => if t.len = 0 then h.soon (.engineCommandComplete slot q) else h.beginMove slot q {}
    | .csum => s1.updHw fun h => h.beginMove slot q {}
    | .copyc => s1.updHw fun h => h.openChain slot q t
    | .xstat => s1.updHw fun h =>
      h.beginMove slot q { segs := [(0, leBytes 32 ((h.die slot).queue (c.a.toNat % 16)).status)] }
    | .viewRd =>
      match s.hw.fab? c.part (c.a.toNat % 256) with
      | some f => s1.updHw fun h => h.beginMove slot q { segs := [(0, leBytes 64 f.record ++ f.bitmap t.len)] }
      | none => s1.updHw fun h => h.beginMove slot q { fault := some (0x0402, 0) }
    | .publish => s1.updHw fun h => h.beginMove slot q {}
    | .viewJoin =>
      match s.hw.fab? c.part (c.a.toNat % 256) with
      | some f =>
        if f.members.contains f.self then s1.updHw fun h => h.scheduleComplete slot q
        else s1.updHw fun h => (wait h).sendJoin c.part (c.a.toNat % 256)
      | none => s1.updHw fun h => h.scheduleComplete slot q
    | _ => s1.updHw fun h => h.scheduleComplete slot q

def execEngineCommandStart (slot : Nat) (queue : Nat) (s : State) : Out :=
  atSlot slot s fun s =>
    if s.hw.engineReady slot queue = false then s
    else
      match Config.slotType slot with
      | .gs =>
        match s.hw.embHead slot queue with
        | none => s
        | some (core, c) => s.updHw fun h => Hw.used (h.updCore core fun k =>
            { k with eq := k.eq.map fun x => if x.id = c.id then { x with started := true, move := some (h.firstMove {}) } else x })
      | t =>
        if t = .nb ∧ queue = 15 then
          s.updHw fun h => Hw.used (h.updDie slot fun d => { d with gemv := match d.gemv with
            | g :: r => { g with started := true, move := some (h.firstMove {}) } :: r
            | [] => [] })
        else
          match s.hw.xHead slot queue with
          | none => s
          | some c => s.xStart slot queue c

/-! ### Steps (R80, R95, R305) -/

/-- The sync word that a command reports to. -/
def XCmd.target (c : XCmd) : Option (Nat × Nat) :=
  let own := if c.core = 0 then none else some c.core
  if xIsColl c.op then reportTo (collDesc c.desc).rpt (collDesc c.desc).swo own (EngAddr.ofNat c.d.toNat)
  else reportTo (tcwOf c.op c.b).rpt (tcwOf c.op c.b).swo own (xDest c.op c.d.toNat)

/-- The bytes of a fill from an offset on (R306). -/
def fillBytes (v : W64) (off n : Nat) : List Byte := (List.range n).map fun i => v.extractLsb' (8 * ((off + i) % 8)) 8

/-- The record of a collective's command at its group. -/
def Hw.collOf (h : Hw) (c : XCmd) : Option (FabGroup × Coll) :=
  (h.fab? c.part (collDesc c.desc).grp).bind fun f => (f.colls.find? (·.cmd == c.id)).map fun k => (f, k)

/-- A publish reads its list, checks every entry, and sends the list to the partition master, with whose request it waits for its flip;
where no route leads there it waits for ever (R118, R310, R436). -/
def State.publishStep (s : State) (slot q : Nat) (c : XCmd) (m : Moving) (list : EngAddr) (own : Bool) : State :=
  let n := 8 * (c.a.toNat % 128)
  if m.next < n then s.copyStep slot q c m list none n 1 false none
  else if own then s
  else if m.begun = false then
    match s.hw.publishFault slot (listed m.data) with
    | some code => s.updHw fun h => h.failMove slot q c.id code 0
    | none => s.updHw fun h => (h.updMove slot q c.id fun m => { m with begun := true }).sendList c.part slot q c.id m.data
  else if (s.hw.route c.part slot (s.hw.master c.part)).isNone then s
  else s.updHw fun h =>
    (h.updHead slot q fun x => { x with waiting := true, move := none }).soon (.publishRequest c.part slot q (listed m.data))

/-- An X command takes one step: a read, a write, or, when a collective's input has been read, its send. -/
def State.xStep (s : State) (slot q : Nat) (c : XCmd) (m : Moving) : State :=
  let t := tcwOf c.op c.b
  let d := (EngAddr.ofNat c.d.toNat).getD (.virt 0)
  let a := (EngAddr.ofNat c.a.toNat).getD (.virt 0)
  let cls := clsOf t.cls
  let own := s.hw.transit.any (·.cmd == c.id)
  if xIsColl c.op then
    match s.hw.collOf c with
    | none => s
    | some (f, k) =>
      let n := k.d.inBytes k.op (f.issueMembers k.seq).length
      if m.begun then s.segStep slot q c m d 0 false none
      else if m.next < n then s.copyStep slot q c m a none n 0 false none
      else if own ∨ f.holds k.seq = true then s
      else s.updHw fun h => (h.collSend c.part f.num k.seq m.data).updHead slot q fun x => { x with move := none }
  else
    match c.op with
    | .copy | .copyc =>
      if t.len ≤ m.next then s.copyStep slot q c m a none (t.len + 4) cls false none
      else s.copyStep slot q c m a (some d) t.len cls t.sh (pieceReport c.op t c.target)
    | .csum =>
      if m.begun then s.segStep slot q c m d cls t.sh c.target
      else if m.next < t.len then s.copyStep slot q c m a none t.len cls false none
      else if own then s
      else s.updHw fun h => h.updMove slot q c.id fun m =>
        { m with begun := true, segs := [(0, leBytes 4 (sumWord (m.idx.getD 0 0, m.idx.getD 1 0)))] }
    | .fill =>
      s.putStep slot q c d m.next cls t.sh (fillBytes c.a m.next (Nat.min 1024 (t.len - m.next))) c.target false fun n m =>
        { m with next := m.next + n }
    | .xstat => s.segStep slot q c m d cls false c.target
    | .publish => s.publishStep slot q c m d own
    | _ => s.segStep slot q c m d 0 false c.target

/-- Whether an X command has nothing more to send. -/
def XCmd.allSent (c : XCmd) (m : Moving) : Bool :=
  match c.op with
  | .copy | .fill => decide ((tcwOf c.op c.b).len ≤ m.next)
  | .copyc => let t := tcwOf c.op c.b; decide (t.len + (if t.last then 4 else 0) ≤ m.next)
  | .publish => false
  | .viewRd | .xstat => m.segs.isEmpty
  | _ => m.begun && m.segs.isEmpty

/-- What a job of an engine does in a tick: a step; or, when it has sent all or has failed, and nothing of it is on its way, its end. -/
inductive Turn where
  | rest | step | finish
  deriving DecidableEq, Repr

def Hw.engTurn (h : Hw) (cmd : Nat) (m : Moving) (all : Bool) : Turn :=
  if m.closing then .rest
  else if m.fault.isSome || all then (if h.transit.any (·.cmd == cmd) then .rest else .finish)
  else if m.ready ≤ h.wtick then .step else .rest

/-- A command of which nothing is on its way any more completes at the next tick (R305). -/
def Hw.closeMove (h : Hw) (slot q cmd : Nat) : Hw :=
  (h.updMove slot q cmd fun m => { m with closing := true }).at (h.wtick + 1) (.engineCommandComplete slot q)

/-- The tick of an X queue. A collective whose input fails ends in error in its place (R314). -/
def State.xTick (s : State) (slot q : Nat) : State :=
  match ((s.hw.die slot).queue q).cmds.head? with
  | none => s
  | some c =>
    match c.move with
    | none => s
    | some m =>
      let all := c.allSent m && (!xIsColl c.op || (s.hw.collOf c).any fun x => x.2.closing)
      match s.hw.engTurn c.id m all with
      | .rest => s
      | .step => s.xStep slot q c m
      | .finish =>
        match m.fault with
        | some (code, key) =>
          if xIsColl c.op && !m.begun then
            s.updHw fun h => (h.collFail c.part (collDesc c.desc).grp c.seq code key).updHead slot q fun x => { x with move := none }
          else s.updHw fun h => h.closeMove slot q c.id
        | none => s.updHw fun h => h.closeMove slot q c.id

def State.embTick (s : State) (slot e : Nat) : State :=
  match s.hw.embRunning slot e with
  | none => s
  | some (core, c) =>
    match c.move with
    | none => s
    | some m =>
      match s.hw.engTurn c.id m (m.begun && decide (c.n ≤ m.next)) with
      | .rest => s
      | .step => s.embStep (s.hw.partOf slot) slot e core c m
      | .finish => s.updHw fun h => h.closeMove slot e c.id

def State.gemvTick (s : State) (slot : Nat) : State :=
  match (s.hw.die slot).gemv with
  | [] => s
  | g :: _ =>
    match g.move with
    | none => s
    | some m =>
      match s.hw.engTurn g.id m (m.begun && decide (g.m ≤ m.next)) with
      | .rest => s
      | .step => s.gemvStep (s.hw.partOf slot) slot g m
      | .finish => s.updHw fun h => h.closeMove slot 15 g.id

/-- A tick of the engines of a die. -/
def State.dieTick (s : State) (slot : Nat) : State :=
  match Config.slotType slot with
  | .gs => (s.embTick slot 0).embTick slot 1
  | _ => ((s.hw.die slot).queues.map (·.1)).foldl (fun (s : State) q => s.xTick slot q) (s.gemvTick slot)

/-- A tick of the engines and the seams, when what has arrived has landed: the beats are dealt, and each engine takes a step. -/
def State.engineTick (s : State) (runs : List Nat) : State := runs.foldl State.dieTick (s.updHw Hw.seamsMove)

/-! ### Completion (R305) -/

/-- Bytes that a command reports. -/
def xTotal (op : XOp) (t : Tcw) : Nat :=
  match op with
  | .copy | .copyc | .fill => t.len
  | .csum => 4
  | .viewRd => 64 + t.len
  | .xstat => 32
  | _ => 16

/-- The end of a link: a failure closes the chain, and the last link compares with the trailer that it has read (R309). -/
def State.chainEnd (s : State) (exe q : Nat) (c : XCmd) (fault : Option EngFault) : State × Option EngFault :=
  let t := tcwOf c.op c.b
  let x := (s.hw.die exe).queue q
  let shut : State := s.updHw fun h => h.updQueue exe q fun x => { x with chn := false }
  match fault with
  | some f => (shut, some f)
  | none =>
    if t.last = false then (s, none)
    else
      let a := ((EngAddr.ofNat c.a.toNat).getD (.virt 0)).plus t.len
      let w := match c.move with | some m => leNat m.data | none => 0
      (shut, if w = sumWord (x.chkA, x.chkB) then none else some { code := 0x0406, key := a.key })

/-- What a command other than a collective does at its end, and its error; none while it must still wait. -/
def State.xEffect (s : State) (exe q : Nat) (c : XCmd) : Option (State × Option EngFault) :=
  let t := tcwOf c.op c.b
  let a := (EngAddr.ofNat c.a.toNat).getD (.virt 0)
  let fault : Option EngFault := (c.move.bind (·.fault)).map fun f => { code := f.1, key := f.2 }
  match c.op with
  | .copyc => some (s.chainEnd exe q c fault)
  | .copy | .csum | .fill | .publish | .xstat | .viewRd => some (s, fault)
  | .prefetch => some (s.updHw fun h => h.prefetchRun exe a.key t.len, none)
  | .migr => let r := s.hw.migrRun exe a.key t.len (c.d == 1); some ({ s with hw := r.1 }, r.2)
  | _ => (s.viewRun c).map fun r => (r.1, if r.2 = 0 then none else some { code := r.2 })

/-- The queue's counters, and the departure of its first command (R305, R318) (notes/assumptions/41.md). -/
def XQueue.finish (x : XQueue) (code : Option Nat) : XQueue :=
  { x with
    cmds := x.cmds.tail, ndone := x.ndone + 1
    nerr := x.nerr + (if code.isSome then 1 else 0), lcode := match code with | some c => BitVec.ofNat 16 c | none => x.lcode }

/-- Where a command's last arrival sets out: the die of the destination's last byte (R100). -/
def Hw.destDie (h : Hw) (slot : Nat) (c : XCmd) (total : Nat) : Nat :=
  let a := if xIsColl c.op then EngAddr.ofNat c.d.toNat else xDest c.op c.d.toNat
  match a with
  | none => slot
  | some a =>
    match h.engPieces slot (a.plus (total - 1)) 1 .read false with
    | .ok ((p, _) :: _) => p.die.getD slot
    | _ => slot

/-- Bytes of data reported in pieces of at most 1 KiB (R305). -/
def Hw.reportData (h : Hw) (p src : Nat) (tgt : Option (Nat × Nat)) (n : Nat) : Hw :=
  (List.range ((n + 1023) / 1024)).foldl (fun (g : Hw) j => g.report p src tgt (Nat.min 1024 (n - 1024 * j)) none) h

/-- The end of an X command: what is left of its report, its group's error phase, its record, its node of a graph. `counted` bytes of
`total` are already reported, `landed` more are visible; the last link of a chain reports once. -/
def Hw.xFinish (h : Hw) (slot q : Nat) (c : XCmd) (counted landed total : Nat) (fault : Option EngFault) : Hw :=
  let code := fault.map (·.code)
  let coll := xIsColl c.op
  let t := tcwOf c.op c.b
  let cd := collDesc c.desc
  let src := h.destDie slot c total
  let g :=
    if (c.op == .copy || c.op == .fill) && t.len == 0 then h
    else if c.op == .copyc && t.last then h.report c.part src c.target total code
    else
      let g := h.reportData c.part src c.target landed
      match code with
      | none => g
      | some k => g.report c.part src c.target (total - counted - landed) (some k)
  let g := match fault with
    | some f => (g.recordFault slot f).barrierError c.part (if coll then some cd.grp else if t.ge then some t.grp else none) f.code
    | none => g
  let g := g.updQueue slot q fun x => x.finish code
  match c.ctx with
  | none => g
  | some i => g.updPkg fun k =>
    let x := k.graphs.get (Fin.ofNat 16 i)
    { k with graphs := k.graphs.set (Fin.ofNat 16 i) (if x.waiting then { x with outcome := some code.isNone } else x) }

/-- A collective whose end is on its way publishes, or ends in error (R274, R314, R315); its outputs are free bytes where its input has
been written up to now (R120). -/
def State.collComplete (s : State) (slot q : Nat) (c : XCmd) (f : FabGroup) (k : Coll) : State :=
  let outs := s.hw.collOuts f k
  let total := f.collTotal k outs
  let dst := (EngAddr.ofNat k.out.toNat).getD (.virt 0)
  let fin := fun (s : State) (landed : Nat) (fault : Option EngFault) =>
    let s := if s.hw.unsettled f k then s.undefRegion (outs.flatMap fun o => s.hw.regionKeys slot (dst.plus o.1) o.2.length) else s
    (s.restoreBlocks f k).updHw fun h =>
      (h.collPublished c.part f.num k outs fault.isNone).xFinish slot q c 0 landed total fault
  if k.err ≠ 0 then s.updHw fun h =>
    (h.collPublished c.part f.num k [] false).xFinish slot q c 0 0 total (some { code := k.err, key := k.errKey })
  else
    match c.move with
    | some m =>
      if m.closing = false then s
      else fin s (if outs = [] then 16 else m.counted) (m.fault.map fun x => { code := x.1, key := x.2 })
    | none => fin s 16 none

def State.xComplete (s : State) (slot q : Nat) : State :=
  match ((s.hw.die slot).queue q).cmds.head? with
  | none => s
  | some c =>
    if c.started = false then s
    else if xIsColl c.op then
      match s.hw.collOf c with
      | none => s
      | some (f, k) =>
        if k.closing = false then s
        else if f.canPublish k then s.collComplete slot q c f k
        else s.updHw fun h => h.updFab c.part f.num fun f => f.updColl k.seq fun k => { k with closing := false, ended := true }
    else if c.move.any (fun m => !m.closing) then s
    else
      match s.xEffect slot q c with
      | none => s
      | some (s1, fault) =>
        let total := xTotal c.op (tcwOf c.op c.b)
        let counted := match c.move with | some m => m.counted | none => 0
        let landed := if c.move.isNone && fault.isNone then total else 0
        s1.updHw fun h => h.xFinish slot q c counted landed total fault

def execEngineCommandComplete (slot : Nat) (queue : Nat) (s : State) : Out :=
  atSlot slot s fun s =>
    let p := s.hw.partOf slot
    let rec_ := fun (h : Hw) (f : Option (Nat × Nat)) => match f with
      | some x => h.recordFault slot { code := x.1, key := x.2 }
      | none => h
    match Config.slotType slot with
    | .gs =>
      match s.hw.embRunning slot queue with
      | none => s
      | some (core, c) =>
        let m := c.move.getD {}
        let rows := if c.pool = 0 then c.n else c.n / c.z
        s.updHw fun h =>
          (rec_ (h.reportEnd p slot (some (core, c.sync)) (rows * embRow c.table c.pool - m.counted) m.fault) m.fault).updCore core
            fun k => k.embEnd c m
    | t =>
      if t = .nb ∧ queue = 15 then
        match (s.hw.die slot).gemv with
        | [] => s
        | g :: _ =>
          if g.started = false then s
          else
            let m := g.move.getD {}
            s.updHw fun h =>
              (rec_ (h.reportEnd p (g.core / 32) (some (g.core, g.sync)) (4 * g.m - m.counted) m.fault) m.fault).updDie slot
                fun d => { d with gemv := d.gemv.tail }
      else s.xComplete slot queue

/-! ### Publish (R118) -/

/-- The master fixes a broadcast tick of its own for each request (notes/assumptions/69.md). -/
def execPublishRequest (part slot queue : Nat) (vas : List Nat) (s : State) : Out :=
  inPart part s fun s => s.updHw fun h =>
    let b := Nat.max (h.wtick + 48) ((h.part part).lastFlip + 1) + Config.freeLatency h.fresh
    ((h.used.updPart part fun q => { q with lastFlip := b }).at b (.publishFlip part slot queue vas))

/-- Flips the pair bits of entries, each once (notes/assumptions/49.md). -/
def Die.flip (d : Die) (vas : List Nat) : Die :=
  let slots := vas.filterMap fun va => match d.translate va with | .ok (i, _) => some i | .error _ => none
  { d with brim := d.brim.map fun x => if slots.contains x.1 && x.2.paired then (x.1, { x.2 with p := !x.2.p }) else x }

def execPublishFlip (part slot queue : Nat) (vas : List Nat) (s : State) : Out :=
  inPart part s fun s => s.updHw fun h =>
    ((h.diesOf part).foldl (fun g d => g.updDie d fun x => x.flip vas) h).at (h.wtick + 1) (.engineCommandComplete slot queue)

end Sys2Proof.Machine
end

