-- ==== Sys2Proof/Machine/Landing.lean ====
section
/-! DEFINITION. What lands: the timed writes due in a tick (R7, R82, R83, R137), the completions of untimed accesses
(R94, R95, R104-R116, R254), and the waits they satisfy (R28, R35, R40, R94, R100, R265). -/
namespace Sys2Proof.Machine
open Sys2Proof

/-! ### The order of a tick's landings -/

/-- Whether a pending write is due now, on its own clock. -/
def Hw.isDue (h : Hw) (p : Nat) (q : Pend) : Bool :=
  q.part == p && (if q.wall then decide (q.due ≤ h.wtick) else decide (q.due ≤ (h.part p).pclk))

/-- Acts that sample their sources after the starts of a tick, not writes. -/
def PendAct.samples : PendAct → Bool
  | .tileHead _ _ _ _ | .rowEnter _ _ _ _ | .rowWork _ _ _ _ _ _ _ | .isect _ _ _ | .timedRead _ _ _ => true
  | _ => false

/-- The place of a write among the landings of a tick: arrays and queues, the progress record after them, scratchpad writes in
port order (R83), registers in issue order (R137), reads of registers on their way out, and divergences; none for what does
not land here. What is read at its landing, an atomic's old value or a progress record, becomes a register write. -/
def PendAct.rank : PendAct → Option Nat
  | .leaseTo _ _ | .hold _ _ | .so _ _ _ _ _ | .isectFree _ _ | .embTable _ _ _ _ => some 0
  | .chunk _ _ _ _ _ _ _ | .latentLand _ _ _ | .rowLand _ _ _ _ _ _ _ _ _ | .rowSet _ _ _ _ _ | .cmdDone _ _ _ => some 0
  | .replayEnd _ _ _ => some 0
  | .mprog _ _ _ => some 1
  | .store _ port _ _ | .swset _ port _ _ | .atomic _ port _ _ _ _ _ _ => some (2 + port)
  | .scatter _ _ _ _ _ _ => some 6
  | .timedLand _ _ _ _ => some 7
  | .x _ _ _ _ | .v _ _ _ _ _ | .k _ _ _ | .b _ _ _ _ | .flags _ _ | .isectLand _ _ _ _ _ _ => some 8
  | .vstRead _ _ _ _ _ _ _ | .sendRow _ _ _ => some 9
  | .havoc _ _ => some 10
  | .lining _ _ _ _ => some 11
  | _ => none

/-! ### One landing -/

/-- Each byte's 8 bits set where the mask holds. -/
def spreadBytes (k : BitVec 1024) : BitVec 8192 :=
  BitVec.ofNat 8192 (packNat 8 ((List.range 1024).map fun n => if maskBit k n then 255 else 0))

def VecReg.land (v : VecReg) (data : BitVec 32768) (slots : BitVec 1024) (tag : Option Tag) : VecReg :=
  { tag := tag.getD v.tag, data := merge v.data data slots }

/-- A write that follows another, on the same clock. -/
def Hw.follow (h : Hw) (q : Pend) (lat : Nat) (a : PendAct) : Hw :=
  { h with pend := h.pend ++ [{ q with due := q.due + lat, act := a }] }

/-- A strand that took a bundle abort in this tick. -/
def Strand.abortedNow (st : Strand) (w : Nat) : Bool := st.sup && st.cause == Cause.bundle && st.notBefore == w + 2

/-- Strand k takes the lining trap at the group that wrote the diverging result, with the other groups of its bundle aborted: each
member at its group (R29, R409). A second member whose result diverges in the same tick records its own cause. -/
def Hw.liningTrap (h : Hw) (k : Nat) (pc : W64) (info : Nat) (mates : List (Nat × W64)) : Hw :=
  let g := h.record (slotOf k) 2 0x0A 0 0 (some info)
  if (g.strand k).abortedNow g.wtick then
    g.updStrand k fun st => { st with cause := Cause.lining, info := BitVec.ofNat 16 info, clu := BitVec.ofNat 2 (clusterOf k) }
  else
    let g := (g.updStrand k fun st => { st with pc := pc }).trapOf k { cause := Cause.lining, info := info }
    if mates = [] then g
    else
      let g : Hw := { g with pend := g.pend.filter fun q => match q.act with | .lining _ _ _ ms => ms != mates | _ => true }
      mates.foldl (fun (g : Hw) x => g.updStrand x.1 fun st =>
        if x.1 = k then { st with bnd := true }
        else if st.status == .running && st.mode == .kernel then
          { ({ st with pc := x.2 }.enterTrap g.wtick x.1 { cause := Cause.bundle, info := info }) with
            clu := BitVec.ofNat 2 (clusterOf k), bnd := true }
        else st) g

/-- The read and the write of a scratchpad atomic, at one tick (R82, R173); its old value is a register write of the same
tick, in its place in issue order. -/
def State.atomicLand (s : State) (q : Pend) (core off n : Nat) (op : AtomOp) (y cmp : Nat)
    (dest : Option (Nat × Bool × XReg)) : State :=
  let k := spadKey core off
  let old := Memory.readNat s.mem k n
  let s1 : State := { mem := Memory.writeBytes s.mem k (leBytes n (atomNew op n old y cmp)), hw := s.hw.stored k n }
  match dest with
  | none => s1
  | some (strand, sup, r) => s1.updHw fun h => h.follow q 0 (.x strand sup r (BitVec.ofNat 64 old))

/-- A `swset` becomes visible: a store of both double words, in which GEN keeps its bits (R99). -/
def State.swsetLand (s : State) (core off target : Nat) : State :=
  let k := spadKey core off
  { mem := Memory.writeBytes s.mem k (leBytes 4 0 ++ Memory.readBytes s.mem (k + 4) 4 ++ leBytes 4 0 ++ leBytes 4 target)
    hw := s.hw.stored k 16 }

/-- What a due write does. -/
def State.land (s : State) (q : Pend) : State :=
  match q.act with
  | .x strand sup r val =>
    s.updHw fun h => h.updStrand strand fun st => st.setBank sup ((st.bankOf sup).writeX r val)
  | .v strand r data slots tag =>
    s.updHw fun h => h.updStrand strand fun st => { st with v := st.v.set r ((st.v.get r).land data slots tag) }
  | .k strand r val => s.updHw fun h => h.updStrand strand fun st => { st with k := st.k.set r val }
  | .b strand r data bytes =>
    s.updHw fun h => h.updStrand strand fun st =>
      let m := spreadBytes bytes
      { st with b := st.b.set r ((st.b.get r &&& ~~~ m) ||| (data &&& m)) }
  | .flags strand bits => s.updHw fun h => h.updStrand strand fun st => { st with flags := st.flags ||| bits }
  | .store core _ off bytes =>
    { mem := Memory.writeBytes s.mem (spadKey core off) bytes, hw := s.hw.stored (spadKey core off) bytes.length }
  | .swset core _ off target => s.swsetLand core off target
  | .atomic core _ off n op y cmp dest => s.atomicLand q core off n op y cmp dest
  | .vstRead strand r kib core port off n =>
    s.updHw fun h => h.follow q 3 (.store core port off (regBytes ((h.strand strand).v.get r).data (1024 * kib) n))
  | .scatter core base items flt limit strand => s.scatterLand core base items flt limit strand
  | .sendRow strand r row => s.updHw fun h => h.sendRow strand r row
  | .mprog strand sup dest => s.updHw fun h => h.follow q 0 (.x strand sup dest (h.mprogValue strand))
  | .leaseTo core st => s.updHw fun h => h.leaseTo core st
  | .hold part n => s.updHw fun h => h.holdFor part n
  | .so strand word params xa xb =>
    s.updHw fun h => h.updDie (slotOf strand) fun d => d.configure strand word params xa xb
  | .isectFree core id => s.updHw fun h => h.updCore core fun c => { c with iq := c.iq.filter (·.id != id) }
  | .isectLand _ strand sup dest val fl =>
    s.updHw fun h => h.updStrand strand fun st =>
      { st.setBank sup ((st.bankOf sup).writeX dest val) with flags := st.flags ||| fl }
  | .embTable core _ t et => s.updHw fun h => h.updCore core fun c => { c with et := c.et.set (Fin.ofNat 8 t.toNat) et }
  | .chunk slot arr id bs off bytes _ => s.updHw fun h => h.landChunk slot arr id bs off bytes
  | .latentLand slot arr desc => s.updHw fun h => h.updArr slot arr fun a => { a with latent := some desc }
  | .rowLand slot arr core id i op ys cnt sh => s.updHw fun h => h.landRow slot arr core id i op ys cnt sh
  | .rowSet slot arr row tag data => s.updHw fun h => h.putRow slot arr row { tag := tag, data := data }
  | .cmdDone slot arr id => s.updHw fun h => h.dropCmd slot arr id
  | .replayEnd slot arr id => s.updHw fun h => h.replayEnd slot arr id
  | .timedLand part id j data => s.timedLand part id j data
  | .havoc core n =>
    if hasSpad (core * 4) then s.poke (spadKey core 0) ((List.range Config.spadSize).map (Config.freeByte n)) else s
  | .lining strand pc info mates => s.updHw fun h => h.liningTrap strand pc info mates
  | _ => s

/-- The due writes of a partition at one place land, in issue order. -/
def State.landRank (part : Nat) (s : State) (r : Nat) : State :=
  let now := fun (q : Pend) => q.act.rank == some r && s.hw.isDue part q
  let due := (s.hw.pend.filter now).foldl (fun l q => insertPend q l) []
  due.foldl State.land { s with hw := { s.hw with pend := s.hw.pend.filter fun q => !now q } }

/-- Every timed write of a partition that is due lands: by its place, and in issue order within it. -/
def execTimedWriteLanding (part : Nat) (s : State) : Out :=
  inPart part s fun s => (List.range 12).foldl (State.landRank part) s

/-! ### Sampling -/

/-- The acts of a tick that sample: panel tiles, A rows, rows of the other array commands, bitmap words, KiBs of timed
copies. -/
def Hw.sample (m : Memory) (h : Hw) (a : PendAct) : Hw :=
  match a with
  | .tileHead slot arr id q => h.enterTile m slot arr id q
  | .rowEnter slot arr id i => h.enterRow m slot arr id i
  | .rowWork slot arr core id i op sc => h.workRow m slot arr core id i op sc
  | .isect core id j => h.isectSample m core id j
  | .timedRead p id j => h.timedRead m p id j
  | _ => h

def Hw.sampleDue (m : Memory) (h : Hw) : Hw :=
  let now := fun (q : Pend) => q.act.samples && h.isDue q.part q
  (h.pend.filter now).foldl (fun g q => g.sample m q.act) { h with pend := h.pend.filter fun q => !now q }

/-! ### Untimed accesses complete (R92-R95, R105, R116, R176, R254) -/

/-- The die whose bank records an error of a piece. -/
def Place.slot (d : Nat) : Place → Nat
  | .mem (some s) _ => s
  | _ => d

/-- The error that ends a read: the first of its pieces that fails at its die, or holds a word that cannot be read. -/
def Hw.accessError (h : Hw) (p src : Nat) (ps : List (Place × Nat)) : Option Nat := ps.findSome? (h.readError p src)

/-- Words met by a read that it cannot recover are poisoned and recorded (R400, R403). -/
def Hw.recordPieces (h : Hw) (p src : Nat) (ps : List (Place × Nat)) : Hw :=
  ps.foldl (fun (g : Hw) x =>
    if h.readError p src x = some 0x0403 then g.unreadable (x.1.slot src) (unitOfKey x.1.key) (x.1.key % 2 ^ 60) x.1.key x.2 else g) h

/-- What a read of pieces finds in the words that it reads (R400-R403), and the ticks that it is late by. -/
def Hw.scanPieces (h : Hw) (p src : Nat) (ps : List (Place × Nat)) : Hw × Nat :=
  ps.foldl (fun (r : Hw × Nat) x =>
    match x.1 with
    | .mem (some d) k =>
      if (h.pieceFails p src x.1).isSome then r
      else let y := r.1.untimedScan d (unitOfKey k) k x.2; (y.1, Nat.max r.2 y.2)
    | _ => r) (h, 0)

/-- A store that fails is recorded with its virtual address (R95, R411). -/
def Hw.recordDropped (h : Hw) (src va code : Nat) : Hw := h.record src 2 0x0C va code none

def Hw.dropUntimed (h : Hw) (u : Untimed) : Hw :=
  ({ h with untimed := h.untimed.filter (·.id != u.id) }).updStrand u.strand fun st =>
    { st with fencedW := st.fencedW.filter (· != u.id), fencedR := st.fencedR.filter (· != u.id) }

/-- An untimed access is over: it leaves, and its token counts down, with its error. -/
def Hw.tokenEnd (h : Hw) (u : Untimed) (code : Option Nat) : Hw :=
  h.updStrand u.strand fun st => st.updToken u.sup u.tok fun t => t.complete code

/-- The lines that a global panel load has read: counted through the tables that translated them (R384), with FB dies kept awake
(R394). -/
def Hw.panelTouch (h : Hw) (s : PanelSrc) (ls : List (Nat × Nat)) (ps : List (Place × Nat)) : Hw :=
  ((ls.take ps.length).foldl (fun (g : Hw) l => g.updDie (h.panelLine s l.1).1 fun d => d.touch l.1 l.2) h).touchFar ps

/-- Whether a piece lies with a remote owner. -/
def Place.isRemote : Place → Bool
  | .remote _ _ _ => true
  | _ => false

/-- A global panel load ends: its later pages are translated now; its bytes fill the slot, whose tiles are checked. Where it fails, or a
tile does, the token takes a code and the slot becomes invalid; R265 has no code for the tile (notes/assumptions/80.md). A
remote owner may not answer within 100 µs (R389). -/
def State.panelEnd (s : State) (u : Untimed) (slot arr id : Nat) (op : ArrOp) : State × Option Untimed :=
  let p := s.hw.partOf slot
  match op with
  | .mbld _ bs addr t lt nt bytes _ _ =>
    let c := s.hw.cmd? slot arr id
    let n := match c with | some c => c.tiles | none => 0
    let src := s.hw.panelSrc slot addr (c.bind (·.first))
    let ls := lines addr (s.hw.panelBytes s.mem src n addr t bytes)
    let r := s.hw.panelRun src ls
    let read := r.1 ++ r.2.1
    let limit := usTicks s.hw.pkg.mode 100
    let fail := fun (h : Hw) (c : Nat) =>
      (((h.updSlot slot arr bs fun b => { b with valid := false }).spoilSlot slot arr bs).dropCmd slot arr id).tokenEnd u (some c)
    match u.code with
    | some c => (s.updHw fun h => fail h c, none)
    | none =>
      if (read.any fun x => x.1.isRemote) ∧ limit < Config.freeLatency s.hw.fresh then
        (s.updHw Hw.used, some { u with code := some 0x0404, due := s.hw.wtick + limit })
      else
        let scan := s.hw.scanPieces p src.nb read
        if scan.2 ≠ 0 then ({ s with hw := scan.1 }, some { u with due := s.hw.wtick + scan.2 })
        else
          let s := s.updHw fun _ => (scan.1.recordPieces p src.nb read).panelTouch src ls read
          match r.2.2 with
          | some c => (s.updHw fun h => fail h c, none)
          | none =>
            let data := readPieces s.mem r.1
            let b : BSlot := BSlot.write { tag := t, lt := lt, nt := nt, valid := true } 0 data
            if t = tF4 ∧ (b.failing n 0 data.length).isSome = true then
              (s.updHw fun h => fail h.used (Config.freeNat h.fresh % 2 ^ 16), none)
            else
              (s.updHw fun h =>
                (((h.updSlot slot arr bs fun _ => b).spoilSlot slot arr bs).dropCmd slot arr id).tokenEnd u none, none)
  | _ => (s, none)

/-! ### Accesses piece by piece, element by element (R32, R95, R102) -/

/-- The lines of an access, with those that `pick` names read now and the others as they were. -/
def takeLines (m : Memory) (pick : Nat → Bool) (j : Nat) (ps : List (Place × Nat)) (old : List Byte) : List Byte :=
  match ps with
  | [] => []
  | (pl, n) :: t =>
    (if pick j then Memory.readBytes m pl.key n else old.take n) ++ takeLines m pick (j + 1) t (old.drop n)

/-- Lines are written: of each one the elements that `pick` gives it, if any. -/
def State.storeLines (s : State) (pick : Nat → Option Nat) (j i : Nat) (ps : List (Place × Nat)) (bs : List Byte) : State :=
  match ps with
  | [] => s
  | (pl, n) :: t =>
    let s1 : State := match pick j with
      | none => s
      | some mask => { mem := Memory.writeSome s.mem pl.key (bs.take n) i mask, hw := s.hw.stored pl.key n }
    State.storeLines s1 pick (j + 1) (i + n) t (bs.drop n)

def linesWhere (ps : List (Place × Nat)) (f : Nat → Bool) : List (Place × Nat) := (ps.zipIdx.filter fun x => f x.2).map (·.1)
def maskOf (n : Nat) (f : Nat → Bool) : Nat := ((List.range n).map fun j => if f j then 2 ^ j else 0).sum
/-- All elements of a register. -/
def allElems : Nat := 2 ^ 1024 - 1

/-- Elements of what an access loads reach its register. -/
def Hw.landElems (h : Hw) (u : Untimed) (mask : Nat) (last : Bool) : Hw :=
  match u.op with
  | .load dest n sgn => h.updStrand u.strand fun st =>
    let b := st.bankOf u.sup
    let sel : W64 := (if mask.testBit 0 then 0xFFFFFFFF else 0) ||| (if mask.testBit 1 then 0xFFFFFFFF00000000 else 0)
    st.setBank u.sup (b.writeX dest ((b.readX dest &&& ~~~ sel) ||| (extend n sgn (leNat u.data) &&& sel)))
  | .atomic dest _ _ _ _ => h.updStrand u.strand fun st =>
    let b := st.bankOf u.sup
    let sel : W64 := (if mask.testBit 0 then 0xFFFFFFFF else 0) ||| (if mask.testBit 1 then 0xFFFFFFFF00000000 else 0)
    st.setBank u.sup (b.writeX dest ((b.readX dest &&& ~~~ sel) ||| (BitVec.ofNat 64 (leNat u.data) &&& sel)))
  | .vload dest tag => h.updStrand u.strand fun st =>
    { st with v := st.v.set dest ((st.v.get dest).land (BitVec.ofNat 32768 (leNat u.data)) (BitVec.ofNat 1024 mask)
        (if last then some tag else none)) }
  | _ => h

/-- The elements of a load's destination that are there a tick before the others: in a strict partition any set of them (R32); in a
queued one any rows of a vector register, while a scalar register is written at once (R94). -/
def Hw.earlyElems (h : Hw) (u : Untimed) : Nat :=
  let f := Config.freeNat h.fresh
  if h.strictOf (h.partOf (slotOf u.strand)) then f % 2 ^ 1024
  else
    match u.op with
    | .vload _ _ => ((List.range 16).map fun i => if f.testBit i then (2 ^ 64 - 1) * 2 ^ (64 * i) else 0).sum
    | _ => 0

/-- A load has all its lines: a free set of its elements lands, and a tick later all of it (R32, R94); or it fails, and its destination
stays as it was (R95). -/
def State.loaded (s : State) (u : Untimed) (p : Nat) (code : Option Nat) : State × Option Untimed :=
  match code with
  | some c => (s.updHw fun h => (h.recordPieces p (slotOf u.strand) u.pieces).tokenEnd u (some c), none)
  | none => (s.updHw fun h => (h.landElems u (h.earlyElems u) false).used, some { u with begun := true, left := some allElems })

/-- A load or an atomic. Some of its lines reach their dies in one tick and the others in the next, each judged there; what the reads
find in them may make them late (R401, R402). -/
def State.loadPass (s : State) (u : Untimed) (p src : Nat) : State × Option Untimed :=
  match u.left with
  | some mask => (s.updHw fun h => (h.landElems u mask true).tokenEnd u none, none)
  | none =>
    let split := u.begun = false ∧ 1 < u.pieces.length
    let early := if u.begun then u.early else Config.freeNat s.hw.fresh
    let now := fun (j : Nat) => if split then early.testBit j else !(u.begun && early.testBit j)
    let scan := s.hw.scanPieces p src (linesWhere u.pieces now)
    if scan.2 ≠ 0 then ({ s with hw := scan.1 }, some { u with due := s.hw.wtick + scan.2 })
    else
      let h := scan.1
      let s : State := { s with hw := h }
      let code := match u.code with | some c => some c | none => h.accessError p src (linesWhere u.pieces now)
      if split then
        (s.updHw Hw.used, some { u with
          begun := true, early := early, code := code
          data := takeLines s.mem now 0 u.pieces (List.replicate (piecesLen u.pieces) 0) })
      else
        let data := takeLines s.mem now 0 u.pieces u.data
        let s1 := match u.op, code with
          | .atomic _ n op y cmp, none => s.writePieces p src u.pieces (leBytes n (atomNew op n (leNat data) y cmp))
          | _, _ => s
        s1.loaded { u with data := data } p code

/-- A store: some of its lines reach their dies in one tick, the others in the next; of the first, a free set of elements is
visible at once and the others a tick later. A scalar is visible at once (R102). What fails is dropped and recorded (R95). -/
def State.storePass (s : State) (u : Untimed) (p src : Nat) (data : List Byte) : State × Option Untimed :=
  let h := s.hw
  let n := u.pieces.length
  let fails := fun (j : Nat) => (u.pieces[j]?.bind fun x => h.pieceFails p src x.1).isSome
  let first := fun (now : Nat → Bool) => (linesWhere u.pieces now).findSome? fun x => h.pieceFails p src x.1
  let i := u.va % 4
  if u.begun = false ∧ 1 < n then
    let early := Config.freeNat h.fresh
    let mask := Config.freeNat (h.fresh + 1) % 2 ^ 1025
    ((s.storeLines (fun j => if early.testBit j && !fails j then some mask else none) 0 i u.pieces data).updHw fun h => h.used.used,
      some { u with
        begun := true, early := early, dropped := maskOf n fun j => early.testBit j && fails j, code := first early.testBit
        left := some (2 ^ 1025 - 1 - mask) })
  else
    let was := fun (j : Nat) => u.begun && u.early.testBit j
    let code := match u.code with | some c => some c | none => first fun j => !was j
    let pick := fun (j : Nat) =>
      if was j then (if u.dropped.testBit j then none else u.left) else if fails j then none else some (2 ^ 1025 - 1)
    ((s.storeLines pick 0 i u.pieces data).updHw fun h =>
      (match code with | some c => h.recordDropped src u.va c | none => h).tokenEnd u code, none)

/-- What an untimed access does when it can complete: its effect, and the access as it goes on in the next tick, where it does
(notes/assumptions/4.md). -/
def State.untimedPass (s : State) (u : Untimed) : State × Option Untimed :=
  let src := slotOf u.strand
  let p := s.hw.partOf src
  match u.op with
  | .load _ _ _ | .vload _ _ | .atomic _ _ _ _ _ => s.loadPass u p src
  | .store data => s.storePass u p src data
  | .afence _ => (s.updHw fun h => h.tokenEnd u (u.pieces.findSome? fun x => match x.1 with | .fail c => some c | _ => none), none)
  | .panel slot arr id op => s.panelEnd u slot arr id op
  | .arrival part grp team phase =>
    (if s.hw.untimed.any fun x => x.id != u.id && x.op == u.op then s
     else s.updHw fun h => h.carry part src (h.master part) (.barrierArrival part grp team phase), none)

/-- An untimed access that can complete now (R106). -/
def Hw.canComplete (h : Hw) (u : Untimed) : Bool :=
  decide (u.due ≤ h.wtick) && h.clear u.strand u.afterSeq u.afterAcq u.after

def execUntimedCompletion (id : Nat) (s : State) : Out :=
  happen s fun s =>
    match s.hw.untimed.find? (·.id == id) with
    | none => s
    | some u =>
      if s.hw.canComplete u then
        let r := s.untimedPass u
        r.1.updHw fun h => (match r.2 with
          | none => h.dropUntimed u
          | some v => { h with untimed := h.untimed.map fun (x : Untimed) =>
              if x.id = id then { v with due := Nat.max v.due (s.hw.wtick + 1) } else x }).touchFar u.pieces
      else s

/-- The promotion tick of an asymmetric fence: releases at die scope issued on its die hold at partition scope from now on
(R116). -/
def execAfencePromotion (_strand _tok slot : Nat) (s : State) : Out :=
  atSlot slot s fun s => s.updHw fun h =>
    { h with strands := h.strands.map fun x => if slotOf x.1 = slot then (x.1, { x.2 with dieReleases := 0 }) else x }

/-! ### Waits (R40, R94, R100, R178-R189, R265) -/

def execTokenWaitSatisfied (strand : Nat) (s : State) : Out :=
  happen s fun s => s.updHw fun h =>
    match (h.strand strand).wait with
    | .token k => if ((h.strand strand).token (h.strand strand).sup k).pend = 0 then h.tokenDone strand k else h
    | _ => h

def execSyncWaitSatisfied (strand : Nat) (s : State) : Out :=
  happen s fun s => s.updHw fun h =>
    match (h.strand strand).wait with
    | .sync off g => if syncMet s.mem h strand off g then h.syncTest strand off else h
    | _ => h

/-- A drain is satisfied; in a stub, commands that a pre-emption keeps in the array queue are saved with it and do not hold it
(R263, R372). -/
def Hw.settled (h : Hw) (k : Nat) : Bool :=
  h.drainedBut k && ((h.core (coreOf k)).aq.isEmpty ||
    (h.strand k).stub && Config.slotType (slotOf k) == .mx && h.arrayParked (slotOf k) (arrOf (coreOf k)))

def execDrainSatisfied (strand : Nat) (s : State) : Out :=
  happen s fun s => s.updHw fun h =>
    match (h.strand strand).wait with
    | .drain => if h.settled strand then h.drainDone strand .drain else h
    | .retire => if h.settled strand then h.drainDone strand .retire else h
    | _ => h

/-- A time wait whose value is reached. -/
def Hw.timeMet (h : Hw) (strand : Nat) : Bool :=
  match (h.strand strand).wait with
  | .ftime v => decide (v ≤ h.ftime)
  | .wtick v => decide (v.toNat ≤ h.wtick)
  | _ => false

def execTimeWaitSatisfied (strand : Nat) (s : State) : Out :=
  happen s fun s => s.updHw fun h => if h.timeMet strand then h.updStrand strand fun st => st.goOn h.wtick else h

/-! ### Space blocks (R38, R40, R50, R350) -/

/-- How many blocked requesters the resource that a strand is blocked on can take now, by the INFO that names it (R363);
credits for n rows are 0x1_0000 + n. -/
def Hw.room (h : Hw) (strand res : Nat) : Nat :=
  let c := h.core (coreOf strand)
  let st := h.strand strand
  let slot := slotOf strand
  if 0x10000 ≤ res then
    (match (h.die slot).routeFrom (endpointOf strand) with
     | none => 1
     | some r => (decide (res - 0x10000 ≤ h.credits slot r)).toNat)
  else if res = 0xFFFF then 8 - c.aq.length
  else if res = 0xFFFE then 4 - c.iq.length
  else if res = 0xFFFD then 8 - c.eq.length
  else if 0xFFF0 ≤ res then 63 - (st.token st.sup (Fin.ofNat 8 (res - 0xFFF0))).pend
  else if res % 16 = 15 then 16 - (h.die (res / 16)).gemv.length
  else (queueDepth (res / 16) (res % 16)).getD 0 - ((h.die (res / 16)).queue (res % 16)).cmds.length

def Hw.hasRoom (h : Hw) (strand res : Nat) : Bool := decide (0 < h.room strand res)

/-- Who shares a resource: a team its queues, everyone an engine's queue, a strand its tokens and its port. -/
def shareOf (strand res : Nat) : Nat × Nat :=
  (res, if 0xFFFD ≤ res ∧ res ≤ 0xFFFF then coreOf strand else if 0xFFF0 ≤ res then strand else 0)

/-- A space-blocked strand goes on: its group issues again, ahead of the others (R350). -/
def execSpaceBlockRelease (strand : Nat) (s : State) : Out :=
  happen s fun s => s.updHw fun h =>
    match (h.strand strand).wait with
    | .space _ res =>
      if h.hasRoom strand res then { (h.updStrand strand fun st => { st with wait := .none }) with todo := h.todo ++ [strand] }
      else h
    | _ => h

/-! ### Issuing and the sync rendezvous (R26-R28) -/

/-- A strand that can issue now: placed and running, not waiting, past its trap or go, not frozen, in a schedule tick unless it
is inside a trap (R34, R359, R376). -/
def Hw.canIssue (h : Hw) (k : Nat) : Bool :=
  let st := h.strand k
  let p := h.part (h.partOf (slotOf k))
  st.status == .running && decide (st.wait = .none) && decide (st.notBefore ≤ h.wtick) && st.held.isNone && !p.frozen &&
    (p.live || st.inTrap)

/-- The lock-step members of a strand's team, whatever they do now. -/
def Hw.members (h : Hw) (k : Nat) : List Nat :=
  ([0, 1, 2, 3].map fun c => coreOf k * 4 + c).filter fun j =>
    (h.strand j).status != .idle && (h.core (coreOf j)).syncmask.getLsbD (clusterOf j)

/-- The S bit of the word at a strand's program counter (R140). -/
def nextSync (m : Memory) (h : Hw) (k : Nat) : Bool := groupSync (codeWord m h k) (h.strand k).pc.toNat

/-- A member that stands before an S = 1 word and can issue it, or waits at the rendezvous. -/
def Hw.ready (m : Memory) (h : Hw) (k : Nat) : Bool :=
  h.member k && (h.canIssue k || ((h.strand k).wait == .rendezvous && !(h.part (h.partOf (slotOf k))).frozen)) && nextSync m h k

/-- Members wait at the rendezvous of a core and every member is ready. -/
def Hw.rendezvousMet (m : Memory) (h : Hw) (core : Nat) : Bool :=
  let ms := h.members (core * 4)
  ms.any (fun k => (h.strand k).wait == .rendezvous) && ms.all (Hw.ready m h)

/-- The rendezvous of a core is complete: its members issue their bundle in this tick. -/
def execSyncRendezvous (core : Nat) (s : State) : Out :=
  happen s fun s => s.updHw fun h =>
    if h.rendezvousMet s.mem core then
      (h.members (core * 4)).foldl (fun g k => g.updStrand k fun st =>
        { st with wait := if st.wait = .rendezvous then .none else st.wait }) h
    else h

end Sys2Proof.Machine
end

