-- ==== Sys2Proof/Machine/Barriers.lean ====
section
/-! DEFINITION. The barriers of team groups and fabric groups at the partition master (R43-R45, R339). The arrival of a
fabric rank, which says that the rank has reached its count, is an arrival of index 384 + rank (notes/assumptions/27.md). -/
namespace Sys2Proof.Machine
open Sys2Proof

def Part.group? (p : Part) (g : Nat) : Option GroupEntry := p.groups.find? (·.num == g)
def Hw.updGroup (h : Hw) (p g : Nat) (f : GroupEntry → GroupEntry) : Hw :=
  h.updPart p fun q => { q with groups := q.groups.map fun e => if e.num = g then f e else e }

/-- The release of a team with a status reaches its die 48 ticks later (R44, notes/assumptions/12.md). -/
def Hw.releaseTeam (h : Hw) (p g team : Nat) (phase : BitVec 16) (err : Bool) (code : BitVec 16) : Hw :=
  h.at (h.wtick + 48) (.barrierRelease p g team phase.toNat err code.toNat)

/-- complete(err, code) of R44. -/
def Hw.completeGroup (h : Hw) (p g : Nat) (err : Bool) (code : BitVec 16) : Hw :=
  match (h.part p).group? g with
  | none => h
  | some e =>
    let h1 := h.updGroup p g fun e =>
      { e with err := err, code := code, count := 0, phase := e.phase + 1, waiting := []
               ready := e.ready.filter fun x => x % 65536 != e.phase.toNat }
    e.waiting.foldl (fun (h : Hw) t => h.releaseTeam p g t (e.phase + 1) err code) h1

/-- Where a rank's arrival at a fabric group stands in `ready`. -/
def readyMark (rank : Nat) (phase : BitVec 16) : Nat := rank * 65536 + phase.toNat

/-- A fabric group's phase completes when every member of the current view has reached its count (R339). -/
def Hw.fabricMet (h : Hw) (p g : Nat) : Bool :=
  match (h.part p).group? g, h.fab? p g with
  | some e, some f => f.members != [] && f.members.all fun r => e.ready.contains (readyMark r e.phase)
  | _, _ => false

def Hw.tryFabric (h : Hw) (p g : Nat) : Hw := if h.fabricMet p g then h.completeGroup p g false 0 else h

/-- A rank's report that it has reached its count. -/
def Hw.rankArrives (h : Hw) (p g rank : Nat) (phase : BitVec 16) : Hw :=
  (h.updGroup p g fun e => { e with ready := insertRank (readyMark rank phase) e.ready }).tryFabric p g

/-- An arrival of a team (R44). -/
def Hw.teamArrives (h : Hw) (p g team : Nat) (phase : BitVec 16) : Hw :=
  match (h.part p).group? g with
  | none => h
  | some e =>
    if phase ≠ e.phase then h.releaseTeam p g team e.phase e.err e.code
    else
      let h1 := h.updGroup p g fun e => { e with count := e.count + 1, waiting := e.waiting ++ [team] }
      if e.count + 1 ≠ e.target then h1
      else if e.fabric = false then h1.completeGroup p g false 0
      else
        match h.fab? p g with
        | none => h1
        | some f =>
          (h1.sendAll p g (f.members.filter (· != f.self)) fun q => .barrierArrival q g (384 + f.self) e.phase.toNat).rankArrives
            p g f.self e.phase

def execBarrierArrival (part grp team phase : Nat) (s : State) : Out :=
  inPart part s fun s => s.updHw fun h =>
    if 384 ≤ team then h.rankArrives part grp (team - 384) (BitVec.ofNat 16 phase)
    else h.teamArrives part grp team (BitVec.ofNat 16 phase)

/-- The error phase of R45; of several codes of one tick the lowest is the one applied. -/
def execBarrierErrorCompletion (part grp code : Nat) (s : State) : Out :=
  inPart part s fun s => s.updHw fun h => h.completeGroup part grp true (BitVec.ofNat 16 code)

/-- The core on which a team is placed. -/
def Hw.teamCore (h : Hw) (p team : Nat) : Option Nat :=
  (h.cores.find? fun c => h.partOf (c.1 / 32) == p && (match c.2.team with | some (cls, i) => linearTeam cls i == team | none => false)).map
    (·.1)

/-- A release reaches its team: the local phase, the status, and the end of the waits on it (R44, R184). It is an acquire: in strict
mode, where the arrivals did not wait for scratchpad stores, the team's later untimed work does (R107, R109). -/
def execBarrierRelease (part grp team phase : Nat) (err : Bool) (code : Nat) (s : State) : Out :=
  inPart part s fun s => s.updHw fun h =>
    match h.teamCore part team with
    | none => h
    | some core =>
      let h1 := h.updCore core fun c => c.updGrp grp fun g =>
        { g with phase := BitVec.ofNat 16 phase, pending := false, err := err, code := BitVec.ofNat 16 code }
      [0, 1, 2, 3].foldl (fun (h : Hw) c =>
        let h := if h.strictOf part then h.updStrand (core * 4 + c) fun st => { st with acqSeq := h1.seq } else h
        match (h.strand (core * 4 + c)).wait with
        | .barrier g d => if g = grp then h.barrierDone (core * 4 + c) g d else h
        | _ => h) h1

end Sys2Proof.Machine
end

