-- ==== Sys2Proof/Machine/Crypto.lean ====
section
/-! DEFINITION. The algorithms of the standards that verified boot and attestation name (R9, R414, R415, R420): SHA-384 and SHA-512
(FIPS 180-4), Ed25519 (RFC 8032), SHAKE (FIPS 202) and the verification of ML-DSA-65 (FIPS 204). Their texts are those of the
standards, not of the manual (notes/assumptions/10.md). -/
namespace Sys2Proof.Machine
open Sys2Proof

/-! ### Numbers and bytes -/

def natOfBE (bs : List Byte) : Nat := bs.foldl (fun a b => a * 256 + b.toNat) 0
def bytesBE (n v : Nat) : List Byte := ((List.range n).map fun i => BitVec.ofNat 8 (v / 256 ^ i)).reverse
def natOfLE (bs : List Byte) : Nat := natOfBE bs.reverse
def bytesLE (n v : Nat) : List Byte := (List.range n).map fun i => BitVec.ofNat 8 (v / 256 ^ i)

/-- b^e mod m, for exponents below 2^k. -/
def powMod (k b e m : Nat) : Nat :=
  match k with
  | 0 => 1 % m
  | k + 1 =>
    let r := powMod k (b * b % m) (e / 2) m
    if e % 2 = 1 then r * b % m else r

/-- The greatest x below 2^k, beside those bits that `acc` has, with x^n at most v. -/
def rootOf (n v k acc : Nat) : Nat :=
  match k with
  | 0 => acc
  | k + 1 => rootOf n v k (if (acc + 2 ^ k) ^ n ≤ v then acc + 2 ^ k else acc)

/-! ### SHA-384 and SHA-512 -/

def primeNat (n : Nat) : Bool := decide (2 ≤ n) && (List.range n).all fun d => decide (d < 2) || n % d != 0
/-- The first 80 primes. -/
def primes80 : List Nat := (List.range 410).filter primeNat
/-- The first 64 bits of the fraction of the n-th root of a prime. -/
def rootFrac (n p : Nat) : Nat := rootOf n (p * 2 ^ (64 * n)) 72 0 % 2 ^ 64
def shaK : List Nat := primes80.map (rootFrac 3)
def iv512 : List Nat := (primes80.take 8).map (rootFrac 2)
def iv384 : List Nat := ((primes80.drop 8).take 8).map (rootFrac 2)

def rotr64 (x n : Nat) : Nat := (x / 2 ^ n + x * 2 ^ (64 - n)) % 2 ^ 64
def shaSum0 (x : Nat) : Nat := Nat.xor (Nat.xor (rotr64 x 28) (rotr64 x 34)) (rotr64 x 39)
def shaSum1 (x : Nat) : Nat := Nat.xor (Nat.xor (rotr64 x 14) (rotr64 x 18)) (rotr64 x 41)
def shaSig0 (x : Nat) : Nat := Nat.xor (Nat.xor (rotr64 x 1) (rotr64 x 8)) (x / 2 ^ 7)
def shaSig1 (x : Nat) : Nat := Nat.xor (Nat.xor (rotr64 x 19) (rotr64 x 61)) (x / 2 ^ 6)

/-- n more words of the message schedule; `w` has the newest first. -/
def shaSchedule (n : Nat) (w : List Nat) : List Nat :=
  match n with
  | 0 => w
  | n + 1 => shaSchedule n ((shaSig1 (w.getD 1 0) + w.getD 6 0 + shaSig0 (w.getD 14 0) + w.getD 15 0) % 2 ^ 64 :: w)

/-- One round on the eight working words. -/
def shaRound (s : List Nat) (kw : Nat × Nat) : List Nat :=
  match s with
  | [a, b, c, d, e, f, g, h] =>
    let ch := Nat.xor (Nat.land e f) (Nat.land (2 ^ 64 - 1 - e) g)
    let maj := Nat.xor (Nat.xor (Nat.land a b) (Nat.land a c)) (Nat.land b c)
    let t := h + shaSum1 e + ch + kw.1 + kw.2
    [(t + shaSum0 a + maj) % 2 ^ 64, a, b, c, (d + t) % 2 ^ 64, e, f, g]
  | _ => s

def shaBlock (hs : List Nat) (block : List Byte) : List Nat :=
  let w0 := (List.range 16).map fun i => natOfBE ((block.drop (8 * i)).take 8)
  let w := (shaSchedule 64 w0.reverse).reverse
  (hs.zip ((shaK.zip w).foldl shaRound hs)).map fun x => (x.1 + x.2) % 2 ^ 64

def shaBlocks (n : Nat) (hs : List Nat) (bs : List Byte) : List Nat :=
  match n with
  | 0 => hs
  | n + 1 => shaBlocks n (shaBlock hs (bs.take 128)) (bs.drop 128)

def sha2 (iv : List Nat) (bs : List Byte) : List Byte :=
  let pad := (239 - bs.length % 128) % 128
  let m := bs ++ [0x80] ++ List.replicate pad 0 ++ bytesBE 16 (8 * bs.length)
  (shaBlocks (m.length / 128) iv m).flatMap (bytesBE 8)

def sha512 (bs : List Byte) : List Byte := sha2 iv512 bs
def sha384 (bs : List Byte) : List Byte := (sha2 iv384 bs).take 48

/-! ### Ed25519 -/

def edP : Nat := 2 ^ 255 - 19
def edL : Nat := 2 ^ 252 + 27742317777372353535851937790883648493
def edInv (x : Nat) : Nat := powMod 256 x (edP - 2) edP
def edSub (a b : Nat) : Nat := (a + edP - b) % edP
def edD : Nat := edSub 0 (121665 * edInv 121666 % edP)

/-- A point in extended coordinates. -/
structure EdPoint where
  x : Nat
  y : Nat
  z : Nat
  t : Nat
  deriving DecidableEq, Repr

def EdPoint.add (p q : EdPoint) : EdPoint :=
  let a := edSub p.y p.x * edSub q.y q.x % edP
  let b := (p.y + p.x) * (q.y + q.x) % edP
  let c := p.t * 2 * edD * q.t % edP
  let d := p.z * 2 * q.z % edP
  let e := edSub b a
  let f := edSub d c
  let g := (d + c) % edP
  let h := (b + a) % edP
  { x := e * f % edP, y := g * h % edP, z := f * g % edP, t := e * h % edP }

/-- s times a point, for s below 2^k. -/
def EdPoint.mul (k s : Nat) (p : EdPoint) : EdPoint :=
  match k with
  | 0 => { x := 0, y := 1, z := 1, t := 0 }
  | k + 1 =>
    let r := EdPoint.mul k (s / 2) (p.add p)
    if s % 2 = 1 then r.add p else r

def EdPoint.same (p q : EdPoint) : Bool :=
  p.x * q.z % edP == q.x * p.z % edP && p.y * q.z % edP == q.y * p.z % edP

/-- The x coordinate that belongs to a y and a sign. -/
def edRecover (y sign : Nat) : Option Nat :=
  if edP ≤ y then none
  else
    let v := edSub (y * y % edP) 1 * edInv ((edD * (y * y) + 1) % edP) % edP
    if v = 0 then (if sign = 1 then none else some 0)
    else
      let x0 := powMod 256 v ((edP + 3) / 8) edP
      let x := if x0 * x0 % edP = v then x0 else x0 * powMod 256 2 ((edP - 1) / 4) edP % edP
      if x * x % edP ≠ v then none else some (if x % 2 = sign then x else edP - x)

def edBase : EdPoint :=
  let y := 4 * edInv 5 % edP
  let x := (edRecover y 0).getD 0
  { x := x, y := y, z := 1, t := x * y % edP }

def EdPoint.encode (p : EdPoint) : List Byte :=
  let zi := edInv p.z
  bytesLE 32 (p.y * zi % edP + p.x * zi % edP % 2 * 2 ^ 255)

def edDecode (bs : List Byte) : Option EdPoint :=
  let n := natOfLE (bs.take 32)
  let y := n % 2 ^ 255
  (edRecover y (n / 2 ^ 255)).map fun x => { x := x, y := y, z := 1, t := x * y % edP }

/-- The secret scalar of a seed. -/
def edScalar (h : List Byte) : Nat := natOfLE (h.take 32) % 2 ^ 254 / 8 * 8 + 2 ^ 254

def edPublic (seed : List Byte) : List Byte := (EdPoint.mul 256 (edScalar (sha512 seed)) edBase).encode

def edSign (seed msg : List Byte) : List Byte :=
  let h := sha512 seed
  let pk := edPublic seed
  let r := natOfLE (sha512 (h.drop 32 ++ msg)) % edL
  let rp := (EdPoint.mul 256 r edBase).encode
  let k := natOfLE (sha512 (rp ++ pk ++ msg)) % edL
  rp ++ bytesLE 32 ((r + k * edScalar h) % edL)

/-- Pure Ed25519, by the equation with the cofactor. -/
def edVerify (pk msg sig : List Byte) : Bool :=
  match edDecode pk, edDecode sig with
  | some a, some r =>
    let s := natOfLE ((sig.drop 32).take 32)
    let k := natOfLE (sha512 (sig.take 32 ++ pk.take 32 ++ msg)) % edL
    decide (s < edL) && pk.length == 32 && sig.length == 64 &&
      (EdPoint.mul 4 8 (EdPoint.mul 256 s edBase)).same (EdPoint.mul 4 8 (r.add (EdPoint.mul 256 k a)))
  | _, _ => false

/-! ### SHAKE -/

def keccakRC : List Nat :=
  [0x1, 0x8082, 0x800000000000808A, 0x8000000080008000, 0x808B, 0x80000001, 0x8000000080008081, 0x8000000000008009, 0x8A, 0x88,
   0x80008009, 0x8000000A] ++
  [0x8000808B, 0x800000000000008B, 0x8000000000008089, 0x8000000000008003, 0x8000000000008002, 0x8000000000000080, 0x800A,
   0x800000008000000A, 0x8000000080008081, 0x8000000000008080, 0x80000001, 0x8000000080008008]
/-- Rotations of the lanes, lane (x, y) at x + 5y. -/
def keccakRot : List Nat :=
  [0, 1, 62, 28, 27, 36, 44, 6, 55, 20, 3, 10, 43, 25, 39, 41, 45, 15, 21, 8, 18, 2, 61, 56, 14]

def rotl64 (x n : Nat) : Nat := (x * 2 ^ n + x / 2 ^ (64 - n)) % 2 ^ 64

def keccakRound (s : List Nat) (rc : Nat) : List Nat :=
  let at_ := fun (l : List Nat) (x y : Nat) => l.getD (x % 5 + 5 * (y % 5)) 0
  let c := (List.range 5).map fun x => (List.range 5).foldl (fun a y => Nat.xor a (at_ s x y)) 0
  let d := (List.range 5).map fun x => Nat.xor (c.getD ((x + 4) % 5) 0) (rotl64 (c.getD ((x + 1) % 5) 0) 1)
  let t := (List.range 25).map fun i => rotl64 (Nat.xor (s.getD i 0) (d.getD (i % 5) 0)) (keccakRot.getD i 0)
  -- lane (x, y) of the next state comes from lane (x + 3y, x)
  let b := (List.range 25).map fun i => at_ t (i % 5 + 3 * (i / 5)) (i % 5)
  (List.range 25).map fun i =>
    let x := i % 5
    let y := i / 5
    let v := Nat.xor (at_ b x y) (Nat.land (2 ^ 64 - 1 - at_ b (x + 1) y) (at_ b (x + 2) y))
    if i = 0 then Nat.xor v rc else v

def keccakF (s : List Nat) : List Nat := keccakRC.foldl keccakRound s

def absorb (n rate : Nat) (s : List Nat) (bs : List Byte) : List Nat :=
  match n with
  | 0 => s
  | n + 1 =>
    let blk := bs.take rate
    let s1 := (List.range 25).map fun i => Nat.xor (s.getD i 0) (natOfLE ((blk.drop (8 * i)).take 8))
    absorb n rate (keccakF s1) (bs.drop rate)

def squeeze (n rate : Nat) (s : List Nat) : List Byte :=
  match n with
  | 0 => []
  | n + 1 => (s.flatMap (bytesLE 8)).take rate ++ squeeze n rate (keccakF s)

/-- n bytes of SHAKE with a rate in bytes: 168 for SHAKE128, 136 for SHAKE256. -/
def shake (rate : Nat) (bs : List Byte) (n : Nat) : List Byte :=
  let pad := rate - 1 - bs.length % rate
  let m := if pad = 0 then bs ++ [0x9F] else bs ++ [0x1F] ++ List.replicate (pad - 1) 0 ++ [0x80]
  (squeeze (n / rate + 1) rate (absorb (m.length / rate) rate (List.replicate 25 0) m)).take n

/-! ### ML-DSA-65 -/

def mlQ : Nat := 8380417
def mlGamma1 : Nat := 2 ^ 19
def mlGamma2 : Nat := (mlQ - 1) / 32

/-- A polynomial: 256 coefficients modulo q. -/
abbrev Poly : Type := List Nat

def revBits (k n : Nat) : Nat :=
  match k with
  | 0 => 0
  | k + 1 => n % 2 * 2 ^ k + revBits k (n / 2)

/-- The powers of the 512th root of unity 1753. -/
def mlPower (e : Nat) : Nat := powMod 9 1753 (e % 512) mlQ
def mlPowers : List Nat := (List.range 512).map mlPower
def horner (x : Nat) (f : Poly) : Nat := f.foldr (fun c a => (a * x + c) % mlQ) 0
/-- The transform: values at the odd powers of the root, in bit-reversed order. -/
def mlNtt (f : Poly) : Poly := (List.range 256).map fun i => horner (mlPower (2 * revBits 8 i + 1)) f
def mlInv (g : Poly) : Poly :=
  let ps := mlPowers.toArray
  (List.range 256).map fun j =>
    ((g.zipIdx.map fun x => x.1 * ps.getD ((512 - (2 * revBits 8 x.2 + 1) * j % 512) % 512) 0).sum * 8347681) % mlQ
def polyMul (f g : Poly) : Poly := (f.zip g).map fun x => x.1 * x.2 % mlQ
def polyAdd (f g : Poly) : Poly := (f.zip g).map fun x => (x.1 + x.2) % mlQ
def polySub (f g : Poly) : Poly := (f.zip g).map fun x => (x.1 + mlQ - x.2) % mlQ

/-- n fields of w bits. -/
def unpackBits (w n : Nat) (bs : List Byte) : List Nat :=
  let v := natOfLE bs
  (List.range n).map fun i => v / 2 ^ (w * i) % 2 ^ w

/-- The coefficients that a stream of bytes gives in the transform's domain, 3 bytes for each candidate. -/
def rejNtt (n : Nat) (bs : List Byte) : Poly :=
  (((List.range n).map fun i => natOfLE ((bs.drop (3 * i)).take 3) % 2 ^ 23).filter fun v => decide (v < mlQ)).take 256

/-- Enough of a stream for 256 coefficients: `fuel` tries, each of twice the bytes. -/
def rejPoly (fuel n : Nat) (seed : List Byte) : Poly :=
  let f := rejNtt n (shake 168 seed (3 * n))
  match fuel with
  | 0 => f
  | k + 1 => if f.length = 256 then f else rejPoly k (2 * n) seed

def mlMatrix (rho : List Byte) (r s : Nat) : Poly := rejPoly 64 336 (rho ++ [BitVec.ofNat 8 s, BitVec.ofNat 8 r])

/-- The challenge: positions drawn from a stream, with 64 sign bits. -/
def ballStep (signs : Nat) (i : Nat) (bs : List Byte) (c : Poly) : Poly × List Byte :=
  let rest := bs.dropWhile fun b => decide (i < b.toNat)
  match rest with
  | [] => (c, [])
  | j :: t => ((c.set i (c.getD j.toNat 0)).set j.toNat (if signs / 2 ^ (i - 207) % 2 = 1 then mlQ - 1 else 1), t)

def ballFrom (signs n i : Nat) (bs : List Byte) (c : Poly) : Poly × List Byte :=
  match n with
  | 0 => (c, bs)
  | n + 1 =>
    let r := ballStep signs i bs c
    if r.2 = [] then (r.1, []) else ballFrom signs n (i + 1) r.2 r.1

def sampleBall (fuel n : Nat) (ct : List Byte) : Poly :=
  let bs := shake 136 ct n
  let r := ballFrom (natOfLE (bs.take 8)) 49 207 (bs.drop 8) (List.replicate 256 0)
  match fuel with
  | 0 => r.1
  | k + 1 => if r.2 = [] then sampleBall k (2 * n) ct else r.1

/-- The hint: for each of 6 polynomials the positions, rising; none where the encoding is not the only one. -/
def unpackHint (bs : List Byte) : Option (List (List Nat)) :=
  let ends := (bs.drop 55).map (·.toNat)
  let pos := (bs.take 55).map (·.toNat)
  let last := ends.getD 5 0
  let parts := (List.range 6).map fun i =>
    let a := if i = 0 then 0 else ends.getD (i - 1) 0
    (pos.drop a).take (ends.getD i 0 - a)
  let rising := fun (l : List Nat) => (l.zip (l.drop 1)).all fun x => decide (x.1 < x.2)
  let okEnds := ((0 :: ends).zip ends).all fun x => decide (x.1 ≤ x.2)
  if okEnds = true ∧ last ≤ 55 ∧ parts.all rising = true ∧ (pos.drop last).all (· == 0) = true then some parts else none

/-- The high part of a coefficient, corrected where the hint says so. -/
def useHint (hint : Bool) (r : Nat) : Nat :=
  let a := 2 * mlGamma2
  let low := if r % a ≤ mlGamma2 then (r % a : Int) else (r % a : Int) - a
  let top := (r : Int) - low = mlQ - 1
  let r1 := if top then 0 else (((r : Int) - low) / a).toNat
  let r0 := if top then low - 1 else low
  if hint = false then r1 else if 0 < r0 then (r1 + 1) % 16 else (r1 + 15) % 16

/-- ML-DSA-65 verification of a message with an empty context. -/
def mlVerify (pk msg sig : List Byte) : Bool :=
  let rho := pk.take 32
  let t1 := (List.range 6).map fun i => unpackBits 10 256 ((pk.drop (32 + 320 * i)).take 320)
  let ct := sig.take 48
  let zs := (List.range 5).map fun i => unpackBits 20 256 ((sig.drop (48 + 640 * i)).take 640)
  match unpackHint (sig.drop 3248) with
  | none => false
  | some hs =>
    let small := zs.all fun z => z.all fun v => decide (196 < v) && decide (v < 2 * mlGamma1 - 196)
    let zHat := zs.map fun z => mlNtt (z.map fun v => (mlGamma1 + mlQ - v) % mlQ)
    let mu := shake 136 (shake 136 pk 64 ++ [0, 0] ++ msg) 64
    let cHat := mlNtt (sampleBall 64 256 ct)
    let w1 := (List.range 6).map fun r =>
      let az := (zHat.zipIdx).foldl (fun a z => polyAdd a (polyMul (mlMatrix rho r z.2) z.1)) (List.replicate 256 0)
      let ct1 := polyMul cHat (mlNtt ((t1.getD r []).map fun v => v * 2 ^ 13 % mlQ))
      (mlInv (polySub az ct1)).zipIdx.map fun x => useHint ((hs.getD r []).contains x.2) x.1
    let packed := w1.flatMap fun f => (List.range 128).map fun i => BitVec.ofNat 8 (f.getD (2 * i) 0 + 16 * f.getD (2 * i + 1) 0)
    pk.length == 1952 && sig.length == 3309 && small && ct == shake 136 (mu ++ packed) 48

end Sys2Proof.Machine
end

