-- ==== Sys2Proof/Machine/Tiers.lean ====
section
/-! DEFINITION. The system walker and the brim load (R378-R387), access counters (R384), remote owners (R388, R389), host
accesses (R393, R411, R419, R425), table rewrites (R395), migration between tiers (R396), self-refresh (R394). -/
namespace Sys2Proof.Machine
open Sys2Proof

/-! ### The walker (R385) -/

/-- An 8-byte word of a walk, read at a launch address. Where the walker holds another value of it in its caches, which of
the two it uses the manual leaves open (R385): a free choice for each word (notes/assumptions/51.md). -/
def State.walkWord (s : State) (p slot a : Nat) : Option W64 :=
  match s.readLaunchNat p a 8 with
  | none => none
  | some v =>
    match (s.hw.die slot).wcache.find? (·.1 == a) with
    | some (_, old) => some (if (Config.freeByte s.hw.fresh a).toNat % 2 = 0 then old else BitVec.ofNat 64 v)
    | none => some (BitVec.ofNat 64 v)

/-- What a walk finds: nothing there, the launch address of a descriptor, or why it ends: 0x0601 for a word that cannot be
read, 0x060A for one that breaks its layout; and the words read, for the caches. -/
inductive WalkEnd where
  | absent
  | desc (a : Nat)
  | refuse (code : Nat)
  deriving DecidableEq, Repr

def State.walk (s : State) (p slot : Nat) (k lvl a : Nat) (seen : List (Nat × W64)) : WalkEnd × List (Nat × W64) :=
  let ea := a + 8 * (k / 512 ^ lvl % 512)
  match s.walkWord p slot ea with
  | none => (.refuse 0x0601, seen)
  | some w =>
    let e := w.toNat
    if e % 2 = 0 then (.absent, seen)
    else
      match lvl with
      | 0 => if e / 2 % 16 ≠ 0 then (.refuse 0x060A, seen) else (.desc (e - 1), seen ++ [(ea, w)])
      | l + 1 => if e / 2 % 2048 ≠ 0 then (.refuse 0x060A, seen) else State.walk s p slot k l (e - 1) (seen ++ [(ea, w)])

/-- A page descriptor as its four double words. -/
structure PageDesc where
  d0 : W64
  d1 : W64
  d2 : W64
  d3 : W64
  deriving DecidableEq, Repr

def State.readDesc (s : State) (p slot a : Nat) : Option PageDesc :=
  match s.walkWord p slot a, s.walkWord p slot (a + 8), s.walkWord p slot (a + 16), s.walkWord p slot (a + 24) with
  | some w0, some w1, some w2, some w3 => some ⟨w0, w1, w2, w3⟩
  | _, _, _, _ => none

def PageDesc.words (d : PageDesc) (a : Nat) : List (Nat × W64) := [(a, d.d0), (a + 8, d.d1), (a + 16, d.d2), (a + 24, d.d3)]

def PageDesc.entry (d : PageDesc) (a : Nat) : BrimEntry :=
  { frame0 := d.d0, frame1 := d.d1, paired := d.d2.getLsbD 3, p := d.d2.getLsbD 2, w := d.d2.getLsbD 1, r := d.d2.getLsbD 0
    desc := a }

/-- The limits of R382 on a frame of a page of n bytes. -/
def Hw.frameOk (h : Hw) (ilv : List Nat) (f n : Nat) : Bool :=
  let addr := f % 2 ^ 52
  let slot := f / 2 ^ 52 % 64
  let il := f / 2 ^ 58 % 4
  let names := fun (t : DieType) => h.healthy slot && Config.slotType slot == t
  match f / 2 ^ 60 with
  | 1 =>
    il != 3 && addr % n == 0 &&
      (if il = 0 then names .nb && decide (addr + n ≤ Config.hbmSize)
       else slot == 0 && decide (addr + n ≤ ilv.length * Config.hbmSize))
  | 2 => il == 0 && names .fb && addr % n == 0 && decide (addr + n ≤ Config.farSize)
  | 3 => il == 0 && slot == 0 && addr % n == 0
  | 4 => il == 0 && (names .nb || names .gs || names .sw) && addr % n == 0 &&
      decide (addr + n ≤ Config.sramSize (Config.slotType slot))
  | _ => false

/-- The checks of R386 on a descriptor. -/
def Hw.descOk (h : Hw) (ilv : List Nat) (d : PageDesc) (n : Nat) : Bool :=
  let f0 := d.d0.toNat
  let paired := d.d2.getLsbD 3
  d.d3 == 0 && d.d2.toNat / 16 == 0 && (paired || !d.d2.getLsbD 2) &&
    (if f0 / 2 ^ 60 = 5 then
      !paired && f0 / 2 ^ 52 % 256 == 0 && f0 % 2 ^ 29 == 0 && d.d1.toNat / 2 ^ 56 == 0
    else h.frameOk ilv f0 n && (if paired then h.frameOk ilv d.d1.toNat n else d.d1 == 0))

/-! ### The brim image (R378, R379, R386) -/

/-- A region entry from its four double words; none where a must-be-zero bit is set. -/
def regionOf (w0 w1 w2 w3 : Nat) : Option Region :=
  if w3 ≠ 0 ∨ w1 / 2 ^ 52 ≠ 0 ∨ w1 % 2 ^ 12 ≠ 0 ∨ w2 / 2 ^ 40 % 2 ^ 23 ≠ 0 ∨ w2 / 2 ^ 28 % 2 ^ 7 ≠ 0 ∨ w2 / 2 ^ 13 % 8 ≠ 0 then none
  else
    some { v := w2 / 2 ^ 63 % 2 == 1, root := BitVec.ofNat 64 w0, rbase := w1 / 2 ^ 12 % 2 ^ 40, ps := w2 / 2 ^ 38 % 4
           geo := w2 / 2 ^ 35 % 8, sbase := w2 / 2 ^ 16 % 2 ^ 12, scnt := w2 % 2 ^ 13 }

def Region.pageSize (r : Region) : Nat := 2 ^ pageBits r.ps

/-- R379 on one entry. -/
def Region.ok (r : Region) : Bool :=
  !r.v || (decide (1 ≤ r.geo) && decide (r.geo ≤ 5) && decide (1 ≤ r.scnt) && decide (r.scnt ≤ 2 ^ (9 * r.geo)) &&
    decide (r.sbase + r.scnt ≤ 4096) && r.rbase * 4096 % r.pageSize == 0 &&
    decide (r.rbase * 4096 + r.scnt * r.pageSize ≤ 2 ^ 52) && r.root.toNat % 4096 == 0)

/-- No two defined regions share a slot. -/
def regionsApart (rs : List Region) : Bool :=
  match rs with
  | [] => true
  | r :: t =>
    (t.all fun q => !(r.v && q.v && decide (r.sbase < q.sbase + q.scnt) && decide (q.sbase < r.sbase + r.scnt))) && regionsApart t

structure BrimImage where
  wci : Bool
  ctr : W64
  ilv : List Nat
  regions : List Region
  deriving DecidableEq, Repr

def le (bs : List Byte) (off n : Nat) : Nat := leNat ((bs.drop off).take n)

/-- A brim image that passes its own checks; the codes of R386 otherwise. -/
def State.brimImage (s : State) (p a : Nat) : Except Nat BrimImage :=
  match s.readLaunch p a 576 with
  | none => .error 0x0601
  | some bs =>
    let w0 := le bs 0 8
    let n := le bs 0x10 1
    let all := (List.range 8).map fun i => le bs (0x18 + i) 1
    let ilv := all.take n
    let regs := (List.range 16).map fun i =>
      let o := 0x40 + 32 * i
      regionOf (le bs o 8) (le bs (o + 8) 8) (le bs (o + 16) 8) (le bs (o + 24) 8)
    let rs := regs.map fun r => r.getD {}
    if w0 % 2 ^ 16 ≠ 1 ∨ w0 / 2 ^ 17 ≠ 0 ∨ le bs 0x11 7 ≠ 0 ∨ (all.drop n).any (· != 0) = true ∨ le bs 0x20 32 ≠ 0 ∨
        regs.any Option.isNone = true ∨ rs.all Region.ok = false ∨ regionsApart rs = false ∨ n = 0 ∨ 8 < n ∨
        ilv.all (fun d => s.hw.inPartition p d && Config.slotType d == .nb) = false ∨ decide ilv.Nodup = false then .error 0x060A
    else .ok { wci := w0 / 2 ^ 16 % 2 == 1, ctr := BitVec.ofNat 64 (le bs 8 8), ilv := ilv, regions := rs }

/-- A die's staging table, and what its walker read; the first refusal in slot order. -/
def State.stage (s : State) (p slot : Nat) (im : BrimImage) : Except Nat (List (Nat × BrimEntry) × List (Nat × W64)) :=
  im.regions.foldl (fun acc r =>
    if r.v = false then acc
    else
      (List.range r.scnt).foldl (fun acc k =>
        match acc with
        | .error c => .error c
        | .ok (tab, seen) =>
          match s.walk p slot k (r.geo - 1) r.root.toNat seen with
          | (.refuse c, _) => .error c
          | (.absent, seen) => .ok (tab, seen)
          | (.desc a, seen) =>
            match s.readDesc p slot a with
            | none => .error 0x0601
            | some d =>
              if s.hw.descOk im.ilv d r.pageSize then
                .ok (amSet tab (r.sbase + k) (d.entry a), d.words a ++ seen)
              else .error 0x060A) acc) (.ok ([], []))

/-- The tables that a load would install on every die of a partition, or its refusal. -/
def State.stageAll (s : State) (p : Nat) (im : BrimImage) : Except Nat (List (Nat × List (Nat × BrimEntry) × List (Nat × W64))) :=
  let s1 := if im.wci then s.updHw fun h => (h.diesOf p).foldl (fun g d => g.updDie d fun x => { x with wcache := [] }) h else s
  (s.hw.diesOf p).foldr (fun d acc =>
    match s1.stage p d im with
    | .error c => .error c
    | .ok t => match acc with | .error c => .error c | .ok ts => .ok ((d, t) :: ts)) (.ok [])

def cacheAll (c : List (Nat × W64)) (seen : List (Nat × W64)) : List (Nat × W64) :=
  seen.foldl (fun c x => x :: c.filter (·.1 != x.1)) c

/-- Whether a load rewrites the region file or the interleave table (R395) (notes/assumptions/52.md). -/
def Hw.rewrites (h : Hw) (p : Nat) (im : BrimImage) : Bool :=
  (h.diesOf p).any fun d => (h.die d).regions.toList != im.regions || (h.die d).ilv != im.ilv

/-- Every die installs its tables at one tick; a rewrite is a new generation. -/
def Hw.install (h : Hw) (p : Nat) (im : BrimImage) (ts : List (Nat × List (Nat × BrimEntry) × List (Nat × W64))) : Hw :=
  let new := h.rewrites p im
  ts.foldl (fun (g : Hw) t => g.updDie t.1 fun d =>
    { d with
      regions := Vector.ofFn fun i => im.regions.getD i.val {}
      ilv := im.ilv, brim := t.2.1, ctrAddr := im.ctr, tgen := if new then d.tgen + 1 else d.tgen
      wcache := cacheAll (if im.wci then [] else d.wcache) t.2.2 }) h.used

/-- Without a brim image the tables stay and the counters are 0 again. -/
def Hw.resetCounters (h : Hw) (p : Nat) : Hw :=
  (h.diesOf p).foldl (fun g d => g.updDie d fun x => { x with brim := x.brim.map fun e => (e.1, { e.2 with count := 0 }) }) h

/-- A die writes its access counters (R384) (notes/assumptions/58.md). -/
def State.writeCounters (s : State) (p slot : Nat) : State :=
  let d := s.hw.die slot
  if d.ctrAddr = 0 then s
  else s.writeLaunch p (d.ctrAddr.toNat + 16384 * slot) ((List.range 4096).flatMap fun i => leBytes 4 (d.brimAt i).count)

/-! ### Remote owners (R388, R389) -/

/-- The walk that an owner makes for an incoming request: the entry and the offset in its page, or a code; and the words read, which
the caches then hold, however the walk ended (R385). -/
def State.ownerWalk (s : State) (p slot va : Nat) : Except Nat (BrimEntry × Nat) × List (Nat × W64) :=
  let r := (s.hw.die slot).regions.get (Fin.ofNat 16 (va / 2 ^ 52))
  let off := va % 2 ^ 52 - r.rbase * 4096
  if 2 ^ 56 ≤ va ∨ r.v = false ∨ va % 2 ^ 52 < r.rbase * 4096 ∨ r.scnt * r.pageSize ≤ off then (.error 0x0401, [])
  else
    match s.walk p slot (off / r.pageSize) (r.geo - 1) r.root.toNat [] with
    | (.desc a, seen) =>
      (match s.readDesc p slot a with
       | some d => (.ok (d.entry a, off % r.pageSize), d.words a ++ seen)
       | none => (.error 0x0401, seen))
    | (_, seen) => (.error 0x0401, seen)

/-- Pages of a partition that the migration engine moves (R396) (notes/assumptions/54.md). -/
def Hw.movingIn (h : Hw) (p : Nat) : List (Nat × Nat) :=
  h.dies.flatMap fun d => if d.2.mix.bound && d.2.mix.part == p then d.2.moving else []

/-- Whether requests from outside wait at the port of a partition's SW dies: a table rewrite, or a freeze (R376, R395). -/
def Hw.portHeld (h : Hw) (p : Nat) : Bool := (h.part p).rewriteSince.isSome || (h.part p).frozen

/-- A request that the tables placed meets a die of another table generation than its own (R395). -/
def Hw.staleAt (h : Hw) (gen : BitVec 2) (slot : Nat) : Bool := (h.die slot).mix.bound && (h.die slot).tgen != gen
/-- That is a table-drain machine check of the partition (R395, R413). -/
def Hw.tableCheck (h : Hw) (part : Nat) : Hw := h.machineCheck (h.master part) 0x0703 [part]

/-! ### Admission (R376, R395) -/

/-- A request to a die that is gone, or that changes its partition, is no longer outstanding. -/
def Event.toSlot (e : Event) (slot : Nat) : Bool :=
  match e with | .hostAccess d _ _ _ _ _ => d == slot | _ => false
def Hw.unadmit (h : Hw) (slot : Nat) : Hw :=
  (List.range 8).foldl (fun (g : Hw) p => g.updPart p fun q => { q with admitted := q.admitted.filter fun a => !a.2.1.toSlot slot }) h

/-- A request waits at its port, or at the die that it has reached, for a tick. -/
def Hw.waitAt (h : Hw) (e : Event) : Hw := h.at (h.wtick + 1) e
/-- One that has been admitted waits with the generation that it carries. -/
def Hw.waitAdmitted (h : Hw) (p : Nat) (gen : BitVec 2) (e : Event) : Hw :=
  (h.waitAt e).updPart p fun q => { q with admitted := q.admitted ++ [(h.wtick + 1, e, gen)] }

/-- A request that the tables place comes to a partition's switch dies. It waits there in a table rewrite or a freeze; else it is
admitted, with the table generation of the master, and served a free time later. `serve` is what is done with an admitted one that has
come to its die. -/
def State.atPort (s : State) (p : Nat) (e : Event) (serve : BitVec 2 → State → State) : State :=
  let q := s.hw.part p
  match q.admitted.find? fun a => decide (a.1 ≤ s.hw.wtick) && a.2.1 == e with
  | some a =>
    let s1 := s.updHw fun h => h.updPart p fun q => { q with admitted := q.admitted.erase a }
    if q.frozen then s1.updHw fun h => h.waitAdmitted p a.2.2 e else serve a.2.2 s1
  | none =>
    if s.hw.portHeld p then s.updHw fun h => h.waitAt e
    else
      let gen := (s.hw.die (s.hw.master p)).tgen
      let w := s.hw.wtick + Config.freeLatency s.hw.fresh
      if w = s.hw.wtick then serve gen (s.updHw Hw.used)
      else s.updHw fun h => (h.used.at w e).updPart p fun q => { q with admitted := q.admitted ++ [(w, e, gen)] }

/-- What a line request asks of the bytes at a piece: the reply's code and data (R388, R403). -/
def State.serveLine (s : State) (part m : Nat) (pl : Place) (kind : LineOp) (data : List Byte) (len : Nat) : State × Nat × List Byte :=
  let bad := fun (n : Nat) => s.hw.badAt pl.key n
  let lost : State × Nat × List Byte := (s.updHw fun h => h.record ((pl.die).getD m) 2 (unitOfKey pl.key) (pl.key % 2 ^ 60) 0x0403 none, 0x0403, [])
  let found := fun (n : Nat) => s.updHw fun h => (h.scan ((pl.die).getD m) (unitOfKey pl.key) pl.key n).1
  match kind with
  | .write => (s.writePieces part m [(pl, data.length)] data, 0, [])
  | .read => if bad len then lost else (found len, 0, Memory.readBytes s.mem pl.key len)
  | .atomic op =>
    if bad len then lost
    else
      let old := Memory.readBytes s.mem pl.key len
      let new := atomNew op len (leNat old) (leNat (data.take len)) (leNat ((data.drop len).take len))
      ((found len).writePieces part m [(pl, len)] (leBytes len new), 0, old)

/-- The permission that a line request needs (R381). -/
def lineNeed : LineOp → Need
  | .read => .read
  | .write => .write
  | .atomic _ => .both

/-- A line request from another package, admitted and served at the partition master: while its page moves it waits (R396). A partition
without a healthy switch die answers none. -/
def execLineRequest (part va : Nat) (kind : LineOp) (data : List (BitVec 8)) (len ident : Nat) (s : State) : Out :=
  inPart part s fun s =>
    let e := Event.lineRequest part va kind data len ident
    if (s.hw.diesOf part).any isSw = false then s
    else s.atPort part e fun gen s =>
      let m := s.hw.master part
      let reply := fun (s : State) (code : Nat) (bs : List Byte) => s.updHw fun h => h.out (.lineReply ident code bs)
      let r := s.ownerWalk part m va
      let s := s.updHw fun h => h.used.updDie m fun d => { d with wcache := cacheAll d.wcache r.2 }
      match r.1 with
      | .error c => reply s c []
      | .ok (b, off) =>
        if (s.hw.movingIn part).any (·.2 == b.desc) then s.updHw fun h => h.waitAdmitted part gen e
        else if b.allows (lineNeed kind) = false then reply s 0x0402 []
        else
          let pl := (s.hw.die m).placeFrame b false off
          if (match pl.die with | some d => s.hw.staleAt gen d | none => false) = true then s.updHw fun h => h.tableCheck part
          else
            match s.hw.pieceFails part m pl with
            | some c => reply s c []
            | none =>
              let r := (s.updHw fun h => h.touchFar [(pl, len)]).serveLine part m pl kind data len
              reply r.1 r.2.1 r.2.2

/-- No response within 100 µs: the access fails with 0x0404 (R95, R389). -/
def execLineRequestTimeout (id : Nat) (s : State) : Out :=
  happen s fun s => s.updHw fun h =>
    match h.untimed.find? (·.id == id) with
    | none => h
    | some u =>
      let g := match u.op with | .store _ => h.recordDropped (slotOf u.strand) u.va 0x0404 | _ => h
      (g.tokenEnd u (some 0x0404)).dropUntimed u

/-! ### The host (R393, R411, R419, R425) -/

/-- An entry of the mix register. -/
def MixEntry.word (e : MixEntry) : Nat :=
  e.type * 2 ^ 28 + e.step * 2 ^ 24 + (match e.health with | .good => 0 | .failed => 1 | .withdrawn => 2 | .absent => 3) * 2 ^ 22 +
    e.bound.toNat * 2 ^ 21 + (if e.bound then e.part else 0) * 2 ^ 18 + (if e.health = .good then e.cap else 0)

def ErrorBank.status (b : ErrorBank) : Nat := b.lost * 2 ^ 48 + b.seq * 2 ^ 40 + b.ovf.toNat * 2 ^ 39 + b.sev
def ErrorBank.recordWord (b : ErrorBank) : Nat :=
  b.wt * 2 ^ 192 + b.addr * 2 ^ 128 + b.detail * 2 ^ 64 + b.code * 2 ^ 48 + b.unit * 2 ^ 40 + b.slot * 2 ^ 32

/-- The doorbell reads the free entries of the launch queues and the count of refused submissions. -/
def Part.doorbell (p : Part) : Nat :=
  (64 - (p.queues.get 0).length) + (64 - (p.queues.get 1).length) * 2 ^ 8 + (64 - (p.queues.get 2).length) * 2 ^ 16 +
    (64 - (p.queues.get 3).length) * 2 ^ 24 + p.refused % 256 * 2 ^ 32

/-- The migration request log in the register BAR of an FB die's LD, whose place the manual does not give: the number of requests
at 0x1000, then 16 bytes for each, address with bit 63 for the far tier, and length (R396, notes/assumptions/84.md). -/
def Die.logByte (d : Die) (o : Nat) : Byte :=
  let q : Nat := if o < 8 then d.miglog.length else
    match d.miglog[(o - 8) / 16]? with
    | some r => (r.va + r.far.toNat * 2 ^ 63) + r.len * 2 ^ 64
    | none => 0
  BitVec.ofNat 8 (q / 256 ^ (if o < 8 then o else (o - 8) % 16))

/-- A byte of a register BAR: the doorbell, the mix register, the error bank, the migration request log; every other byte the
manual leaves open. -/
def Hw.barByte (h : Hw) (slot off : Nat) : Byte :=
  let at_ := fun (v o : Nat) => BitVec.ofNat 8 (v / 256 ^ o)
  let p := h.partOf slot
  if 0x100 ≤ off ∧ off < 0x108 ∧ (h.die slot).mix.bound = true ∧ h.master p = slot then at_ (h.part p).doorbell (off - 0x100)
  else if 0xD000 ≤ off ∧ off < 0xD0C0 ∧ slot = 0 then at_ ((h.die ((off - 0xD000) / 4)).mix.word) ((off - 0xD000) % 4)
  else if 0xE000 ≤ off ∧ off < 0xE008 then at_ (h.die slot).bank.status (off - 0xE000)
  else if 0xE008 ≤ off ∧ off < 0xE010 then 0
  else if 0xE010 ≤ off ∧ off < 0xE030 then at_ (h.die slot).bank.recordWord (off - 0xE010)
  else if 0x1000 ≤ off ∧ off < 0x1008 + 16 * migLogSize ∧ Config.slotType slot = .fb then (h.die slot).logByte (off - 0x1000)
  else Config.freeByte h.fresh off

/-- A write to a register BAR: the doorbell and the acknowledge word. -/
def Hw.barWrite (h : Hw) (slot off : Nat) (data : List Byte) : Hw :=
  let p := h.partOf slot
  if off = 0x100 ∧ data.length = 8 ∧ isSw slot = true ∧ (h.die slot).mix.bound = true ∧ h.master p = slot then
    h.soon (.launchSubmit p (BitVec.ofNat 64 (leNat data)) none)
  else if off = 0xE008 then h.soon (.errorBankAck slot ((data.headD 0).toNat))
  else if off = 0x1000 ∧ Config.slotType slot = .fb then h.soon (.migrationLogClear slot)
  else h

/-- An LD that answers: bound, and its die healthy. -/
def Hw.ldUp (h : Hw) (slot : Nat) : Bool := h.healthy slot && (h.die slot).mix.bound

/-- The boot has ended: the package serves all its ports (R417). -/
def Package.up (k : Package) : Bool := decide (6 ≤ k.bootStep) && k.bootDue.isNone

/-- Key of a byte of a memory window of an LD. -/
def windowKey (slot : Nat) (w : HostWindow) (off n : Nat) : Option Nat :=
  match w with
  | .config | .regs => none
  | .sram => if off + n ≤ Config.sramSize (Config.slotType slot) then some (sramKey slot off) else none
  | .hbm => if Config.slotType slot = .nb ∧ off + n ≤ Config.hbmSize then some (hbmKey slot off) else none
  | .far => if Config.slotType slot = .fb ∧ off + n ≤ Config.farSize then some (farKey slot off) else none

/-- The page size of the region that holds an address. -/
def Die.pageAt (d : Die) (va : Nat) : Option Nat :=
  let r := d.regions.get (Fin.ofNat 16 (va / 2 ^ 52))
  if r.v then some r.pageSize else none

/-- The lines of a page under its live frame, or under the other one: key and length. -/
def Hw.pageLines (h : Hw) (p : Nat) (e : BrimEntry) (shadow : Bool) (n : Nat) : List (Place × Nat) :=
  (lines 0 n).map fun l => ((h.die (h.master p)).placeFrame e shadow l.1, l.2)

/-- Whether any of n bytes from a key on lies in a page that is being moved, under either frame (R396). -/
def State.inMove (s : State) (p k n : Nat) : Bool :=
  (s.hw.movingIn p).any fun x =>
    match s.readDesc p (s.hw.master p) x.2, (s.hw.die (s.hw.master p)).pageAt x.1 with
    | some d, some size => [false, true].any fun sh => (s.hw.pageLines p (d.entry x.2) sh size).any fun y =>
        decide (y.1.key < k + n) && decide (k < y.1.key + y.2)
    | _, _ => false

/-- A host access to the memory behind a window, at one tick. -/
def State.hostMemory (s : State) (slot k n : Nat) (write : Bool) (data : List Byte) : State :=
  let s1 := s.updHw fun h => h.touchFar [(.mem (some slot) k, n)]
  if write then ({ mem := Memory.writeBytes s1.mem k data, hw := s1.hw.stored k n } : State).updHw fun h => h.out (.hostData true [])
  else if s.hw.badAt k n then
    s1.updHw fun h => (h.record slot 2 (unitOfKey k) (k % 2 ^ 60) 0x0403 none).out (.hostData false [])
  else s1.updHw fun h => (h.scan slot (unitOfKey k) k n).1.out (.hostData true (Memory.readBytes s.mem k n))

/-- A host access to a window of an LD: its configuration space, whose contents are those of the standards and free here; the 64 KiB
register BAR; or memory. Unsupported request where there is no such LD, where it is unbound or its die failed, or past the
window's end; no completion before the host port is up (R393, R417) (notes/assumptions/53.md). -/
def execHostAccess (slot : Nat) (win : HostWindow) (off : Nat) (write : Bool) (data : List (BitVec 8)) (len : Nat) (s : State) : Out :=
  atSlot slot s fun s =>
    let h := s.hw
    let p := h.partOf slot
    let n := if write then data.length else len
    let refuse := s.updHw fun h => h.out (.hostData false [])
    if h.pkg.up = false then s
    else if populated slot = false then refuse
    else match win with
    | .config =>
      s.updHw fun h => (h.out (.hostData true (if write then [] else (List.range n).map fun i => Config.freeByte h.fresh (off + i)))).used
    | .regs =>
      if 0x10000 < off + n then refuse
      else if write then s.updHw fun h => h.barWrite slot off data
      else s.updHw fun h => (h.out (.hostData true ((List.range n).map fun i => h.barByte slot (off + i)))).used
    | _ =>
      match windowKey slot win off n with
      | none => refuse
      | some k =>
        let e := Event.hostAccess slot win off write data len
        if h.ldUp slot = false then refuse.updHw fun h => h.unadmit slot
        else if win = .hbm then
          s.atPort p e fun gen s =>
            if s.inMove p k n then s.updHw fun h => h.waitAdmitted p gen e
            else if s.hw.staleAt gen slot then s.updHw fun h => (h.tableCheck p).out (.hostData false [])
            else s.hostMemory slot k n write data
        else if (h.part p).frozen = true ∨ s.inMove p k n = true then s.updHw fun h => h.waitAt e
        else s.hostMemory slot k n write data

/-! ### Migration (R396) -/

/-- Whether a frame lies in the near tier, or the far one. -/
def isNear (f : W64) : Bool := f.toNat / 2 ^ 60 == 1
def isFar (f : W64) : Bool := f.toNat / 2 ^ 60 == 2

/-- A migration directed to the engine of an FB die; refused while a kernel runs, without a pair, or towards a frame that is
not a valid frame of the other tier. -/
def execMigrationDirect (slot part va : Nat) (desc : BitVec 64) (s : State) : Out :=
  atSlot slot s fun s =>
    let h := s.hw
    if 8 ≤ part ∨ Config.slotType slot ≠ .fb ∨ h.inPartition part slot = false ∨ (h.part part).idle = false ∨
        h.portHeld part = true then s
    else
      match s.readDesc part slot desc.toNat, (h.die slot).pageAt va with
      | some d, some n =>
        let e := d.entry desc.toNat
        let live := e.frame false
        let other := e.frame true
        if e.paired = false ∨ !((isNear live && isFar other) || (isFar live && isNear other)) = true ∨
            h.frameOk (h.die slot).ilv other.toNat n = false then s
        else
          s.updHw fun h =>
            let b := Nat.max (h.wtick + 48) ((h.part part).lastFlip + 1) + Config.freeLatency h.fresh
            ((h.used.updPart part fun q => { q with lastFlip := b }).updDie slot fun x =>
              { x with moving := x.moving ++ [(va, desc.toNat)] }).at b (.migrationPageFlip slot)
      | _, _ => s

/-- Where a byte of a window lies when a page has moved from its old lines to the new ones: slot, window and offset. -/
def movedTo (old new : List (Place × Nat)) (slot : Nat) (win : HostWindow) (off : Nat) : Nat × HostWindow × Nat :=
  match windowKey slot win off 1 with
  | none => (slot, win, off)
  | some k =>
    match (old.zip new).find? fun x => decide (x.1.1.key ≤ k) && decide (k < x.1.1.key + x.1.2) with
    | some ((p, _), (.mem (some d) q, _)) => (d, if Config.slotType d = .fb then .far else .hbm, (q + (k - p.key)) % 2 ^ 60)
    | _ => (slot, win, off)

/-- The bytes of an access as runs that lie together: slot, window and offset of the first byte of each, its place in the access, and its
length. -/
def addRun (at_ : Nat → Nat × HostWindow × Nat) (l : List ((Nat × HostWindow × Nat) × Nat × Nat)) (i : Nat) :
    List ((Nat × HostWindow × Nat) × Nat × Nat) :=
  match l with
  | ((d, w, o), j, n) :: t => if at_ i = (d, w, o + n) then ((d, w, o), j, n + 1) :: t else (at_ i, i, 1) :: l
  | [] => [(at_ i, i, 1)]

/-- A host access that waits for a page goes on, when the page has moved, against its new frame (R396); one that runs over the page's
edges, or whose bytes lie apart now, goes on in parts, each with a completion of its own (DESIGN CHOICE, notes/assumptions/54.md). -/
def Event.redirect (old new : List (Place × Nat)) : Event → List Event
  | .hostAccess slot win off wr data len =>
    let n := if wr then data.length else len
    if (windowKey slot win off n).isNone ∨ n = 0 then [.hostAccess slot win off wr data len]
    else
      ((List.range n).foldl (addRun fun i => movedTo old new slot win (off + i)) []).reverse.map fun r =>
        .hostAccess r.1.1 r.1.2.1 r.1.2.2 wr ((data.drop r.2.1).take (if wr then r.2.2 else 0)) r.2.2
  | e => [e]

/-- The page is copied, its descriptor and every brim entry that holds it flip, and the walker caches drop it. -/
def execMigrationPageFlip (slot : Nat) (s : State) : Out :=
  atSlot slot s fun s =>
    match (s.hw.die slot).moving with
    | [] => s
    | (va, a) :: rest =>
      let p := s.hw.partOf slot
      let s0 := s.updHw fun h => h.updDie slot fun d => { d with moving := rest }
      match s.readDesc p slot a, (s.hw.die slot).pageAt va with
      | some d, some n =>
        let e := d.entry a
        let old := s.hw.pageLines p e false n
        let ps := s.hw.pageLines p e true n
        let s1 := s0.writePieces p slot ps (readPieces s.mem old)
        let s2 := s1.writeLaunch p (a + 16) (leBytes 8 (d.d2 ^^^ 4).toNat)
        s2.updHw fun h =>
         let h := h.touchFar (old ++ ps)
         let h : Hw := { h with flight := h.flight.flatMap fun f => (f.2.redirect old ps).map fun e => (f.1, e) }
         let h := h.updPart p fun q =>
          { q with admitted := q.admitted.flatMap fun a => (a.2.1.redirect old ps).map fun e => (a.1, e, a.2.2) }
         (h.diesOf p).foldl (fun (g : Hw) i => g.updDie i fun x =>
          { x with
            wcache := x.wcache.filter fun c => !(decide (a ≤ c.1) && decide (c.1 < a + 32))
            brim := x.brim.map fun b => if b.2.desc = a ∧ b.2.paired = true then (b.1, { b.2 with p := !b.2.p }) else b }) h
      | _, _ => s0

def execMigrationLogClear (slot : Nat) (s : State) : Out :=
  atSlot slot s fun s => s.updHw fun h => h.updDie slot fun d => { d with miglog := [] }

/-! ### Self-refresh (R394) -/

/-- Whether an untimed access has a line at a die: a panel load those of its panel as it stands. -/
def State.accessAt (s : State) (slot : Nat) (u : Untimed) : Bool :=
  let here := fun (pl : Place) => match pl with | .mem (some d) _ => d == slot | _ => false
  match u.op with
  | .panel mx arr id (.mbld _ _ addr t _ _ bytes _ _) =>
    let c := s.hw.cmd? mx arr id
    let src := s.hw.panelSrc mx addr (c.bind (·.first))
    (lines addr (s.hw.panelBytes s.mem src ((c.map (·.tiles)).getD 0) addr t bytes)).any fun l =>
      match (s.hw.panelLine src l.1).2 with | .ok pl => here pl | .error _ => false
  | _ => u.pieces.any fun x => here x.1

/-- No access, of a strand, an array or an engine, has been outstanding at the FB die for 2^20 ticks (R394). -/
def State.canRefreshSelf (s : State) (slot : Nat) : Bool :=
  Config.slotType slot == .fb && !(s.hw.die slot).selfRefresh && decide ((s.hw.die slot).lastAccess + 2 ^ 20 ≤ s.hw.wtick) &&
    s.hw.untimed.all (fun u => !s.accessAt slot u) &&
    s.hw.transit.all fun t => t.dst.all fun x => match x.1 with | .mem (some d) _ => d != slot | _ => true

def execSelfRefreshEntry (slot : Nat) (s : State) : Out :=
  atSlot slot s fun s =>
    if s.canRefreshSelf slot then s.updHw fun h => h.updDie slot fun d => { d with selfRefresh := true } else s

end Sys2Proof.Machine
end

