-- ==== Sys2Proof/Machine/Launch.lean ====
section
/-! DEFINITION. Launch: packets, kernel images, selection, distribution, the launch steps, T0 and completion
(R22-R49, R337-R348, R367), anchors and their reports (R30-R36). -/
namespace Sys2Proof.Machine
open Sys2Proof

/-! ### Reading a launch (R338-R341) -/

structure Packet where
  nm : Nat
  nv : Nat
  ng : Nat
  prio : Nat
  nge : Nat
  msiv : Nat
  ltag : Nat
  kimg : Nat
  grpaddr : Nat
  devaddr : Nat
  btab : Nat
  mbz : Bool
  deriving DecidableEq, Repr

def packetOf (bs : List Byte) : Packet :=
  let w1 := le bs 8 8
  { nm := le bs 0 2, nv := le bs 2 2, ng := le bs 4 2, prio := le bs 6 1 % 4, nge := w1 % 512, msiv := le bs 16 2
    ltag := le bs 20 4, kimg := le bs 24 8, grpaddr := le bs 32 8, devaddr := le bs 40 8, btab := le bs 48 8
    mbz := le bs 6 2 / 4 != 0 || w1 / 512 != 0 || le bs 18 2 != 0 || le bs 56 8 != 0 }

def State.packet? (s : State) (p a : Nat) : Option Packet :=
  if a % 8 ≠ 0 then none else (s.readLaunch p a 64).map packetOf

structure Header where
  iver : Nat
  mode : Nat
  seqt : Nat
  tslot : Nat
  sync0 : Nat
  chkmax : Nat
  nvar : Nat
  vtab : Nat
  chktab : Nat
  stubtab : Nat
  dimg : List Nat
  mbz : Bool
  deriving DecidableEq, Repr

def headerOf (bs : List Byte) : Header :=
  { iver := le bs 0 4, mode := le bs 4 1, seqt := le bs 5 1, tslot := le bs 6 1, sync0 := le bs 8 3, chkmax := le bs 0x0C 4
    nvar := le bs 0x10 2, vtab := le bs 0x18 8, chktab := le bs 0x20 8, stubtab := le bs 0x28 8
    dimg := (List.range 4).map fun i => le bs (0x30 + 4 * i) 4
    mbz := le bs 5 1 / 8 != 0 || le bs 7 1 != 0 || Nat.land (le bs 8 3) 0xF0F0F0 != 0 || le bs 0x0B 1 != 0 || le bs 0x12 6 != 0 }

def Header.strict (h : Header) : Bool := h.mode == 0
/-- The header's own limits (R340). -/
def Header.ok (h : Header) : Bool :=
  !h.mbz && h.iver == 1 && decide (h.mode ≤ 1) && decide (h.chkmax ≤ 262144) && h.tslot % 8 == 0 && decide (h.tslot ≤ 96) &&
    (h.strict || h.tslot == 0) && decide (1 ≤ h.nvar) && decide (h.nvar ≤ 4096) && (h.strict || h.nvar == 1)

/-- What a launch has read: nothing once a read has failed (0x0601); else the value, and whether every layout read so far keeps
its rules (else 0x0602): R343 tests all reads before any layout. -/
abbrev Rd (α : Type) : Type := Option (α × Bool)
def rdBind {α β : Type} (x : Rd α) (f : α → Rd β) : Rd β :=
  match x with
  | none => none
  | some (a, ok) => match f a with | none => none | some (b, ok') => some (b, ok && ok')
def rd {α : Type} (o : Option α) : Rd α := o.map fun a => (a, true)
/-- A rule of a layout. -/
def rdRule {α : Type} (ok : Bool) (a : α) : Rd α := some (a, ok)
def rdAll {α β : Type} (f : α → Rd β) (xs : List α) : Rd (List β) :=
  match xs with
  | [] => rdRule true []
  | x :: t => rdBind (f x) fun y => rdBind (rdAll f t) fun ys => rdRule true (y :: ys)

/-- Reads that fail are 0x0601, rules that break have a code of their own (R343). -/
def orFault {α : Type} (o : Option α) : Except Nat α := match o with | some a => .ok a | none => .error 0x0601
def bindOk {α β : Type} (x : Except Nat α) (f : α → Except Nat β) : Except Nat β :=
  match x with | .error c => .error c | .ok a => f a
def require (b : Bool) (code : Nat) : Except Nat Unit := if b then .ok () else .error code

/-- The anchor list at an address, up to its end mark. -/
def State.anchorList (s : State) (p : Nat) (k a : Nat) : Rd (List Nat) :=
  match k with
  | 0 => none
  | k + 1 =>
    rdBind (rd (s.readLaunchNat p a 8)) fun v =>
      if v = 2 ^ 64 - 1 then rdRule true []
      else rdBind (State.anchorList s p k (a + 8)) fun t => rdRule true (v :: t)

/-- A data-image list: scratchpad addresses and bytes. -/
def State.imageList (s : State) (p : Nat) (k a : Nat) : Rd (List (Nat × List Byte)) :=
  match k with
  | 0 => none
  | k + 1 =>
    rdBind (rd (s.readLaunchNat p a 8)) fun hd =>
      let addr := hd % 2 ^ 21
      let len := hd / 2 ^ 21 % 2 ^ 21
      rdBind (rdRule (hd / 2 ^ 42 == 0) ()) fun _ =>
        if len = 0 then rdRule true []
        else
          rdBind (rdRule (decide (addr + len ≤ 2 ^ 21)) ()) fun _ => rdBind (rd (s.readLaunch p (a + 8) len)) fun bs =>
            rdBind (State.imageList s p k (a + 8 + (len + 7) / 8 * 8)) fun t => rdRule true ((addr, bs) :: t)

/-- A list of scratchpad ranges (R368). -/
def State.rangeList (s : State) (p : Nat) (k a : Nat) : Rd (List (Nat × Nat)) :=
  match k with
  | 0 => none
  | k + 1 =>
    rdBind (rd (s.readLaunchNat p a 8)) fun w =>
      if w / 2 ^ 21 % 2 ^ 21 = 0 then rdRule true []
      else rdBind (State.rangeList s p k (a + 8)) fun t => rdRule true ((w % 2 ^ 21, w / 2 ^ 21 % 2 ^ 21) :: t)

/-- More list entries than any memory holds. -/
def listFuel : Nat := 2 ^ 53

def State.readAt (s : State) (p a n : Nat) : Rd (List Byte) := rd (s.readLaunch p a n)

/-- The checkpoint table (R368). -/
def State.chkTable (s : State) (p kimg off : Nat) : Rd (Option (List ChkEntry)) :=
  if off = 0 then rdRule true none
  else rdBind (rd (s.readLaunchNat p (kimg + off) 8)) fun n => rdBind (s.readAt p (kimg + off + 8) (32 * n)) fun bs =>
    rdBind (rdAll (fun i =>
      let b := bs.drop (32 * i)
      let key := le b 0 4
      rdBind (rdRule (key / 2 ^ 24 == 0 && le b 0x0B 1 / 16 == 0 && le b 0x0C 4 == 0) ()) fun _ =>
        rdBind (s.rangeList p listFuel (kimg + le b 0x18 8)) fun rs =>
          rdRule true { n := key % 2 ^ 20, cls := key / 2 ^ 20 % 4, cluster := key / 2 ^ 22 % 4, ctick := le b 0x10 8, spad := rs : ChkEntry })
      (List.range n)) fun es => rdRule true (some es)

/-- The drain-stub table (R369). -/
def State.stubTable (s : State) (p kimg off : Nat) : Rd (Option (List StubEntry)) :=
  if off = 0 then rdRule true none
  else rdBind (rd (s.readLaunchNat p (kimg + off) 8)) fun n => rdBind (s.readAt p (kimg + off + 8) (32 * n)) fun bs =>
    rdRule true (some ((List.range n).map fun i =>
      let b := bs.drop (32 * i)
      { fr := le b 0 8, till := le b 8 8, stub := le b 16 8, restore := le b 24 8 : StubEntry }))

/-- A variant: its signature, the code streams of its four programs as offsets and bytes, its anchors (R341). -/
structure Variant where
  vsig : Nat
  vcare : Nat
  progs : List (Option (List (Nat × Nat)))
  anchors : List Nat
  deriving DecidableEq, Repr

/-- A cluster table: offset and length in bytes of each stream, all of them readable. -/
def State.clusterTable (s : State) (p kimg off : Nat) (sequencer : Bool) : Rd (List (Nat × Nat)) :=
  rdBind (s.readAt p (kimg + off) 32) fun bs =>
    let es := (List.range 4).map fun c => (le bs (8 * c) 8 % 2 ^ 40, le bs (8 * c) 8 / 2 ^ 40 * 4)
    rdBind (rdRule (es.all (fun e => e.1 % 4 == 0) && (!sequencer || (es.drop 1).all fun e => e == (0, 0))) ()) fun _ =>
      rdBind (rdAll (fun e => s.readAt p (kimg + e.1) e.2) es) fun _ => rdRule true es

def strictlyRising (xs : List Nat) : Bool :=
  match xs with
  | x :: y :: t => decide (x < y) && strictlyRising (y :: t)
  | _ => true

/-- A variant entry. With SEQT = 0 a sequencer program is ignored (R340). -/
def State.variantAt (s : State) (p kimg : Nat) (h : Header) (v : Nat) : Rd Variant :=
  rdBind (s.readAt p (kimg + h.vtab + 64 * v) 64) fun bs =>
    let vs := le bs 0 8
    let vc := le bs 8 8
    let ps := (List.range 4).map fun i => le bs (0x10 + 8 * i) 8
    let an := le bs 0x30 8
    rdBind (rdRule (vs / 2 ^ 48 == 0 && vc / 2 ^ 48 == 0 && ps.all (fun w => w / 2 ^ 40 == 0 && w % 8 == 0) && le bs 0x38 8 == 0 &&
      (h.strict || vc == 0)) ()) fun _ =>
      rdBind (rdAll (fun (x : Nat × Nat) =>
        if x.2 = 0 ∨ (x.1 = 3 ∧ h.seqt = 0) then rdRule true none
        else rdBind (s.clusterTable p kimg (x.2 % 2 ^ 40) (x.1 == 3)) fun es => rdRule true (some es)) ((List.range 4).zip ps)) fun progs =>
        rdBind (if h.strict && an != 0 then s.anchorList p listFuel (kimg + an) else rdRule true []) fun as =>
          rdRule (strictlyRising as) { vsig := vs, vcare := vc, progs := progs, anchors := as }

/-! ### Groups (R41, R267, R268, R339) -/

/-- A group entry with its fabric descriptor. -/
structure GroupSpec where
  num : Nat
  type : Nat
  tmap : List Nat
  target : Nat
  fab : Option FabGroup
  /-- a descriptor out of the limits of R339 -/
  bad : Bool
  deriving DecidableEq, Repr

def State.fabricAt (s : State) (p a num : Nat) : Rd (FabGroup × Bool) :=
  rdBind (s.readAt p a 32) fun hd =>
    let w := le hd 0 8
    let n := w / 2 ^ 20 % 2 ^ 20
    rdBind (rdRule (w / 2 ^ 40 == 0 && le hd 20 12 == 0) ()) fun _ =>
      if n = 0 ∨ 524288 < n then rdRule true ({ num := num }, true)
      else
        rdBind (s.readAt p (a + 32) (8 * n)) fun rt => rdBind (s.readAt p (a + 32 + 8 * n) ((n + 7) / 8)) fun bm =>
          let ranks := (List.range n).map fun i => (le rt (8 * i) 8 % 2 ^ 20, le rt (8 * i) 8 / 2 ^ 20 % 8)
          let members := (List.range n).filter fun r => (bm.getD (r / 8) 0).getLsbD (r % 8)
          rdRule true ({ num := num, self := w % 2 ^ 20, nrank := n, ranks := ranks, flat := le hd 12 4, block := le hd 16 4
                         view := BitVec.ofNat 32 (le hd 8 4), members := members }, ranks.any fun r => decide (2 ^ 19 ≤ r.1))

def State.groupAt (s : State) (p a : Nat) : Rd GroupSpec :=
  rdBind (s.readAt p a 64) fun bs =>
    let t := le bs 48 4
    let ty := le bs 53 1
    let fd := le bs 56 8
    let tm := le bs 0 48
    let num := le bs 52 1
    rdBind (if ty = 1 then rdBind (s.fabricAt p fd num) fun x => rdRule true (some x.1, x.2) else rdRule true (none, false)) fun f =>
      rdRule (t / 2 ^ 20 == 0 && le bs 54 2 == 0 && (ty != 0 || fd == 0))
        { num := num, type := ty, tmap := (List.range 384).filter fun i => tm / 2 ^ i % 2 == 1, target := t % 2 ^ 20
          fab := f.1, bad := f.2 }

/-- Whether a linear team index is placed. -/
def placed (pk : Packet) (i : Nat) : Bool :=
  if i < 144 then decide (i < pk.nm) else if i < 336 then decide (i - 144 < pk.nv) else decide (i - 336 < pk.ng)

def groupsOk (pk : Packet) (gs : List GroupSpec) : Bool :=
  decide (pk.nge ≤ 256) && (gs.all fun g => decide (g.type ≤ 1) && !g.bad && decide (1 ≤ g.target) &&
    decide (g.target ≤ g.tmap.length) && g.tmap.all (placed pk)) && decide (gs.map (·.num)).Nodup &&
    (List.range 384).all fun i => decide ((gs.countP fun g => g.tmap.contains i) ≤ 4)

/-! ### Distribution (R347) -/

/-- Dies of a type in the partition, ascending. -/
def Hw.typeDies (h : Hw) (p : Nat) (t : DieType) : List Nat := (h.diesOf p).filter fun d => Config.slotType d == t

/-- Core of team i of n dies. -/
def placeTeam (dies : List Nat) (i : Nat) : Nat := dies.getD (i % dies.length) 0 * 32 + i / dies.length

/-- Team (class, index) and core. -/
def Hw.placement (h : Hw) (p : Nat) (pk : Packet) : List (Nat × Nat × Nat) :=
  ([(0, pk.nm, DieType.mx), (1, pk.nv, DieType.vn), (2, pk.ng, DieType.gs)] : List (Nat × Nat × DieType)).flatMap fun x =>
    (List.range x.2.1).map fun i => (x.1, i, placeTeam (h.typeDies p x.2.2) i)

def Hw.roomFor (h : Hw) (p : Nat) (pk : Packet) : Bool :=
  decide (pk.nm ≤ (h.typeDies p .mx).length * 12) && decide (pk.nv ≤ (h.typeDies p .vn).length * 24) &&
    decide (pk.ng ≤ (h.typeDies p .gs).length * 24)

/-- Healthy dies whose type SEQT selects. -/
def Hw.seqDies (h : Hw) (p seqt : Nat) : List Nat :=
  (h.diesOf p).filter fun d => match Config.slotType d with
    | .nb => seqt % 2 == 1
    | .fb => seqt / 2 % 2 == 1
    | .sw => seqt / 4 % 2 == 1
    | _ => false

/-- The health signature σ. -/
def Hw.sigma (h : Hw) (p : Nat) : Nat := ((h.diesOf p).map fun d => 2 ^ d).sum

def matchesSig (sig vsig vcare : Nat) : Bool := Nat.land (Nat.xor sig vsig) vcare == 0

def allRoutes (dies : List Nat) (dead : List (Nat × Nat)) (used : List Nat) : Bool :=
  used.all fun a => used.all fun b => a == b || (routeOf dies dead a b).isSome

/-- A launch that passed every check: what its steps will do. -/
structure Plan where
  pk : Packet
  hd : Header
  var : Variant
  groups : List GroupSpec
  place : List (Nat × Nat × Nat)
  seqs : List Nat
  used : List Nat
  images : List (List (Nat × List Byte))
  chk : Option (List ChkEntry)
  stubs : Option (List StubEntry)
  brim : Option (BrimImage × List (Nat × List (Nat × BrimEntry) × List (Nat × W64)))

def progOf (v : Variant) (c : Nat) : Option (List (Nat × Nat)) := v.progs.getD c none

/-- A program is present exactly for the classes with teams. -/
def progsOk (pk : Packet) (v : Variant) : Bool :=
  (progOf v 0).isSome == (pk.nm != 0) && (progOf v 1).isSome == (pk.nv != 0) && (progOf v 2).isSome == (pk.ng != 0)

/-- All that R343 has a selection read. -/
structure Sheet where
  pk : Packet
  hd : Header
  groups : List GroupSpec
  vars : List Variant
  images : List (List (Nat × List Byte))
  chk : Option (List ChkEntry)
  stubs : Option (List StubEntry)

/-- The reads of a selection (R338-R341), and whether all layouts hold but for the programs that classes must have. DEVADDR and
the brim image must keep R337 too. -/
def State.sheet (s : State) (p a : Nat) : Rd Sheet :=
  let h := s.hw
  rdBind (rd (s.packet? p a)) fun pk =>
  rdBind (rd (if pk.kimg % 256 == 0 && (h.part p).supervisor then some () else none)) fun _ =>
  rdBind (rd (if pk.devaddr = 0 then some 0 else h.launchKey p pk.devaddr 8)) fun _ =>
  rdBind (rd (if pk.btab = 0 then some [] else s.readLaunch p pk.btab 576)) fun bi =>
  rdBind (rd (if le bi 8 8 = 0 then some 0 else h.launchKey p (le bi 8 8) 8)) fun _ =>
  rdBind (s.readAt p pk.kimg 64) fun hb =>
  let hd := headerOf hb
  rdBind (rdAll (fun e => s.groupAt p (pk.grpaddr + 64 * e)) (List.range (if pk.nge ≤ 256 then pk.nge else 0))) fun gs =>
  rdBind (rdAll (s.variantAt p pk.kimg hd) (List.range hd.nvar)) fun vars =>
  rdBind (rdAll (fun off => if off = 0 then rdRule true [] else s.imageList p listFuel (pk.kimg + off)) hd.dimg) fun images =>
  rdBind (s.chkTable p pk.kimg hd.chktab) fun chk =>
  rdBind (s.stubTable p pk.kimg hd.stubtab) fun stubs =>
    rdRule (!pk.mbz && hd.ok) { pk := pk, hd := hd, groups := gs, vars := vars, images := images, chk := chk, stubs := stubs }

/-- The checks of R343 in table order, then those of R386 (notes/assumptions/50.md). -/
def State.plan (s : State) (p a : Nat) : Except Nat Plan :=
  let h := s.hw
  bindOk (orFault (s.sheet p a)) fun x =>
  let pk := x.1.pk
  let hd := x.1.hd
  bindOk (require (x.2 && x.1.vars.all (progsOk pk)) 0x0602) fun _ =>
  bindOk (require (h.roomFor p pk) 0x0603) fun _ =>
  bindOk (require (groupsOk pk x.1.groups) 0x0604) fun _ =>
  let im := if pk.btab = 0 then none else some (s.brimImage p pk.btab)
  let ilv := match im with
    | some (.ok i) => i.ilv
    | _ => (h.die (h.master p)).ilv
  let place := h.placement p pk
  let cand := h.seqDies p hd.seqt
  let used := allSlots.filter fun d =>
    place.any (fun x => x.2.2 / 32 == d) || cand.contains d || ilv.contains d || d == h.master p
  match x.1.vars.find? fun v => matchesSig (h.sigma p) v.vsig v.vcare && allRoutes (h.diesOf p) h.pkg.deadSeams used with
  | none => .error 0x0605
  | some v =>
    let seqs := if (progOf v 3).isSome then cand else []
    let mk := fun b => { pk := pk, hd := hd, var := v, groups := x.1.groups, place := place, seqs := seqs, used := used
                         images := x.1.images, chk := x.1.chk, stubs := x.1.stubs, brim := b : Plan }
    match im with
    | none => .ok (mk none)
    | some (.error c) => .error c
    | some (.ok i) => bindOk (s.stageAll p i) fun ts => .ok (mk (some (i, ts)))

/-! ### The completion record (R338) -/

def State.completionRecord (s : State) (p packet ltag msiv status holds wstart : Nat) : State :=
  let v := holds % 2 ^ 64 * 2 ^ 192 + s.hw.wtick % 2 ^ 64 * 2 ^ 128 + wstart % 2 ^ 64 * 2 ^ 64 + ltag * 2 ^ 32 + status
  (s.writeLaunch p (packet + 64) (leBytes 32 v)).updHw fun h => if msiv = 0xFFFF then h else h.out (.hostVector msiv)

/-- What a launch came to, told to the graph context that waits for it (notes/assumptions/57.md). -/
def Hw.tellGraph (h : Hw) (ctx : Option Nat) (ok : Bool) : Hw :=
  match ctx with
  | none => h
  | some i => h.updPkg fun k =>
    let x := k.graphs.get (Fin.ofNat 16 i)
    { k with graphs := k.graphs.set (Fin.ofNat 16 i) (if x.waiting then { x with outcome := some ok } else x) }

/-- A refusal at selection, or of a submission to a full queue: the record and the vector. -/
def State.refuse (s : State) (p : Nat) (w : W64) (ctx : Option Nat) (code : Nat) : State :=
  let pk := match s.readLaunch p w.toNat 64 with | some bs => packetOf bs | none => packetOf (leBytes 64 (0xFFFF * 2 ^ 128))
  (s.completionRecord p w.toNat pk.ltag pk.msiv code 0 0).updHw fun h => h.tellGraph ctx false

/-! ### Submission (R342) -/

def Hw.updLaunchQueue (h : Hw) (p k : Nat) (f : List Waiting → List Waiting) : Hw :=
  h.updPart p fun q => { q with queues := q.queues.set (Fin.ofNat 4 k) (f (q.queues.get (Fin.ofNat 4 k))) }

def execLaunchSubmit (part : Nat) (addr : BitVec 64) (ctx : Option Nat) (s : State) : Out :=
  inPart part s fun s =>
    match s.packet? part addr.toNat with
    | none => s.updHw fun h => (h.updPart part fun q => { q with refused := q.refused + 1 }).tellGraph ctx false
    | some pk =>
      if 64 ≤ ((s.hw.part part).queues.get (Fin.ofNat 4 pk.prio)).length then s.refuse part addr ctx 0x0606
      else s.updHw fun h => h.updLaunchQueue part pk.prio fun q => q ++ [{ packet := addr, ctx := ctx }]

/-! ### Selection (R344-R348) -/

/-- The queue whose head is selected: aged heads first, then the highest priority. -/
def Part.pick (p : Part) : Option Nat :=
  let heads := [3, 2, 1, 0].filterMap fun k => (p.queues.get (Fin.ofNat 4 k)).head?.map fun w => (k, w)
  ((heads.find? fun x => decide (4 ≤ x.2.age)).or heads.head?).map (·.1)

/-- A start of priority k ages the heads below it. -/
def Hw.ageHeads (h : Hw) (p k : Nat) : Hw :=
  (List.range k).foldl (fun h j => h.updLaunchQueue p j fun q => match q with
    | w :: t => { w with age := w.age + 1 } :: t
    | [] => []) h

/-- A strand or a sequencer as it stands at team start: every register zero with tag NONE (R348), SRSEED seeded (R65), SVEC as
the supervisor image gives it (R358). -/
def newStrand (u : UnitClass) (code : Nat × Nat) (seed : Nat) (svec : W64) (at_ : Nat) : Strand :=
  { status := .running, unit := u, codeStart := code.1, codeLen := code.2, pc := BitVec.ofNat 64 code.1
    srseed := BitVec.ofNat 32 (Nat.xor 0x9E3779B9 seed), svec := svec, notBefore := at_ }

def unitOf (cls : Nat) : UnitClass := if cls = 0 then .m else if cls = 1 then .v else .g

/-- GRPSET of a team: its groups in ascending number. -/
def grpsOf (gs : List GroupSpec) (team : Nat) : List GrpSlot :=
  ((List.range 256).filter fun n => gs.any fun g => g.num == n && g.tmap.contains team).map fun n => { num := n }

def Die.launchReset (d : Die) : Die :=
  { d with queues := (d.queues.map fun q => (q.1, { cmds := q.2.cmds.filter (·.strand == walkerKey) })).filter (·.2.cmds != []), gemv := [], arrays := Vector.replicate 3 {}, ops := [], routes := [], links := [], counter := 0
           intersectFree := Vector.replicate 4 0 }

def State.pokeAll (s : State) (key : Nat → Nat) (rs : List (Nat × List Byte)) : State :=
  rs.foldl (fun s r => s.put (key r.1) r.2) s

/-- The code streams go to the partition's code space. -/
def State.loadCode (s : State) (p kimg : Nat) (streams : List (Nat × Nat)) : State :=
  streams.foldl (fun s e => match s.readLaunch p (kimg + e.1) e.2 with
    | some bs => s.poke (codeKey p e.1) bs
    | none => s) s

/-- When nothing starts yet. -/
def farAway : Nat := 2 ^ 64

/-- The launch steps (R348) of a plan: tables, groups, images, registers, resets, counters. The priority is that of the launch's
queue (R342). -/
def State.launchSteps (s : State) (p prio : Nat) (w : Waiting) (pl : Plan) : State :=
  let pk := pl.pk
  let svec := BitVec.ofNat 64 (s.hw.part p).svec
  let var := pl.var
  let dies := s.hw.diesOf p
  let streams := (var.progs.filterMap id).flatten
  let s1 := s.loadCode p pk.kimg streams
  let s2 := s1.updHw fun h => match pl.brim with
    | some (im, ts) => h.install p im ts
    | none => h.resetCounters p
  -- scratchpads and windows
  let s3 := pl.place.foldl (fun s x => s.pokeAll (spadKey x.2.2) (pl.images.getD x.1 [])) s2
  let s4 := pl.seqs.foldl (fun s d =>
    if Config.slotType d = .fb then s else s.pokeAll (spadKey (d * 32 + 24)) (pl.images.getD 3 [])) s3
  s4.updHw fun h =>
    let h := { h with
      strands := h.strands.filter fun x => !(dies.contains (slotOf x.1))
      cores := h.cores.filter fun c => !(dies.contains (c.1 / 32))
      pend := h.pend.filter fun q => q.part != p }
    let h := dies.foldl (fun (g : Hw) d => g.updDie d Die.launchReset) h
    let h := pl.place.foldl (fun (g : Hw) x =>
      let cls := x.1
      let team := linearTeam cls x.2.1
      let g := g.setCore x.2.2
        { team := some (cls, x.2.1), syncmask := BitVec.ofNat 4 (pl.hd.sync0 / 256 ^ cls), grps := grpsOf pl.groups team }
      let g := [0, 1, 2, 3].foldl (fun (g : Hw) c =>
        g.setStrand (x.2.2 * 4 + c) (newStrand (unitOf cls) (((progOf var cls).getD []).getD c (0, 0)) (4 * team + c) svec farAway)) g
      g.updDie (x.2.2 / 32) fun d => { d with counter := d.counter + 1 }) h
    let h := pl.seqs.foldl (fun (g : Hw) d =>
      (g.setStrand (seqOf d) (newStrand .seq (((progOf var 3).getD []).getD 0 (0, 0)) (0x800 + d) svec farAway)).updDie d fun x =>
        { x with counter := x.counter + 1 }) h
    let k : Kernel :=
      { packet := w.packet, kimg := BitVec.ofNat 64 pk.kimg, ltag := pk.ltag, msiv := pk.msiv
        devaddr := BitVec.ofNat 64 pk.devaddr, prio := prio, age := w.age, strict := pl.hd.strict, tslot := pl.hd.tslot, chkmax := pl.hd.chkmax
        seqt := pl.hd.seqt, vsig := var.vsig, vcare := var.vcare, nm := pk.nm, nv := pk.nv, ng := pk.ng, anchors := var.anchors
        chktab := pl.chk, stubtab := pl.stubs, used := pl.used, phase := .loading, ctx := w.ctx }
    h.updPart p fun q =>
      { q with
        kernel := some k, context := none, stick := 0, holds := 0, live := false, hold := none, anchors := [], lastAnchor := 0, seg := 0
        groups := pl.groups.map fun g => { num := g.num, fabric := g.type == 1, tmap := g.tmap, target := g.target }
        fabs := pl.groups.filterMap (·.fab), crown := dies.countP fun d => (h.die d).counter != 0
        mixView := allSlots.map fun d => (h.die d).mix, preemptAsked := false, preemptDue := none, preemptPend := false
        timed := [], ending := none, deadSeams := h.pkg.deadSeams, routeDies := dies, rewriteSince := none, restarting := false }

/-- A pre-empted kernel's context comes back (R346, R375 steps 1 and 2): its tables, its teams, each strand before its
RESTORE stub with every register zero; bytes outside the saved ranges are free. -/
def Strand.atRestore (st : Strand) : Strand :=
  if st.status = .parked then
    { st with
      status := .running, mode := .kernel, pc := onGrid st.restorePc, stub := true, wait := .none, notBefore := farAway
      kb := {}, v := Vector.replicate 16 {}, k := Vector.replicate 8 0, b := Vector.replicate 4 0, flags := 0, units := {}, wunits := {} }
  else st

def State.havocCore (s : State) (core : Nat) : State :=
  if hasSpad (core * 4) then
    (s.poke (spadKey core 0) ((List.range Config.spadSize).map (Config.freeByte s.hw.fresh))).updHw Hw.used
  else s

/-- `age` is what the head has come to while it waited (R344). -/
def State.restoreContext (s : State) (p : Nat) (c : StopCtx) (age : Nat) : State :=
  let cores := (c.strands.map fun x => coreOf x.1).eraseDups
  let s1 := cores.foldl State.havocCore s
  let s2 := s1.pokeAll id c.spad
  s2.updHw fun h =>
    let dies := h.diesOf p
    let h := { h with
      strands := h.strands.filter fun x => !(dies.contains (slotOf x.1))
      cores := h.cores.filter fun x => !(dies.contains (x.1 / 32))
      pend := h.pend.filter fun q => q.part != p }
    let h := c.strands.foldl (fun (g : Hw) x => g.setStrand x.1 x.2.atRestore) h
    let h := c.cores.foldl (fun (g : Hw) x => g.setCore x.1 x.2) h
    let h := c.dies.foldl (fun (g : Hw) x => g.updDie x.1 fun d =>
      { d with regions := x.2.regions, ilv := x.2.ilv, brim := x.2.brim, ctrAddr := x.2.ctrAddr, arrays := x.2.arrays
               ops := x.2.ops.map fun o => (o.1, o.2.delay ((h.part p).pclk - c.pclk))
               routes := x.2.routes, links := x.2.links, counter := x.2.counter }) h
    h.updPart p fun q =>
      { q with
        kernel := some { c.kernel with phase := .loading, restoring := true, age := age }, context := some c
        preempted := q.preempted.filter fun y => y.kernel.packet != c.kernel.packet || y.kernel.prio != c.kernel.prio
        stick := c.stick, holds := c.holds, crown := c.crown, groups := c.groups, fabs := c.fabs, live := false, hold := none
        anchors := [], preemptAsked := false, preemptDue := none, preemptPend := false, timed := [], ending := none, restarting := false
        mixView := c.mixView, deadSeams := c.deadSeams, routeDies := c.routeDies }

/-- The go of a launch or a resumption follows when its steps are done, after a free time. -/
def Hw.scheduleGo (h : Hw) (p : Nat) : Hw := (h.at (h.wtick + 1 + Config.freeLatency h.fresh) (.goBroadcast p)).used

/-- The load windows of the dies on which a kernel starts, or starts again, close (R86, notes/assumptions/89.md). -/
def Hw.shutWindows (h : Hw) (p : Nat) : Hw :=
  (h.diesOf p).foldl (fun (g : Hw) d =>
    if g.cores.any fun c => c.1 / 32 == d && c.2.team.isSome then g.updDie d fun x => { x with loadWindow := false } else g) h
/-- Those of an idle partition open. -/
def Hw.openWindows (h : Hw) (p : Nat) : Hw :=
  (h.diesOf p).foldl (fun (g : Hw) d => g.updDie d fun x => { x with loadWindow := true }) h

/-- The queue whose head goes on: that of the launch that waits for a table rewrite; else, unless a mode switch is asked for or under
way, that which R344 picks. With a mode switch asked for, a kernel under restart resumes all the same, for it is not selected
again (R346, R395, R410, R424). -/
def Hw.chosen (h : Hw) (p : Nat) : Option Nat :=
  let q := h.part p
  if h.pkg.modeAsked.isNone ∧ h.pkg.modeSwitch.isNone then (if q.rewriteSince.isSome then some q.rewritePrio else q.pick)
  else if q.restarting then q.preempted.head?.map (·.kernel.prio) else none

/-- No request that the tables placed is outstanding: none that carries the generation in force (R395 step 2). -/
def Hw.tablesDrained (h : Hw) (p : Nat) : Bool :=
  (h.part p).admitted.all fun a => a.2.2 != (h.die (h.master p)).tgen

/-- A restart that ends without its kernel: the partition is idle, its windows open. -/
def Hw.giveUp (h : Hw) (p : Nat) : Hw :=
  if (h.part p).restarting then (h.updPart p fun q => { q with restarting := false }).openWindows p else h

/-- A stopped kernel resumes, or ends where one of its dies is gone (R346). `s` has the launch out of its queue already. -/
def State.resumeHead (s : State) (part k : Nat) (w : Waiting) : State :=
  match (s.hw.part part).preempted.find? fun c => c.kernel.packet == w.packet && c.kernel.prio == k with
  | none => s.updHw fun h => h.giveUp part
  | some c =>
    if (c.strands.map fun x => slotOf x.1).all (s.hw.inPartition part) then
      (s.restoreContext part c w.age).updHw fun h => h.scheduleGo part
    else
      let s1 := s.updHw fun h => h.updPart part fun q =>
        { q with preempted := q.preempted.filter fun y => y.kernel.packet != w.packet || y.kernel.prio != k }
      (s1.completionRecord part w.packet.toNat c.kernel.ltag c.kernel.msiv 0x0607 c.holds c.kernel.wstart).updHw fun h =>
        (h.giveUp part).tellGraph c.kernel.ctx false

/-- A launch that has been selected waits for the requests that the old tables placed (R395 steps 1 and 2). -/
def Hw.awaitDrain (h : Hw) (part k : Nat) : Hw :=
  (h.updPart part fun q => { q with rewriteSince := some h.wtick, rewritePrio := k }).at (h.wtick + 2 ^ 20) (.tableDrainTimeout part)

/-- An idle partition selects a launch: refuses it, resumes it, waits for a table rewrite to drain (R395), or starts its
steps. -/
def execLaunchSelect (part : Nat) (s : State) : Out :=
  inPart part s fun s =>
    match (s.hw.part part).kernel, s.hw.chosen part with
    | none, some k =>
      let waited := (s.hw.part part).rewriteSince.isSome
      let s := s.updHw fun h => h.updPart part fun q => { q with rewriteSince := none }
      match ((s.hw.part part).queues.get (Fin.ofNat 4 k)).head? with
      | none => s
      | some w =>
        let leave := s.updHw fun h => h.updLaunchQueue part k List.tail
        if w.resumed then leave.resumeHead part k w
        else
          match s.plan part w.packet.toNat with
          | .error c => leave.refuse part w.packet w.ctx c
          | .ok pl =>
            let rewriting : Bool := match pl.brim with | some (im, _) => s.hw.rewrites part im | none => false
            if rewriting && !waited && !s.hw.tablesDrained part then s.updHw fun h => h.awaitDrain part k
            else (leave.launchSteps part k w pl).updHw fun h => (h.ageHeads part k).scheduleGo part
    | _, _ => s

/-- A rewrite not drained in 2^20 ticks: the machine check, the launch refused, the old tables in place (R395, R413). -/
def execTableDrainTimeout (part : Nat) (s : State) : Out :=
  inPart part s fun s =>
    match (s.hw.part part).rewriteSince with
    | none => s
    | some since =>
      if s.hw.wtick < since + 2 ^ 20 then s
      else
        let k := (s.hw.part part).rewritePrio
        let s1 := s.updHw fun h => (h.machineCheck (h.master part) 0x0703 [part]).updPart part fun q => { q with rewriteSince := none }
        match ((s1.hw.part part).queues.get (Fin.ofNat 4 k)).head? with
        | none => s1
        | some w => (s1.updHw fun h => h.updLaunchQueue part k List.tail).refuse part w.packet w.ctx 0x060C

/-- Whether a launch can be selected in this tick: the partition is idle, nothing of its last kernel is still landing or
moving, and no mode switch is asked for (R342, R344, R367, R424) (notes/assumptions/61.md); or the rewrite that one waits for has
drained (R395). -/
def Hw.canSelect (h : Hw) (p : Nat) : Bool :=
  let q := h.part p
  q.kernel.isNone && (h.chosen p).isSome && (h.diesOf p).any isSw &&
    (if q.rewriteSince.isSome then h.tablesDrained p
     else q.pick.isSome && h.pend.all (fun x => x.part != p) && (h.movingIn p).isEmpty)

/-! ### Go and T0 (R30, R47, R348, R375) -/

/-- Messages of a halted kernel that go nowhere. -/
def Event.ofKernel (e : Event) (p : Nat) : Bool :=
  match e with
  | .barrierArrival q _ _ _ | .barrierErrorCompletion q _ _ | .barrierRelease q _ _ _ _ _ | .readyReport q _ => q == p
  | .goBroadcast q | .kernelT0 q | .kernelEnd q | .kernelRestart q => q == p
  | _ => false

def Hw.dropMessages (h : Hw) (p : Nat) : Hw := { h with flight := h.flight.filter fun f => !f.2.ofKernel p }

/-- Kernel completion at the crown: the record, the vector, and the partition is idle (R47, R338). -/
def State.completeKernel (s : State) (p : Nat) : State :=
  match (s.hw.part p).kernel with
  | none => s
  | some k =>
    let holds := if k.strict then (s.hw.part p).holds else 0
    (s.completionRecord p k.packet.toNat k.ltag k.msiv 0 holds k.wstart).updHw fun h =>
      ((h.dropMessages p).updPart p fun q =>
        { q with kernel := none, context := none, fabs := [], anchors := [], hold := none, live := true, ending := none
                 preemptAsked := false, preemptDue := none, preemptPend := false }).tellGraph k.ctx true

/-- The strands of a partition. -/
def Hw.strandsOf (h : Hw) (p : Nat) : List Nat :=
  (h.strands.filter fun x => h.inPartition p (slotOf x.1)).map (·.1)

def Hw.updStrandsOf (h : Hw) (p : Nat) (f : Nat → Strand → Strand) : Hw :=
  { h with strands := h.strands.map fun x => if h.inPartition p (slotOf x.1) then (x.1, f x.1 x.2) else x }

/-- PHASE of the MX dies of a partition (R88). -/
def Hw.setPhase (h : Hw) (p v : Nat) : Hw := (h.diesOf p).foldl (fun (g : Hw) d => g.updDie d fun x => { x with wsph := v % 32768 }) h

/-- The partition master broadcasts go, every die being ready. In strict mode T0, or the first group of the RESTORE stubs,
falls 64 ticks later; in queued mode each die starts when it is ready. -/
def execGoBroadcast (part : Nat) (s : State) : Out :=
  inPart part s fun s => s.updHw fun h =>
    match (h.part part).kernel with
    | none => h
    | some k =>
      if k.phase ≠ .loading then h
      else if k.restoring then
        let w := if k.strict then h.wtick + 64 else h.wtick + 1
        let g := (h.updStrandsOf part fun _ st => { st with notBefore := w }).updPart part fun q =>
          { q with kernel := some { k with phase := .stopping }, live := true }
        let g := g.shutWindows part
        if k.strict then g.setPhase part (h.part part).stick else g
      else if k.strict then h.at (h.wtick + 64) (.kernelT0 part)
      else h.soon (.kernelT0 part)

/-- T0: the strands start, in queued mode die by die, each after a free time. A kernel that places nothing completes
(notes/assumptions/60.md). -/
def execKernelT0 (part : Nat) (s : State) : Out :=
  inPart part s fun s =>
    match (s.hw.part part).kernel with
    | none => s
    | some k =>
      if k.phase ≠ .loading then s
      else
        let h := s.hw
        let off := fun (d : Nat) => if k.strict then 0 else Config.freeLatency (h.fresh + d)
        let at_ := fun (i : Nat) => h.wtick + off (slotOf i)
        let starts := (h.strandsOf part).map at_
        let first := starts.foldl Nat.min (starts.headD h.wtick)
        let g := (h.updStrandsOf part fun i st => { st with notBefore := at_ i, startTick := at_ i }).updPart part fun q =>
          { q with kernel := some { k with phase := .running, wstart := first }, stick := 0, live := true }
        let g := if k.strict then g.setPhase part 0 else g
        let g := { g with fresh := g.fresh + 48 }
        let s1 : State := { s with hw := g.shutWindows part }
        if (h.part part).crown = 0 then s1.completeKernel part else s1

/-! ### Completion (R46, R47, R86, R384) -/

/-- The die counter has reached 0: the access counters, the die's event word, then the crown. -/
def execDieCompletion (slot : Nat) (s : State) : Out :=
  atSlot slot s fun s =>
    let p := s.hw.partOf slot
    match (s.hw.part p).kernel with
    | none => s
    | some k =>
      let s1 := s.writeCounters p slot
      let s2 := if k.devaddr = 0 then s1 else s1.writeLaunch p (k.devaddr.toNat + 8 * slot) (leBytes 8 s.hw.wtick)
      let s3 := s2.updHw fun h => (h.updDie slot fun d => { d with loadWindow := true }).updPart p fun q => { q with crown := q.crown - 1 }
      if (s3.hw.part p).crown = 0 then s3.completeKernel p else s3

/-! ### Ending (R367, R410, R413) -/

/-- Whether a collective waits for nothing from another rank. -/
def FabGroup.alone (f : FabGroup) (c : Coll) : Bool :=
  c.closing || c.err != 0 ||
    (!f.holds c.seq && (if f.taken c.seq then f.takenReady c
      else (f.needs c).all fun r => r == f.self || c.got.any (·.1 == r)))

/-- Collectives that wait for another rank are abandoned, with what they have on its way; their outputs stay undefined, as they
are from their issue on (R314). The others complete (R367). -/
def Hw.abandonColls (h : Hw) (p : Nat) : Hw :=
  let kept := (h.part p).fabs.flatMap fun f => (f.colls.filter f.alone).map (·.cmd)
  let gone := fun (c : XCmd) => c.part == p && xIsColl c.op && !kept.contains c.id
  let ids := h.dies.flatMap fun d => d.2.queues.flatMap fun q => (q.2.cmds.filter gone).map (·.id)
  let h1 : Hw := { h with
    transit := h.transit.filter fun t => !ids.contains t.cmd
    dies := h.dies.map fun d => (d.1, { d.2 with
      queues := d.2.queues.map fun q => (q.1, { q.2 with cmds := q.2.cmds.filter fun c => !gone c }) }) }
  h1.updPart p fun q => { q with fabs := q.fabs.map fun f => { f with colls := f.colls.filter f.alone } }

/-- Strands issue nothing more; what was accepted goes on to its completion. -/
def Hw.haltKernel (h : Hw) (p : Nat) : Hw :=
  let g := ((h.abandonColls p).dropMessages p).updStrandsOf p fun _ st =>
    { st with status := (if st.status = .retired then .retired else .idle), wait := .none }
  g.updPart p fun q =>
    { q with
      kernel := q.kernel.map fun k => { k with phase := .ending }
      groups := [], anchors := [], hold := none, live := true
      ending := none, context := none, preemptAsked := false, preemptDue := none, preemptPend := false }

/-- The kernel ends with the STATUS that was asked for; in a freeze, when it ends. -/
def execKernelEnd (part : Nat) (s : State) : Out :=
  inPart part s fun s =>
    match (s.hw.part part).kernel, (s.hw.part part).ending with
    | some k, some status =>
      if (s.hw.part part).frozen then s.updHw fun h => h.at (h.wtick + 1) (.kernelEnd part)
      else
        let holds := if k.strict then (s.hw.part part).holds else 0
        let s1 := (s.hw.diesOf part).foldl (fun s d => s.writeCounters part d) s
        (s1.completionRecord part k.packet.toNat k.ltag k.msiv status holds k.wstart).updHw fun h =>
          (h.haltKernel part).tellGraph k.ctx true
    | _, _ => s

/-- A stopped kernel re-enters the head of its queue with the age it has; the head that it displaces starts anew (R344, R345). -/
def Kernel.requeue (k : Kernel) (q : List Waiting) : List Waiting :=
  { packet := k.packet, ctx := k.ctx, age := k.age, resumed := true } :: q.map fun (w : Waiting) => { w with age := 0 }

/-- A restart (R410): the running kernel halts and waits again, at the head of its queue, with the context of its last stop;
without one it ends as KERNEL_LINING. -/
def execKernelRestart (part : Nat) (s : State) : Out :=
  inPart part s fun s => s.updHw fun h =>
    match (h.part part).kernel, (h.part part).context with
    | some k, some c =>
      if k.phase = .ending then h
      else
        let g := (h.haltKernel part).updLaunchQueue part k.prio k.requeue
        g.updPart part fun q => { q with preempted := c :: q.preempted, restarting := true }
    | some k, none => if k.phase = .ending then h else h.endKernel part 0x060B
    | none, _ => h

/-- Whether everything accepted for a halted kernel has completed (R367). Array commands queued under a lease request are granted and
run. Those of a core that asks no more, which only a later `lease` could start (R252), count as abandoned (DESIGN CHOICE,
notes/assumptions/95.md). -/
def Hw.quiet (h : Hw) (p : Nat) : Bool :=
  h.pend.all (fun q => q.part != p) && h.untimed.all (fun u => h.partOf (slotOf u.strand) != p) && (h.part p).timed.isEmpty &&
    (h.dies.all fun d => d.2.gemv.all (fun g => h.partOf (g.core / 32) != p) &&
      d.2.queues.all fun q => q.2.cmds.all fun c => c.part != p || c.strand == walkerKey) &&
    h.cores.all fun c => h.partOf (c.1 / 32) != p ||
      (c.2.iq.isEmpty && c.2.eq.isEmpty && c.2.aq.all fun x => !x.admitted && c.2.lease != .pend)

/-- A halted kernel that is quiet leaves its partition idle, and the load windows open (R86); unless it is under restart (R410). -/
def Hw.settle (h : Hw) (p : Nat) : Hw :=
  match (h.part p).kernel with
  | some k =>
    if k.phase = .ending ∧ h.quiet p = true then
      let g := h.updPart p fun q => { q with kernel := none, fabs := [] }
      if (h.part p).restarting then g else g.openWindows p
    else h
  | none => h

/-! ### Anchors (R30-R36, R265) -/

def Hw.updAnchors (h : Hw) (p : Nat) (f : AnchorRec → AnchorRec) : Hw :=
  h.updPart p fun q => { q with anchors := q.anchors.map f }

/-- Everything that a die owes before its report for an anchor: its strands have issued it or retired, and the untimed work
issued from it up to that anchor is complete (R24, R33). -/
def Hw.dieReady (h : Hw) (p slot : Nat) (a : AnchorRec) : Bool :=
  (h.strands.all fun x => slotOf x.1 != slot || x.2.status == .idle || x.2.status == .retired ||
    (match x.2.anchored with | some t => decide (a.at_ ≤ t) | none => false)) &&
    (h.untimed.all fun u => slotOf u.strand != slot || decide (a.seg < u.seg)) &&
    h.dies.all (fun d =>
      d.2.gemv.all (fun g => g.core / 32 != slot || decide (a.seg < g.seg)) &&
      d.2.queues.all fun q => q.2.cmds.all fun c => c.part != p || c.slot != slot || c.strand == walkerKey || decide (a.seg < c.seg)) &&
    h.cores.all fun c => c.1 / 32 != slot || c.2.eq.all fun e => decide (a.seg < e.seg)

/-- The reports that are due to be sent: slots, for the earliest anchor each has not reported. -/
def Hw.reportsDue (h : Hw) (p : Nat) : List Nat :=
  (h.diesOf p).filter fun d =>
    match (h.part p).anchors.find? fun a => !a.sent.contains d with
    | some a => h.dieReady p d a
    | none => false

/-- A die sends its report. -/
def Hw.sendReport (h : Hw) (p slot : Nat) : Hw :=
  match (h.part p).anchors.find? fun a => !a.sent.contains slot with
  | none => h
  | some a =>
    let g := h.updAnchors p fun x => if x.at_ = a.at_ then { x with sent := slot :: x.sent } else x
    g.sendDie p slot (h.master p) (.readyReport p slot)

/-- A report reaches the partition master; after the last late one the length of the hold is known. -/
def execReadyReport (part slot : Nat) (s : State) : Out :=
  inPart part s fun s => s.updHw fun h =>
    match (h.part part).anchors.find? fun a => !a.reports.contains slot with
    | none => h
    | some a =>
      let all := (h.diesOf part).all fun d => d == slot || a.reports.contains d
      h.updAnchors part fun x =>
        if x.at_ = a.at_ then
          { x with reports := slot :: x.reports, len := if all then x.late.map fun d => h.wtick - d else x.len }
        else x

/-- At t_a + 48 the reports that have not reached the master are late (R33). -/
def execAnchorDeadline (part : Nat) (s : State) : Out :=
  inPart part s fun s => s.updHw fun h =>
    let p := h.part part
    h.updAnchors part fun a =>
      if a.at_ + 48 = p.stick ∧ a.late = none ∧ (h.diesOf part).any (fun d => !a.reports.contains d) = true then
        { a with late := some h.wtick }
      else a

/-- Whether the next schedule tick may not come at wall tick w (R34, R35): a hold in force, an unmet explicit wait, a strand
inside a trap for which the partition holds, late reports, a freeze. -/
def Hw.heldAt (h : Hw) (p w : Nat) : Bool :=
  let q := h.part p
  q.frozen || (match q.hold with | some ⟨some u⟩ => decide (w < u) | some ⟨none⟩ => true | none => false) ||
    ((h.strandsOf p).any fun k => (h.strand k).status == .running && (decide ((h.strand k).wait ≠ .none) || (h.strand k).holding)) ||
    q.anchors.any fun a => match a.late, a.w95, a.len with
      | some _, some x, some n => decide (w < x + 1 + n)
      | some _, some _, none => true
      | _, _, _ => false

/-- The next schedule tick: anchors whose release tick it is are closed (R31), and a pre-emption request that came before
such an anchor becomes pending (R370). -/
def Hw.nextSchedule (h : Hw) (p : Nat) : Hw :=
  let q := h.part p
  let t := q.stick + 1
  let done := q.anchors.filter fun a => decide (a.at_ + 96 ≤ t)
  let last := done.foldl (fun m a => Nat.max m a.wall) q.lastAnchor
  let pend := q.preemptAsked && !q.preemptPend && (match q.preemptDue with
    | some d => done.any fun a => decide (d ≤ a.wall)
    | none => false)
  let g := h.updPart p fun q =>
    { q with stick := t, pclk := q.pclk + 1, live := true, hold := none, lastAnchor := last
             anchors := q.anchors.filter fun a => !decide (a.at_ + 96 ≤ t) }
  let g := if h.strictOf p then g.setPhase p t else g
  if pend then g.soon (.preemptPending p) else g

/-- The end of a hold, or the tick at which a resumed kernel issues again: the next schedule tick is now (R34, R375). -/
def execHoldEnd (part : Nat) (s : State) : Out :=
  inPart part s fun s => s.updHw fun h =>
    match (h.part part).kernel with
    | none => h
    | some k =>
      match k.phase with
      | .running => if (h.part part).live ∨ k.strict = false ∨ h.heldAt part h.wtick = true then h else h.nextSchedule part
      | .going w =>
        if h.wtick < w then h
        else (h.nextSchedule part).updPart part fun q => { q with kernel := some { k with phase := .running, restoring := false } }
      | _ => h

end Sys2Proof.Machine
end

