-- ==== Sys2Proof/Machine/Preempt.lean ====
section
/-! DEFINITION. Pre-emption (R345, R346, R368-R375) and the breakpoint freeze (R376). -/
namespace Sys2Proof.Machine
open Sys2Proof

/-! ### Requests (R345, R370) -/

/-- A head of higher priority waits, and the running kernel can be stopped. -/
def Hw.wantsPreempt (h : Hw) (p : Nat) : Bool :=
  let q := h.part p
  match q.kernel, q.pick with
  | some k, some j => decide (k.prio < j) && k.chkmax != 0 && q.sctx != 0 && k.phase == .running && !q.preemptAsked
  | _, _ => false

/-- The launch unit requests pre-emption: pending after 48 ticks in queued mode, at an anchor in strict mode. -/
def Hw.askPreempt (h : Hw) (p : Nat) : Hw :=
  let g := h.updPart p fun q => { q with preemptAsked := true, preemptDue := some h.wtick }
  if h.strictOf p then g else g.at (h.wtick + 48) (.preemptPending p)

def execPreemptPending (part : Nat) (s : State) : Out :=
  inPart part s fun s => s.updHw fun h =>
    match (h.part part).kernel with
    | some k =>
      if (h.part part).preemptAsked ∧ k.phase = .running then h.updPart part fun q => { q with preemptPend := true } else h
    | none => h

/-! ### Diversion of a bundle (R371) -/

/-- When a member of a bundle diverts, every member does: one whose word is not a chkpt at the group after its own word, with
the checkpoint number of the lowest-numbered diverting member. `before` gives each member as it stood at its word; a member
that was in a stub already is not diverted again. -/
def Hw.divertBundle (h : Hw) (ks : List Nat) (before : List (Nat × Strand)) : Hw :=
  let wasIn := fun (k : Nat) => match before.find? (·.1 == k) with | some (_, old) => old.stub | none => true
  match ks.find? fun k => (h.strand k).stub && !wasIn k with
  | none => h
  | some k0 =>
    let n := (h.strand k0).chk
    ks.foldl (fun g k =>
      let st := g.strand k
      if wasIn k then g
      else if st.stub then g.updStrand k fun st => { st with chk := n }
      else if st.status ≠ .running ∨ st.mode = .supervisor then g
      else
        match before.find? (·.1 == k) with
        | none => g
        | some (_, old) =>
          let after := if st.wait = .none then st.pc else st.fallThrough.pc
          match g.stubFor k after.toNat with
          | some e => g.divert k e n
          | none => (g.setStrand k old).trapOf k { cause := Cause.reserved }) h

/-! ### Parking (R372, R375) -/

/-- A closing chkpt has drained: queues and untimed work, and the rows of the core's array. Stores and register writes on their way
do not hold it, and land when they land: what lands before the stop is complete is saved (R434, notes/assumptions/11.md). -/
def Hw.canPark (h : Hw) (k : Nat) : Bool :=
  decide ((h.strand k).wait = .park) && h.settled k &&
    !(Config.slotType (slotOf k) == .mx && h.pend.any fun q => q.act.ofArray (slotOf k) (arrOf (coreOf k)))

/-- The strand record comes back at the end of a RESTORE stub; registers keep what the stub loaded, and the receive queue, which
came back before the stub, what it has received since. -/
def Strand.reinstate (st saved : Strand) : Strand :=
  { saved with
    status := .parked, wait := .none
    kb := { saved.kb with x := st.kb.x }
    v := Vector.ofFn fun i => { tag := (saved.v.get i).tag, data := (st.v.get i).data }
    k := st.k, b := st.b, stub := true, recvq := st.recvq, unaccepted := st.unaccepted }

def execStrandPark (strand : Nat) (s : State) : Out :=
  happen s fun s => s.updHw fun h =>
    if h.canPark strand = false then h
    else
      let p := h.part (h.partOf (slotOf strand))
      let g := h
      match p.kernel, p.context with
      | some k, some c =>
        if k.restoring then
          match c.strands.find? (·.1 == strand) with
          | some (_, saved) => g.updStrand strand fun st => st.reinstate saved
          | none => g.updStrand strand fun st => { st with status := .parked, wait := .none }
        else g.updStrand strand fun st => { st with status := .parked, wait := .none }
      | _, _ => g.updStrand strand fun st => { st with status := .parked, wait := .none }

/-- Every strand and every sequencer has parked or retired, and one has parked (R374). -/
def Hw.allParked (h : Hw) (p : Nat) : Bool :=
  let ks := (h.strandsOf p).map fun k => (h.strand k).status
  ks.all (fun x => x == .parked || x == .retired || x == .idle) && ks.any (· == .parked)

/-! ### Stop (R374) -/

/-- Scratchpad ranges that a strand's checkpoint entry saves. -/
def State.savedRanges (s : State) (k : Nat) : List (Nat × List Byte) :=
  let st := s.hw.strand k
  match (s.hw.chkEntries k).find? (·.n == st.chk.toNat) with
  | none => []
  | some e => if hasSpad k then e.spad.map fun r => (spadKey (coreOf k) r.1, Memory.readBytes s.mem (spadKey (coreOf k) r.1) r.2) else []

def Event.isBarrierOf (e : Event) (p : Nat) : Bool :=
  match e with
  | .barrierArrival q _ _ _ | .barrierErrorCompletion q _ _ | .barrierRelease q _ _ _ _ _ => q == p
  | _ => false

/-- The code streams of a partition's strands: a resumed kernel executes the code loaded at its launch (R127, R346). -/
def State.savedCode (s : State) (p : Nat) : List (Nat × List Byte) :=
  let streams := ((s.hw.strandsOf p).map fun k => ((s.hw.strand k).codeStart, (s.hw.strand k).codeLen)).eraseDups
  streams.map fun r => (codeKey p r.1, Memory.readBytes s.mem (codeKey p r.1) r.2)

/-- The context of a stopped kernel (notes/assumptions/14.md). -/
def State.stopContext (s : State) (p : Nat) (k : Kernel) : StopCtx :=
  let h := s.hw
  let q := h.part p
  let dies := h.diesOf p
  { kernel := k, stick := q.stick, holds := q.holds, crown := q.crown
    strands := h.strands.filter fun x => dies.contains (slotOf x.1)
    cores := h.cores.filter fun c => dies.contains (c.1 / 32)
    dies := h.dies.filter fun d => dies.contains d.1
    spad := s.savedCode p ++ (h.strandsOf p).flatMap fun i =>
      if (h.strand i).status == .parked || ((h.strand i).status == .retired && (h.strand i).stub) then s.savedRanges i else []
    groups := q.groups, fabs := q.fabs, at_ := h.wtick, pclk := q.pclk
    flight := (h.flight.filter fun f => f.2.isBarrierOf p).map fun f => (f.1 - h.wtick, f.2)
    mixView := q.mixView, deadSeams := q.deadSeams, routeDies := q.routeDies }

/-- Each die writes its context to its part of the context area, whose layout is not architectural: free bytes. -/
def State.writeContext (s : State) (p : Nat) : State :=
  let base := (s.hw.part p).sctx.toNat
  (s.hw.diesOf p).foldl (fun s d =>
    (s.writeLaunch p (base + 2 ^ 26 * d) ((List.range (2 ^ 26)).map (Config.freeByte s.hw.fresh))).updHw Hw.used) s

def execStopComplete (part : Nat) (s : State) : Out :=
  inPart part s fun s =>
    match (s.hw.part part).kernel with
    | none => s
    | some k =>
      if k.restoring ∨ s.hw.allParked part = false then s
      else
        let s := s.updHw fun h => (h.diesOf part).foldl Hw.acceptLinks h
        let c := s.stopContext part k
        (s.writeContext part).updHw fun h =>
          let g := (h.dropMessages part).updStrandsOf part fun _ _ => {}
          let g := { g with cores := g.cores.filter fun x => !((g.diesOf part).contains (x.1 / 32)) }
          let g := g.updPart part fun q =>
            { q with
              kernel := none, preempted := c :: q.preempted, context := none, preemptAsked := false, preemptDue := none
              preemptPend := false, groups := [], fabs := [], anchors := [], hold := none, live := true }
          (g.updLaunchQueue part k.prio k.requeue).openWindows part

/-! ### Resumption (R375) -/

/-- Every RESTORE stub has parked: the groups at the resume addresses issue 64 ticks later; the time away does not count
(notes/assumptions/74.md). -/
def execResumeGo (part : Nat) (s : State) : Out :=
  inPart part s fun s => s.updHw fun h =>
    match (h.part part).kernel, (h.part part).context with
    | some k, some c =>
      if k.restoring = false ∨ k.phase ≠ .stopping ∨ h.allParked part = false then h
      else
        let w := h.wtick + 64
        let g := h.updStrandsOf part fun _ st =>
          if st.status = .parked then
            { st with
              status := .running, mode := .kernel, stub := false, wait := .none, pc := st.resume, notBefore := w
              startTick := st.startTick + (w - c.at_), units := {}, wunits := {} }
          else st
        let g := { g with flight := g.flight ++ c.flight.map fun (f : Nat × Event) => (w + f.1, f.2) }
        g.updPart part fun q => { q with kernel := some { k with phase := .going w }, live := false }
    | _, _ => h

/-! ### The breakpoint freeze (R376, R421) -/

/-- A trap that waited for the end of a freeze is entered (R359, R376). -/
def Strand.enterHeld (st : Strand) (w strand : Nat) (t : HeldTrap) : Strand :=
  { (st.enterTrap w strand { cause := t.cause, info := t.info.toNat, dcode := t.dcode.toNat, stval := t.stval }) with
    held := none, clu := t.clu, bnd := t.bnd, thawed := true }

/-- The partition goes on from this tick on, and the traps that waited for it are entered. -/
def Hw.thawPart (h : Hw) (p : Nat) : Hw :=
  (h.updPart p fun q => { q with frozen := false, thawNext := false }).updStrandsOf p fun k st =>
    match st.held with
    | some t => st.enterHeld h.wtick k t
    | none => st

/-- The freeze of a partition ends: it goes on at the next tick (R376). -/
def execSdbgResume (part : Nat) (s : State) : Out :=
  inPart part s fun s => s.updHw fun h =>
    if (h.part part).frozen then h.updPart part fun q => { q with thawNext := true } else h

end Sys2Proof.Machine
end

