-- ==== Sys2Proof/Machine/Reliability.lean ====
section
/-! DEFINITION. Scrubbing and write-back (R402, R404), seam failures (R405), error banks (R411, R412), lost dies (R413),
resets of switch dies (R398). -/
namespace Sys2Proof.Machine
open Sys2Proof

/-! ### Scrub and write-back -/

/-- Ticks of one scrub pass (R404). -/
def scrubPass (m : PowerMode) : Nat := match m with | .guarded => 2 ^ 29 | _ => 2 ^ 30

/-- Coded memory of a die: weight store and accumulators, or SRAM; each with its first key, its size and its UNIT. -/
def codedSpaces (slot : Nat) : List (Nat × Nat × Nat) :=
  match Config.slotType slot with
  | .mx => (weightKey slot 0, Config.weightSize, 0x02) :: [0, 1, 2].map fun a => (accKey slot a 0, 0x40_0000, 0x03)
  | .nb => [(sramKey slot 0, Config.sramSize .nb, 0x04)]
  | .gs => [(sramKey slot 0, Config.sramSize .gs, 0x05)]
  | .sw => [(sramKey slot 0, Config.sramSize .sw, 0x06)]
  | _ => []

/-- The UNIT of a damaged word that the scrub reads at a position of its pass (notes/assumptions/55.md). -/
def scrubUnit? (slot pos pass b : Nat) : Option Nat :=
  ((codedSpaces slot).find? fun s =>
    decide (s.1 ≤ b) && decide (b < s.1 + s.2.1) && decide ((b - s.1) / 8 * pass / (s.2.1 / 8) = pos)).map (·.2.2)

/-- Words of a die that the scrub finds in error at this tick, each with its UNIT. -/
def Hw.scrubHits (h : Hw) (slot : Nat) : List (Nat × Nat) :=
  let pass := scrubPass h.pkg.mode
  (h.pkg.single ++ h.pkg.bad).filterMap fun b =>
    if (h.die slot).wbuf.all (·.1 != b) then (scrubUnit? slot (h.wtick % pass) pass b).map fun u => (b, u) else none

def Hw.scrubWork (h : Hw) (slot : Nat) : Bool := h.healthy slot && h.scrubHits slot != []

/-- The scrub reads the words of its position (R400): those that can be corrected or rebuilt are recorded and written back, and the
others poisoned; a full buffer is a hold of two ticks (R402). -/
def execScrubStep (slot : Nat) (s : State) : Out :=
  atSlot slot s fun s => s.updHw fun h =>
    let r := (h.scrubHits slot).foldl (fun (r : Hw × Bool) b =>
      let x := r.1.scanBy true slot b.2 b.1 8
      (x.1, r.2 || x.2.1)) (h, false)
    let p := h.partOf slot
    let g := if r.2 ∧ (h.die slot).mix.bound = true then r.1.holdFor p 2 else r.1
    g.updDie slot fun d => { d with scrub := h.wtick % scrubPass h.pkg.mode }

/-- Whether a scrub's write-back has waited for an idle cycle for 1,024 ticks. -/
def overdue (w : Nat) (e : Nat × Nat × Bool) : Bool := e.2.2 && decide (e.2.1 + 1024 ≤ w)

/-- The write-backs of a die that leave in this tick: of each bank the oldest, where it finds an idle cycle, which the manual leaves open,
or others stand behind a full buffer; and the scrub's that wait no longer (notes/assumptions/56.md). -/
def Hw.retiring (h : Hw) (slot : Nat) : List (Nat × Nat × Bool) :=
  let all := (h.die slot).wbuf
  let bank := fun (e : Nat × Nat × Bool) => all.filter fun x => bankKey x.1 == bankKey e.1
  all.filter fun e => overdue h.wtick e || (((bank e).head?.map (·.1)) == some e.1 &&
    ((Config.freeByte h.wtick e.1).toNat % 2 == 0 || decide (4 < (bank e).length)))

def Hw.retires (h : Hw) (slot : Nat) : Bool := h.retiring slot != []

/-- Corrected words are written back; after 1,024 ticks the scrub's takes its cycle by a hold of one tick (R404). -/
def execWritebackRetire (slot : Nat) (s : State) : Out :=
  atSlot slot s fun s => s.updHw fun h =>
    let out := h.retiring slot
    let gone := out.map (·.1)
    let g := (h.updDie slot fun d => { d with wbuf := d.wbuf.filter fun e => !gone.contains e.1 }).updPkg fun k =>
      { k with single := k.single.filter fun b => !gone.contains b, bad := k.bad.filter fun b => !gone.contains b }
    if out.any (overdue h.wtick) then g.holdFor (g.partOf slot) 1 else g

/-! ### Routes of a running kernel -/

/-- Whether a route between dies of a list, in a partition, meets a condition. -/
def Hw.routeAmong (h : Hw) (p : Nat) (ds : List Nat) (f : List Nat → Bool) : Bool :=
  ds.any fun a => ds.any fun b => a != b && (match h.route p a b with | some r => f r | none => false)

/-- Of the dies that a partition's kernel uses (R398); and of all its dies (R405). -/
def Hw.routeThrough (h : Hw) (p slot : Nat) : Bool :=
  match (h.part p).kernel with
  | none => false
  | some k => h.routeAmong p k.used fun r => r.contains slot
def Hw.someRoute (h : Hw) (p : Nat) (f : List Nat → Bool) : Bool := h.routeAmong p (h.diesOf p) f
/-- Whether a route crosses the seam of two dies. -/
def crosses (a b : Nat) (r : List Nat) : Bool :=
  (r.zip (r.drop 1)).any fun x => pairKey x.1 x.2 == pairKey a b

/-! ### Seams (R405) -/

def seamKey (a b : Nat) : Nat := (pairKey a b).1 * 64 + (pairKey a b).2

/-- The soft repair maps: 20 KiB of flash for each slot, of which the last four bytes hold the fold checksum of the others, whose
layout the manual leaves open (R414, R418; DESIGN CHOICE, notes/assumptions/10.md). -/
def mapSize : Nat := 0x5000
def mapOff (d : Nat) : Nat := 0xF0_0000 + mapSize * d
/-- The n-th set of maps that the package writes. -/
def mapBody (n d : Nat) : List Byte := (List.range (mapSize - 4)).map fun i => Config.freeByte n (mapSize * d + i)

/-- The package writes its soft repair maps. -/
def State.writeMaps (s : State) : State :=
  let n := s.hw.fresh
  (allSlots.foldl (fun s d => s.poke (flashKey (mapOff d)) (mapBody n d ++ leBytes 4 (sumWord (foldSum (0, 0) (mapBody n d))))) s).updHw
    fun h => h.used.updPkg fun k => { k with repairSeal := some n }

/-- What waits for a seam, or crosses it, crosses a tick later: its beat is sent again. -/
def Hw.resend (h : Hw) (a b : Nat) : Hw :=
  { h with transit := h.transit.map fun t => match t.hops.head? with
      | some x => if pairKey x.1 x.2 = pairKey a b then { t with ready := Nat.max t.ready h.wtick + 1 } else t
      | none => t }

/-- A beat whose CRC fails is sent again in the next tick, with a hold of two ticks in strict mode, and recorded as corrected at the
seam's lower die (notes/assumptions/90.md). The eighth failure in a row marks the seam failed in the soft repair map, with the
route-lost machine check in every partition that has a route across it. -/
def execSeamCrcFailure (a b : Nat) (s : State) : Out :=
  happen s fun s =>
    let h := s.hw
    let old := amGet h.pkg.seamFails (seamKey a b) (0, 0)
    let n := if old.2 = h.wtick ∨ old.2 + 1 = h.wtick then old.1 + 1 else 1
    let ps := (List.range 8).filter fun p => h.someRoute p (crosses a b)
    let g := ((h.resend a b).record (pairKey a b).1 1 0x09 (seamKey a b) 0 none).updPkg fun k => { k with seamFails := amSet k.seamFails (seamKey a b) (n, h.wtick) }
    let g := ps.foldl (fun (g : Hw) p => g.holdFor p 2) g
    if n < 8 then { s with hw := g }
    else
      let g := g.updPkg fun k => { k with deadSeams := if k.deadSeams.contains (pairKey a b) then k.deadSeams else k.deadSeams ++ [pairKey a b] }
      State.writeMaps { s with hw := g.machineCheckAt (pairKey a b).1 0x09 0x0704 ps }

/-! ### Lost dies (R413) -/

/-- A die's record made in another die's bank. -/
def Hw.recordFor (h : Hw) (bank slot code : Nat) : Hw :=
  if Config.slotType bank = .none then h else h.updDie bank fun d => d.note h.wtick ⟨3, 0x0D, 0, code, none, slot⟩

/-- A die stops: its strands issue nothing more, and what its engines, arrays and strands have accepted is gone, and told to the graph
contexts that wait for it. -/
def Hw.stopDie (h : Hw) (slot : Nat) : Hw :=
  let lost := (h.die slot).queues.flatMap fun q => q.2.cmds
  let g := lost.foldl (fun (g : Hw) c => g.tellGraph c.ctx false) h
  let g : Hw := { g with
    transit := g.transit.filter fun t => t.exe != slot
    untimed := g.untimed.filter fun u => slotOf u.strand != slot
    strands := g.strands.map fun x =>
      if slotOf x.1 = slot then (x.1, { x.2 with status := if x.2.status = .retired then .retired else .idle, wait := .none }) else x
    cores := g.cores.map fun c => if c.1 / 32 = slot then (c.1, { c.2 with aq := [], iq := [], eq := [], lease := .none }) else c }
  g.updDie slot fun d => { d.launchReset with queues := [] }

/-- A bound die stops responding: it reads failed, the event is recorded at the partition master, what it had accepted is lost, and the
kernel of its partition ends (notes/assumptions/71.md). -/
def execDieLost (slot : Nat) (s : State) : Out :=
  atSlot slot s fun s => s.updHw fun h =>
    if (h.die slot).mix.bound = false ∨ h.healthy slot = false then h
    else
      let p := h.partOf slot
      let g := h.updDie slot fun d => { d with mix := { d.mix with health := .failed } }
      ((g.recordFor (g.master p) slot 0x0705).stopDie slot).endKernel p 0x060C

/-! ### Error banks (R411) -/

def ErrorBank.acked (b : ErrorBank) (seq : Nat) : ErrorBank :=
  if b.seq = seq then { b with sev := 0, ovf := false, lost := 0 } else b

/-- An acknowledgement comes before the events of its tick (R412). -/
def execErrorBankAck (slot seq : Nat) (s : State) : Out :=
  atSlot slot s fun s => s.updHw fun h => h.updDie slot fun d =>
    match (d.before h.wtick).2 with
    | [] => { d with bank := d.bank.acked seq }
    | es => d.apply h.wtick ((d.before h.wtick).1.acked seq) es

/-! ### Resets of switch dies (R398) -/

/-- Partitions whose kernel has a route through a die. -/
def Hw.through (h : Hw) (slot : Nat) : List Nat := (List.range 8).filter fun p => h.routeThrough p slot

/-- A die after a reset, its queues and operators empty: so are its tables. The migration request log stays (R396). -/
def Die.afterReset (d : Die) : Die :=
  { d with regions := Vector.replicate 16 {}, brim := [], wcache := [], wbuf := [], moving := []
           resetAsked := none, loadWindow := true }

/-- The reset of a die, whose sequencer stops. -/
def Hw.resetDie (h : Hw) (slot : Nat) : Hw :=
  (h.stopDie slot).updDie slot Die.afterReset

def Hw.withdrawDie (h : Hw) (slot : Nat) : Hw :=
  (h.resetDie slot).updDie slot fun d => { d with mix := { d.mix with health := if d.mix.health = .good then .withdrawn else d.mix.health } }

/-- Whether a kernel can go on without a die: it does not use the die itself, which has no route any more (R15), its variant still
matches and its used dies keep their routes. -/
def Hw.keeps (h : Hw) (p slot : Nat) : Bool :=
  match (h.part p).kernel with
  | none => true
  | some k =>
    let dies := (h.part p).routeDies.filter (· != slot)
    let sig := ((h.diesOf p).filter (· != slot)).map fun d => 2 ^ d
    !k.used.contains slot && matchesSig sig.sum k.vsig k.vcare && allRoutes dies (h.part p).deadSeams k.used

/-- The deferred reset takes place: each partition with a route through the die keeps its kernel with new routes, or ends
it as KERNEL_NOROUTE. -/
def execSwResetApply (slot : Nat) (s : State) : Out :=
  atSlot slot s fun s => s.updHw fun h =>
    match (h.die slot).resetAsked with
    | none => h
    | some _ =>
      let g := (h.through slot).foldl (fun (g : Hw) p =>
        if h.keeps p slot then g.updPart p fun q => { q with routeDies := q.routeDies.filter (· != slot) }
        else g.endKernel p 0x0609) h
      g.withdrawDie slot

/-- The limit of 2^24 ticks, or a forced reset: at once, with the route-lost machine check. -/
def execSwResetLimit (slot : Nat) (s : State) : Out :=
  atSlot slot s fun s => s.updHw fun h =>
    match (h.die slot).resetAsked with
    | none => h
    | some _ => (h.machineCheck slot 0x0704 (h.through slot)).withdrawDie slot

/-- A deferred reset that can take place now: every strict partition with a route through the die has released an anchor
issued since the request, and no queued one runs. -/
def Hw.resetReady (h : Hw) (slot : Nat) : Bool :=
  match (h.die slot).resetAsked with
  | none => false
  | some w => (h.through slot).all fun p => h.strictOf p && decide (w ≤ (h.part p).lastAnchor) && decide (0 < (h.part p).lastAnchor)

def Hw.resetOverdue (h : Hw) (slot : Nat) : Bool :=
  match (h.die slot).resetAsked with
  | none => false
  | some w => decide (w + 2 ^ 24 ≤ h.wtick) && (h.through slot).any fun p => !h.strictOf p

end Sys2Proof.Machine
end

