-- ==== Sys2Proof/Machine/Graph.lean ====
section
/-! DEFINITION. The graph walker of SW0: contexts and the steps of their nodes (R353-R355). -/
namespace Sys2Proof.Machine
open Sys2Proof

/-! ### Contexts -/

def Hw.graph (h : Hw) (g : Nat) : GraphCtx := h.pkg.graphs.get (Fin.ofNat 16 g)
def Hw.updGraph (h : Hw) (g : Nat) (f : GraphCtx → GraphCtx) : Hw :=
  h.updPkg fun k => { k with graphs := k.graphs.set (Fin.ofNat 16 g) (f (k.graphs.get (Fin.ofNat 16 g))) }

/-- ENDV is raised; 0xFFFF is none. -/
def Hw.raiseEnd (h : Hw) (g : Nat) : Hw :=
  if (h.graph g).endv = 0xFFFF then h else h.out (.hostVector (h.graph g).endv)

/-- The context stops, at END or with a flag set. -/
def Hw.stopGraph (h : Hw) (g : Nat) (f : GraphCtx → GraphCtx) : Hw :=
  (h.updGraph g fun x => { (f x) with run := false, waiting := false, outcome := none, blockedAt := none }).raiseEnd g

def Hw.graphFault (h : Hw) (g : Nat) : Hw := h.stopGraph g fun x => { x with fault := true }

/-- On to a node, whose step comes at a later turn. -/
def Hw.toNode (h : Hw) (g n : Nat) : Hw :=
  h.updGraph g fun x => { x with node := n, waiting := false, outcome := none, blockedAt := none }

/-! ### Nodes (R354) -/

/-- The key of node i in the SRAM of SW0. -/
def graphNodeKey (i : Nat) : Nat := sramKey 0 (0x20_0000 + 64 * i)

structure Node where
  type : Nat
  next : Nat
  alt : Nat
  /-- the operand double words at bytes 8, 16, 24, 32, 40 and 48 -/
  a8 : Nat
  a16 : Nat
  a24 : Nat
  a32 : Nat
  a40 : Nat
  a48 : Nat
  iter : Nat
  mbz : Bool
  deriving DecidableEq, Repr

def graphNode (bs : List Byte) : Node :=
  let w := le bs 0 8
  { type := w % 16, next := w / 2 ^ 8 % 2 ^ 16, alt := w / 2 ^ 24 % 2 ^ 16, a8 := le bs 8 8, a16 := le bs 16 8, a24 := le bs 24 8
    a32 := le bs 32 8, a40 := le bs 40 8, a48 := le bs 48 8, iter := le bs 56 8
    mbz := w / 2 ^ 4 % 2 ^ 4 != 0 || w / 2 ^ 40 != 0 }

/-- A node as it stands; none where a word of it cannot be read. -/
def State.node? (s : State) (i : Nat) : Option Node :=
  if s.hw.badAt (graphNodeKey i) 64 then none else some (graphNode (Memory.readBytes s.mem (graphNodeKey i) 64))

/-- The step of a context at a node of a type: a node of another type, a set must-be-zero bit or an unreadable node is a graph
fault; the context must run. -/
def State.atNode (s : State) (g type : Nat) (f : Node → State) : State :=
  if (s.hw.graph g).run = false then s
  else
    match s.node? (s.hw.graph g).node with
    | none => s.updHw fun h => h.graphFault g
    | some n => if n.mbz ∨ n.type ≠ type then s.updHw fun h => h.graphFault g else f n

/-- A double word of the context's partition, at a launch address aligned to 8 (R337). -/
def State.graphWord (s : State) (g a : Nat) : Option Nat :=
  if a % 8 ≠ 0 then none else s.readLaunchNat (s.hw.graph g).part a 8

/-- ALT on a node other than LAUNCH: 0xFFFF is a graph fault. -/
def Hw.takeAlt (h : Hw) (g : Nat) (n : Node) : Hw := if n.alt = 0xFFFF then h.graphFault g else h.toNode g n.alt

/-- ALT on a LAUNCH node: 0xFFFF sets REFUSED and stops the context. -/
def Hw.launchAlt (h : Hw) (g : Nat) (n : Node) : Hw :=
  if n.alt = 0xFFFF then h.stopGraph g fun x => { x with refused := true } else h.toNode g n.alt

/-! ### Who waits for room (R350, R352) -/

/-- Requesters blocked on space, earliest block first, then by requester key: tick, key, resource. -/
def insertBlocked (x : Nat × Nat × Nat) (l : List (Nat × Nat × Nat)) : List (Nat × Nat × Nat) :=
  match l with
  | [] => [x]
  | y :: t => if x.1 < y.1 ∨ (x.1 = y.1 ∧ x.2.1 < y.2.1) then x :: y :: t else y :: insertBlocked x t

/-- Blocked strands, and blocked XFER nodes, whose keys follow those of the strands. -/
def State.waiters (s : State) : List (Nat × Nat × Nat) :=
  let h := s.hw
  let xs := h.strands.filterMap fun x => match x.2.wait with
    | .space since res => if (h.part (h.partOf (slotOf x.1))).frozen then none else some (since, x.1, res)
    | _ => none
  let gs := (List.range 16).filterMap fun g =>
    match (h.graph g).blockedAt, s.node? (h.graph g).node with
    | some t, some n => if (h.graph g).run then some (t, walkerKey + g, n.a8 % 64 * 16 + n.a8 / 2 ^ 8 % 16) else none
    | _, _ => none
  (xs ++ gs).foldl (fun l x => insertBlocked x l) []

/-- Those of a list that the free entries go to, one each. -/
def Hw.grantSpace (h : Hw) (before after : List (Nat × Nat × Nat)) : List Nat :=
  match after with
  | [] => []
  | x :: t =>
    let n := before.countP fun y => shareOf y.2.1 y.2.2 == shareOf x.2.1 x.2.2
    (if n < h.room x.2.1 x.2.2 then [x.2.1] else []) ++ Hw.grantSpace h (before ++ [x]) t

/-- What the free entries let go on: blocked strands, whose groups issue again, and XFER nodes. -/
def State.releases (s : State) : List Event :=
  (s.hw.grantSpace [] s.waiters).map fun k => if k < walkerKey then .spaceBlockRelease k else .xferNode (k - walkerKey)

/-! ### Starting (R353, R354) -/

/-- Nodes that a node leads to. -/
def Node.leads (n : Node) : List Nat :=
  (if n.type = 0 then [] else [n.next]) ++
    (if n.alt ≠ 0xFFFF ∧ (n.type = 1 ∨ n.type = 2 ∨ n.type = 3 ∨ n.type = 4 ∨ n.type = 6) then [n.alt] else [])

/-- The nodes reachable from those of a work list. -/
def State.reachNodes (s : State) (k : Nat) (work seen : List Nat) : List Nat :=
  match k with
  | 0 => seen
  | k + 1 =>
    match work with
    | [] => seen
    | i :: t =>
      if seen.contains i then State.reachNodes s k t seen
      else
        match s.node? i with
        | none => State.reachNodes s k t (i :: seen)
        | some n => State.reachNodes s k (n.leads ++ t) (i :: seen)

/-- ITER of a node. -/
def State.setIter (s : State) (i v : Nat) : State := s.put (graphNodeKey i + 56) (leBytes 8 v)

/-- GO: the context runs from NODE; ITER of the WHILE nodes of its graph is 0. -/
def execGraphContextStart (ctx : Nat) (s : State) : Out :=
  happen s fun s =>
    if (s.hw.graph ctx).run then s
    else
      let ws := (s.reachNodes (3 * 65536) [(s.hw.graph ctx).node] []).filter fun i =>
        match s.node? i with | some n => n.type == 4 | none => false
      (ws.foldl (fun s i => s.setIter i 0) s).updHw fun h =>
        h.updGraph ctx fun x => { x with run := true, waiting := false, outcome := none }

/-! ### The node steps (R354, R355) -/

/-- A node of a reserved type is a graph fault, as END's step finds. -/
def execEndNode (ctx : Nat) (s : State) : Out :=
  happen s fun s => s.atNode ctx 0 fun _ => s.updHw fun h => h.stopGraph ctx id

def execLaunchNode (ctx : Nat) (s : State) : Out :=
  happen s fun s => s.atNode ctx 1 fun n =>
    let x := s.hw.graph ctx
    let addr : W64 := BitVec.ofNat 64 n.a8
    if x.waiting then
      match x.outcome with
      | none => s
      | some true => s.updHw fun h => h.toNode ctx n.next
      | some false => s.updHw fun h => h.launchAlt ctx n
    else
      match s.packet? x.part n.a8 with
      | none => s.updHw fun h => (h.soon (.launchSubmit x.part addr none)).launchAlt ctx n
      | some pk =>
        if 64 ≤ ((s.hw.part x.part).queues.get (Fin.ofNat 4 pk.prio)).length then s
        else if n.a16 % 2 = 1 then
          s.updHw fun h => (h.updGraph ctx fun y => { y with waiting := true, outcome := none }).soon
            (.launchSubmit x.part addr (some ctx))
        else s.updHw fun h => (h.soon (.launchSubmit x.part addr none)).toNode ctx n.next

/-- cmp of a WAITV node; codes 6 and 7 are none (notes/assumptions/64.md). -/
def graphCmp (c x y : Nat) : Option Bool :=
  let a : W64 := BitVec.ofNat 64 x
  let b : W64 := BitVec.ofNat 64 y
  match c with
  | 0 => some (a == b)
  | 1 => some (a != b)
  | 2 => some (decide (b.toNat ≤ a.toNat))
  | 3 => some (decide (a.toNat < b.toNat))
  | 4 => some (decide (b.toInt ≤ a.toInt))
  | 5 => some (decide (a.toInt < b.toInt))
  | _ => none

/-- Whether a WAITV node's wait goes on. -/
def State.waitvHolds (s : State) (g : Nat) (n : Node) : Bool :=
  match s.graphWord g n.a8 with
  | none => false
  | some w => graphCmp (n.a32 % 8) (Nat.land w n.a16) n.a24 == some false

def execWaitvNode (ctx : Nat) (s : State) : Out :=
  happen s fun s => s.atNode ctx 2 fun n =>
    match s.graphWord ctx n.a8 with
    | none => s.updHw fun h => h.graphFault ctx
    | some w =>
      match graphCmp (n.a32 % 8) (Nat.land w n.a16) n.a24 with
      | none => s.updHw fun h => h.graphFault ctx
      | some true => s.updHw fun h => h.toNode ctx n.next
      | some false =>
        s.updHw fun h => h.updGraph ctx fun y =>
          { y with waiting := true, since := if y.waiting then y.since else h.wtick }

/-- Whether the timeout of a context's WAITV node has come. -/
def State.waitvOver (s : State) (g : Nat) : Bool :=
  let x := s.hw.graph g
  x.run && x.waiting &&
    match s.node? x.node with
    | some n => n.type == 2 && !n.mbz && n.a40 != 0 && decide (x.since + n.a40 ≤ s.hw.wtick)
    | none => false

def execWaitvTimeout (ctx : Nat) (s : State) : Out :=
  happen s fun s => s.atNode ctx 2 fun n => if s.waitvOver ctx then s.updHw fun h => h.takeAlt ctx n else s

def execCondNode (ctx : Nat) (s : State) : Out :=
  happen s fun s => s.atNode ctx 3 fun n =>
    match s.graphWord ctx n.a8 with
    | none => s.updHw fun h => h.graphFault ctx
    | some w => s.updHw fun h => if Nat.land w n.a16 ≠ 0 then h.toNode ctx n.next else h.takeAlt ctx n

def execWhileNode (ctx : Nat) (s : State) : Out :=
  happen s fun s => s.atNode ctx 4 fun n =>
    match s.graphWord ctx n.a8 with
    | none => s.updHw fun h => h.graphFault ctx
    | some w =>
      let c := Nat.land w n.a16 != 0
      let i := (s.hw.graph ctx).node
      if c && decide (n.iter < n.a24) then
        (if n.alt = 0xFFFF then s else s.setIter i (n.iter + 1)).updHw fun h => h.takeAlt ctx n
      else
        (s.setIter i 0).updHw fun h => (h.updGraph ctx fun y => { y with limit := y.limit || c }).toNode ctx n.next

def execSignalNode (ctx : Nat) (s : State) : Out :=
  happen s fun s => s.atNode ctx 5 fun n =>
    let p := (s.hw.graph ctx).part
    match (if n.a8 % 8 ≠ 0 then none else s.hw.launchKey p n.a8 8) with
    | none => s.updHw fun h => h.graphFault ctx
    | some k => (s.put k (leBytes 8 n.a16)).updHw fun h => h.toNode ctx n.next

/-- Who enqueues for a context: the master of its partition, with no window and no group. -/
def Hw.walkerOf (h : Hw) (p : Nat) : Enqueuer := { part := p, slot := h.master p }

/-- Whether `enq` would accept the command of an XFER node (notes/assumptions/47.md). -/
def Hw.xferOk (h : Hw) (p : Nat) (n : Node) (op : XOp) : Bool :=
  let e := h.walkerOf p
  let exe := n.a8 % 64
  let q := n.a8 / 2 ^ 8 % 16
  h.xTarget e exe q op && !xIsColl op && h.xCheck e exe q op (BitVec.ofNat 64 n.a16) (BitVec.ofNat 64 n.a24) (BitVec.ofNat 64 n.a32)

/-- An XFER node enters its queue when one more entry is free than requesters wait there before it (R350, R352). -/
def State.xferTurn (s : State) (ctx exe q : Nat) : Bool :=
  let res := exe * 16 + q
  let ahead := (s.waiters.takeWhile fun y => y.2.1 != walkerKey + ctx).countP fun y => y.2.2 == res
  decide (ahead < s.hw.room walkerKey res)

def execXferNode (ctx : Nat) (s : State) : Out :=
  happen s fun s => s.atNode ctx 6 fun n =>
    let x := s.hw.graph ctx
    let exe := n.a8 % 64
    let q := n.a8 / 2 ^ 8 % 16
    if x.waiting then
      match x.outcome with
      | none => s
      | some true => s.updHw fun h => h.toNode ctx n.next
      | some false => s.updHw fun h => h.takeAlt ctx n
    else
      match XOp.ofMajor (n.a40 % 128) with
      | none => s.updHw fun h => h.takeAlt ctx n
      | some op =>
        s.updHw fun h =>
          if h.xferOk x.part n op = false then h.takeAlt ctx n
          else if s.xferTurn ctx exe q = false then
            h.updGraph ctx fun y => { y with blockedAt := match y.blockedAt with | some t => some t | none => some h.wtick }
          else
            let wait := n.a48 % 2 == 1
            let g := h.xAccept (h.walkerOf x.part) exe q op (BitVec.ofNat 64 n.a16) (BitVec.ofNat 64 n.a24) (BitVec.ofNat 64 n.a32) 0 0
              walkerKey (if wait then some ctx else none) [] 0 0
            if wait then g.updGraph ctx fun y => { y with waiting := true, outcome := none, blockedAt := none } else g.toNode ctx n.next

def execHostNode (ctx : Nat) (s : State) : Out :=
  happen s fun s => s.atNode ctx 7 fun n => s.updHw fun h => (h.out (.hostVector (n.a8 % 2 ^ 16))).toNode ctx n.next

/-! ### The walker's turns (R355) -/

/-- Whether a LAUNCH node waits for room in its queue (R342). -/
def State.launchFull (s : State) (p a : Nat) : Bool :=
  match s.packet? p a with
  | none => false
  | some pk => decide (64 ≤ ((s.hw.part p).queues.get (Fin.ofNat 4 pk.prio)).length)

/-- The event that is the next step of a context; none when it does not run, or waits for what has not come and so passes its
turn on. An XFER node that waits for room goes on when it is given some (R350). -/
def State.nodeEvent (s : State) (g : Nat) : Option Event :=
  let x := s.hw.graph g
  if x.run = false then none
  else
    match s.node? x.node with
    | none => some (.endNode g)
    | some n =>
      match n.type with
      | 1 => if (x.waiting && x.outcome.isNone) || (!x.waiting && s.launchFull x.part n.a8) then none else some (.launchNode g)
      | 2 => if x.waiting && s.waitvHolds g n then none else some (.waitvNode g)
      | 3 => some (.condNode g)
      | 4 => some (.whileNode g)
      | 5 => some (.signalNode g)
      | 6 => if (x.waiting && x.outcome.isNone) || x.blockedAt.isSome then none else some (.xferNode g)
      | 7 => some (.hostNode g)
      | _ => some (.endNode g)

/-- One node step: that of the next context, in turn, that has one. -/
def State.walkerTurn (s : State) : State :=
  if s.hw.healthy 0 = false then s
  else
    let order := (List.range 16).map fun i => (s.hw.pkg.walker + i) % 16
    match order.findSome? fun g => (s.nodeEvent g).map fun e => (g, e) with
    | none => s
    | some (g, e) => s.updHw fun h => (h.updPkg fun k => { k with walker := (g + 1) % 16 }).soon e

end Sys2Proof.Machine
end

