-- ==== Sys2Proof/Machine/Manage.lean ====
section
/-! DEFINITION. The management controller: verified boot (R414-R418), the mix register and the binding of logical devices
(R390, R419), the management port (R421, R422), ageing (R423), power modes (R424), identity and attestation (R420). -/
namespace Sys2Proof.Machine
open Sys2Proof

/-! ### Flash and images (R414-R416) -/

def State.flash (s : State) (off n : Nat) : List Byte := Memory.readBytes s.mem (flashKey off) n

/-- First byte of bank A (0) and of bank B (1). -/
def bankBase (b : Nat) : Nat := if b = 0 then 0x10_0000 else 0x80_0000

/-- The two public keys of the key record (R414). -/
def State.edKey (s : State) : List Byte := s.flash 0 32
def State.mlKey (s : State) : List Byte := s.flash 32 1952

/-- The header of a signed image of a kind that passes: both signatures verify, over the header followed by the body (R415). -/
def State.image? (s : State) (off kind : Nat) : Option (List Byte) :=
  let hd := s.flash off 128
  let len := le hd 12 4
  let msg := hd ++ s.flash (off + 3520) len
  if le hd 0 4 = 0x394D_464B ∧ le hd 4 4 = kind ∧ len ≤ 0x30_0000 ∧ (hd.drop 20).all (· == 0) = true ∧
      (s.flash (off + 3501) 19).all (· == 0) = true ∧ edVerify s.edKey msg (s.flash (off + 128) 64) = true ∧
      mlVerify s.mlKey msg (s.flash (off + 192) 3309) = true then some hd
  else none

def imageSvn (hd : List Byte) : Nat := le hd 8 4
def imageLen (hd : List Byte) : Nat := le hd 12 4

/-- Whether the key record is the one whose digests the boot ROM holds. -/
def State.keysHold (s : State) : Bool :=
  sha384 s.edKey == Config.romDigest 0 && sha384 s.mlKey == Config.romDigest 1

/-- The bank whose firmware starts, with its header, from those of the images that pass: of two the one with the higher SVN, bank A
on a tie. None where the key record is another. -/
def chooseBank (keys : Bool) (a b : Option (List Byte)) : Option (Nat × List Byte) :=
  if keys = false then none
  else
    match a, b with
    | some a, some b => if imageSvn a < imageSvn b then some (1, b) else some (0, a)
    | some a, none => some (0, a)
    | none, some b => some (1, b)
    | none, none => none

/-- Where the supervisor image of a bank begins. -/
def supervisorAt (bank fwLen : Nat) : Nat := bankBase bank + (3520 + fwLen + 4095) / 4096 * 4096

/-- A partition's bring-up: its supervisor image is verified and loaded, or it is left without one (R356, R416)
(notes/assumptions/17.md). -/
def State.bringUp (s : State) (p : Nat) : State :=
  let off := supervisorAt s.hw.pkg.bank (imageLen s.hw.pkg.fwHeader)
  match s.image? off 2 with
  | none => s.updHw fun h => h.updPart p fun q => { q with supervisor := false, supLen := 0, supHeader := [] }
  | some hd =>
    let body := s.flash (off + 3520) (imageLen hd)
    (s.poke (supKey p 0) body).updHw fun h => h.updPart p fun q =>
      { q with supervisor := true, supLen := imageLen hd, supHeader := hd, svec := Config.trapEntry (hd ++ body) % 2 ^ 62 * 4 }

/-! ### Boot (R417, R418) -/

/-- Memory that a package reset leaves: the host's, other packages', the flash. -/
def keptKey (k : Nat) : Bool := k / 2 ^ 80 == 6 || k / 2 ^ 80 == 8 || k / 2 ^ 80 == 15

/-- The entry that self-test gives a slot. -/
def bootEntry (boot slot : Nat) : MixEntry :=
  let t := Config.slotType slot
  let health : Health := if t = .none then .absent else if Config.selfTestFails boot slot then .failed else .good
  { type := Config.typeCode t, health := health, cap := Config.capOf slot }

/-- Seams that do not train. -/
def bootSeams (boot : Nat) : List (Nat × Nat) :=
  allSlots.flatMap fun a => (allSlots.filter fun b => decide (a < b) && link [] a b && Config.seamFails boot a b).map fun b => (a, b)

/-- The body of a die's soft repair map in flash, if its checksum holds (R418). -/
def State.loadMap (s : State) (d : Nat) : Option (List Byte) :=
  let m := s.flash (mapOff d) mapSize
  let body := m.take (mapSize - 4)
  if leNat (m.drop (mapSize - 4)) = sumWord (foldSum (0, 0) body) then some body else none

/-- Seams that a die's map marks: those marked so far, while the map is as the package wrote it; none where it is discarded (R405,
R418). -/
def State.mapMarks (s : State) (d : Nat) : List (Nat × Nat) :=
  match s.loadMap d, s.hw.pkg.repairSeal with
  | none, _ => []
  | some body, some n => if body = mapBody n d then s.hw.pkg.deadSeams.filter (·.1 == d) else (Config.mapSeams body).filter (·.1 == d)
  | some body, none => (Config.mapSeams body).filter (·.1 == d)
def State.mappedSeams (s : State) : List (Nat × Nat) := allSlots.flatMap s.mapMarks

/-- The identity record: the certificate chains of every die. -/
def State.identity (s : State) : List Byte := s.flash 0x1_0000 0xF_0000

/-- What a die derives at a boot: the seed of its key (R420). -/
def State.dieSeed (s : State) (boot d : Nat) : List Byte :=
  (Config.pufSeed (Config.puf boot d) (Config.helperData d s.identity)).take 32

/-- The next step of the boot begins; it takes a free time (R417, notes/assumptions/10.md). -/
def Hw.bootOn (h : Hw) (step : Nat) : Hw :=
  (h.updPkg fun k => { k with bootStep := step, bootDue := some (h.wtick + 1 + Config.freeLatency h.fresh) }).used

/-- Package reset: the boot begins with step 1. -/
def execPackageReset (s : State) : Out :=
  happen s fun s =>
    let k := s.hw.pkg
    { mem := s.mem.filter fun c => keptKey c.1
      hw := Hw.bootOn { fresh := s.hw.fresh, seq := s.hw.seq
                        pkg := { boots := k.boots + 1, pkgId := k.pkgId, outputs := k.outputs, inbox := k.inbox
                                 deadSeams := k.deadSeams, repairSeal := k.repairSeal } } 1 }

/-- What the self-test leaves: the soft repair maps, written anew, and in each die the map in force (R418). -/
def State.selfTest (s : State) : State :=
  let n := s.hw.fresh
  (s.updHw fun h => h.updPkg fun k => { k with deadSeams := s.mappedSeams }).writeMaps.updHw fun h =>
    { h with dies := allSlots.map fun d => (d, { repair := mapBody n d }) }

/-- Step 4: the mix register, and the seeds of the die keys (R419, R420). -/
def State.enumerate (s : State) : State :=
  let boot := s.hw.pkg.boots - 1
  s.updHw fun h => { h with dies := allSlots.map fun d =>
    (d, { h.die d with mix := bootEntry boot d, seed := if Config.slotType d = .none then [] else s.dieSeed boot d }) }

/-- Step 6: the supervisor images of the partitions that are bound (R416, R417). -/
def State.bringUpAll (s : State) : State :=
  (List.range 8).foldl (fun s p => if (s.hw.diesOf p).any isSw then s.bringUp p else s) s

/-- The end of a step of the boot (R416-R418). Step 1 examines bank A, then bank B; without firmware that passes the package stands in
recovery, with nothing but the management port. Step 2 is the self-test, with the soft repair maps reloaded before and written
after it; step 3 the training of the seams; step 4 writes the mix register and derives the identities; then come the fabric ports with the
clock servo, and the host port with the supervisor images. -/
def State.bootStage (s : State) : State :=
  let k := s.hw.pkg
  match k.bootStep with
  | 1 =>
    let head := s.image? (bankBase k.bootHeads.length) 1
    match k.bootHeads with
    | [] => s.updHw fun h => (h.updPkg fun k => { k with bootHeads := [head] }).bootOn 1
    | a :: _ =>
      match chooseBank s.keysHold a head with
      | none => s.updHw fun h => h.updPkg fun k => { k with recovery := true, bootDue := none, bootHeads := [] }
      | some (b, hd) => s.updHw fun h => (h.updPkg fun k => { k with bank := b, fwHeader := hd, bootHeads := [] }).bootOn 2
  | 2 => s.selfTest.updHw fun h => h.bootOn 3
  | 3 =>
    s.updHw fun h => (h.updPkg fun k => { k with deadSeams := (bootSeams (k.boots - 1) ++ k.deadSeams).eraseDups }).bootOn 4
  | 4 => s.enumerate.updHw fun h => h.bootOn 5
  | 5 =>
    s.updHw fun h => (h.updPkg fun k =>
      { k with clock := .free, ownClock := { k.ownClock with priority1 := Config.ptpPriority k.boots % 256 } }).bootOn 6
  | _ => s.bringUpAll.updHw fun h => h.updPkg fun k => { k with bootDue := none }

/-- A step of the boot ends when its time is over. -/
def State.bootTick (s : State) : State :=
  match s.hw.pkg.bootDue with
  | none => s
  | some w => if w ≤ s.hw.wtick then s.bootStage else s

/-! ### Binding (R390) -/

/-- A die can be bound or unbound: it is unbound, or its partition is idle with no pre-empted kernel that includes it. -/
def Hw.rebindable (h : Hw) (slot : Nat) : Bool :=
  let p := h.part (h.partOf slot)
  !(h.die slot).mix.bound || (p.idle && p.preempted.all fun c => !c.kernel.used.contains slot)

def Hw.accepted (h : Hw) (ok : Bool) : Hw := h.out (.hostData ok [])

/-! ### The management port (R416, R421) -/

def stOk : Nat := 0x00
def stBusy : Nat := 0x01
def stRefused : Nat := 0x02
def stBadArg : Nat := 0x03

def State.answer (s : State) (code : Nat) (data : List Byte) : State := s.updHw fun h => h.out (.reply code data)
def Hw.say (h : Hw) (code : Nat) : Hw := h.out (.reply code [])

/-- The mix register is written, and the firmware serves every message (notes/assumptions/10.md). -/
def Package.serves (k : Package) : Bool := decide (5 ≤ k.bootStep) && !k.recovery

/-- The four commands that the boot ROM serves too, in recovery (R416). -/
def State.servedEarly (s : State) (f : State → State) : State := if s.hw.pkg.bootStep = 0 then s else f s
/-- Any other command: recovery does not answer it, and earlier in the boot it is answered BUSY. -/
def State.served (s : State) (f : State → State) : State :=
  if s.hw.pkg.serves then f s else if s.hw.pkg.bootStep = 0 ∨ s.hw.pkg.recovery = true then s else s.answer stBusy []
/-- A message of a standard, which has no such status. -/
def State.servedStd (s : State) (f : State → State) : State := if s.hw.pkg.serves then f s else s

/-- A die of any health may be bound. The first healthy SW die brings its partition up, or, where
the boot has not ended, its last step does (R416, R417; notes/assumptions/65.md). -/
def execBindLd (slot part : Nat) (s : State) : Out :=
  happen s fun s => s.served fun s =>
    let h := s.hw
    if 48 ≤ slot ∨ 8 ≤ part ∨ Config.slotType slot = .none ∨ h.rebindable slot = false then s.updHw fun h => h.accepted false
    else
      let up := (h.diesOf part).any isSw
      let s1 := s.updHw fun h => (h.unadmit slot).updDie slot fun d => { d with mix := { d.mix with bound := true, part := part } }
      let s2 := if s.hw.pkg.up = true ∧ up = false ∧ (s1.hw.diesOf part).any isSw = true then s1.bringUp part else s1
      s2.updHw fun h => h.accepted true

def execUnbindLd (slot : Nat) (s : State) : Out :=
  happen s fun s => s.served fun s =>
    s.updHw fun h =>
      if 48 ≤ slot ∨ Config.slotType slot = .none ∨ h.rebindable slot = false then h.accepted false
      else ((h.unadmit slot).updDie slot fun d => { d with mix := { d.mix with bound := false, part := 0 } }).accepted true

/-! ### Management messages (R421) -/

/-- A slot that holds a die. -/
def dieSlot (slot : Nat) : Bool := decide (slot < 48) && Config.slotType slot != .none

def modeCode : PowerMode → Nat
  | .full => 0 | .efficient => 1 | .guarded => 2

/-- Boot step, selected bank, recovery flag, mode, freeze state: a byte each, in that order. -/
def execStatus (s : State) : Out :=
  happen s fun s =>
    let k := s.hw.pkg
    s.answer stOk ([k.bootStep, k.bank, k.recovery.toNat, modeCode k.mode, k.frozen.toNat].map (BitVec.ofNat 8))

/-- RESET with argument 0: answered, then the package is reset. -/
def execReset (s : State) : Out := happen s fun s => (s.answer stOk []).updHw fun h => h.soon .packageReset

/-- RESET of a die: of a SW die on a route of a running kernel, deferred; of another SW die, at once; of any other die only
when it is unbound. A reset by itself changes no health (R398, R419) (notes/assumptions/66.md). -/
def execDieReset (slot : Nat) (s : State) : Out :=
  happen s fun s => s.servedEarly fun s => s.updHw fun h =>
    if dieSlot slot = false then h.say stBadArg
    else if isSw slot then
      if h.through slot = [] then (h.resetDie slot).say stOk
      else (h.updDie slot fun d => { d with resetAsked := some h.wtick }).say stOk
    else if (h.die slot).mix.bound then h.say stBusy
    else (h.resetDie slot).say stOk

/-! ### Freezing (R422) -/

/-- HBM4E and LPDDR6 go into self-refresh, or leave it. -/
def Hw.refreshDram (h : Hw) (on : Bool) : Hw :=
  (allSlots.filter fun d => Config.slotType d == .nb || Config.slotType d == .fb).foldl
    (fun (g : Hw) d => g.updDie d fun x => { x with selfRefresh := on }) h

def execFreeze (s : State) : Out :=
  happen s fun s => s.served fun s => s.updHw fun h =>
    if h.pkg.frozen then h.say stOk
    else ((h.refreshDram true).updPkg fun k => { k with frozen := true, frozenAt := h.wtick }).say stOk

/-- The clocks resume at their counts; the servo restarts in ACQUIRING. -/
def execThaw (s : State) : Out :=
  happen s fun s => s.served fun s => s.updHw fun h =>
    if h.pkg.frozen then
      ((h.refreshDram false).updPkg fun k => { k with frozen := false, clock := .acquiring, clockSince := h.wtick }).say stOk
    else h.say stOk

/-- RESUME ends a breakpoint freeze, as a write of SDBG.RES. -/
def execResume (part : Nat) (s : State) : Out :=
  happen s fun s => s.served fun s => s.updHw fun h =>
    if 8 ≤ part then h.say stBadArg else (h.updPart part fun q => { q with thawNext := q.thawNext || q.frozen }).say stOk

/-! ### Health (R419) -/

def execWithdraw (slot : Nat) (s : State) : Out :=
  happen s fun s => s.served fun s => s.updHw fun h =>
    if dieSlot slot = false then h.say stBadArg
    else if (h.die slot).mix.bound then h.say stBusy
    else (h.updDie slot fun d => { d with mix := { d.mix with health := .withdrawn } }).say stOk

def execRestore (slot : Nat) (s : State) : Out :=
  happen s fun s => s.served fun s => s.updHw fun h =>
    if dieSlot slot = false then h.say stBadArg
    else if (h.die slot).mix.bound then h.say stBusy
    else if Config.selfTestFails (h.pkg.boots - 1) slot then h.say stRefused
    else (h.updDie slot fun d => { d with mix := { d.mix with health := .good } }).say stOk

/-! ### Power modes (R424) -/

/-- A second request replaces a pending one. -/
def execSetmode (mode : PowerMode) (s : State) : Out :=
  happen s fun s => s.served fun s => s.updHw fun h => (h.updPkg fun k => { k with modeAsked := some mode }).say stOk

/-- No partition has a running kernel, and no switch is under way. -/
def Hw.canSwitch (h : Hw) : Bool :=
  h.pkg.modeAsked.isSome && h.pkg.modeSwitch.isNone && h.parts.toList.all Part.idle

/-- The clock changes; the switch takes 2^16 ticks of the new one. -/
def execModeSwitch (s : State) : Out :=
  happen s fun s => s.updHw fun h =>
    match h.pkg.modeAsked with
    | none => h
    | some m =>
      if h.canSwitch then
        h.updPkg fun k => { k with mode := m, modeAsked := none, modeSwitch := some (h.wtick + 2 ^ 16) }
      else h

/-! ### Ageing (R423) -/

def Ageing.word (a : Ageing) : Nat :=
  a.eol.toNat * 2 ^ 48 + a.rod.toNat * 2 ^ 32 + a.eye.toNat * 2 ^ 24 + a.ret.toNat * 2 ^ 16 + a.hbmt.toNat

def execAgeing (slot : Nat) (s : State) : Out :=
  happen s fun s => s.served fun s =>
    if dieSlot slot = false then s.answer stBadArg [] else s.answer stOk (leBytes 8 (s.hw.die slot).ageing.word)

/-- The record is made anew from the monitors, whose readings are free but for the count of corrected HBM4E errors. -/
def execAgeingUpdate (slot : Nat) (s : State) : Out :=
  atSlot slot s fun s => s.updHw fun h =>
    let v := Config.ageing slot h.fresh
    (h.updDie slot fun d =>
      { d with
        hbmFixed := 0
        ageing :=
        { eol := v.extractLsb' 48 16, rod := v.extractLsb' 32 16, eye := v.extractLsb' 24 8
          ret := if Config.slotType slot = .mx then v.extractLsb' 16 8 else 0
          hbmt := if Config.slotType slot = .nb then BitVec.ofNat 16 (Nat.min d.hbmFixed 0xFFFF) else 0 } }).used

/-! ### Flash (R421) -/

def flashPage (off : Nat) : Bool := off % 4096 == 0 && decide (off + 4096 ≤ Config.flashSize)

/-- The bank that holds an offset of the flash. -/
def bankAt (off : Nat) : Option Nat :=
  if 0x10_0000 ≤ off ∧ off < 0x80_0000 then some 0 else if 0x80_0000 ≤ off ∧ off < 0xF0_0000 then some 1 else none
/-- The bank that the boot ROM is reading. -/
def Package.reads (k : Package) : Option Nat := if k.bootStep = 1 ∧ k.bootDue.isSome = true then some k.bootHeads.length else none

/-- A write to a bank while the other one is being read at boot returns BUSY. -/
def execFlashwr (off : Nat) (data : List (BitVec 8)) (s : State) : Out :=
  happen s fun s => s.servedEarly fun s =>
    if flashPage off = false ∨ data.length ≠ 4096 then s.answer stBadArg []
    else if (bankAt off).isSome = true ∧ s.hw.pkg.reads.isSome = true ∧ bankAt off ≠ s.hw.pkg.reads then s.answer stBusy []
    else (s.poke (flashKey off) data).answer stOk []

def execFlashrd (off : Nat) (s : State) : Out :=
  happen s fun s => s.servedEarly fun s =>
    if flashPage off = false then s.answer stBadArg []
    else s.answer stOk (s.flash off 4096)

/-! ### MCTP control (R421) -/

/-- n free bytes. -/
def Hw.freeBytes (h : Hw) (n : Nat) : List Byte := (List.range n).map (Config.freeByte h.fresh)
/-- A reply in a message of another standard. -/
def State.say (s : State) (type : Nat) (doe : Bool) (bs : List Byte) : State := s.updHw fun h => (h.out (.message type doe bs)).used

/-- VNDR of the firmware in force (R415). -/
def Package.vendor (k : Package) : Nat := le k.fwHeader 16 4

/-- What an MCTP control command is answered, its completion code first. The layouts are those of DSP0236: the endpoint's identifiers
are free, its messages those of R421, and a command that is not there is not supported (notes/assumptions/20.md). -/
def Hw.mctpAnswer (h : Hw) (cmd : Nat) : List Byte :=
  match cmd with
  | 1 => [0, 0] ++ h.freeBytes 1 ++ [0]
  | 2 => [0] ++ h.freeBytes 1 ++ [0] ++ h.freeBytes 1
  | 3 => [0] ++ h.freeBytes 16
  | 4 => [0, 1, 0xF1, 0xF3, 0xFF, 0x00]
  | 5 => [0, 3, 0x05, 0x07, 0x7F]
  | 6 => [0, 0xFF, 0x01] ++ bytesBE 4 h.pkg.vendor ++ h.freeBytes 2
  | _ => [5]

def execMctpControl (cmd : Nat) (s : State) : Out :=
  happen s fun s => s.servedStd fun s => s.say 0 false ([0, 0, BitVec.ofNat 8 cmd] ++ s.hw.mctpAnswer cmd)

/-! ### SPDM (R420), with the layouts of SPDM 1.3 (notes/assumptions/20.md) -/

def spdmType : Nat := 0x05
/-- A response: its version and code, two parameters, and what follows. -/
def State.spdm (s : State) (doe : Bool) (code p1 p2 : Nat) (bs : List Byte) : State :=
  s.say spdmType doe ([0x13, BitVec.ofNat 8 code, BitVec.ofNat 8 p1, BitVec.ofNat 8 p2] ++ bs)
/-- ERROR with its code. -/
def State.spdmError (s : State) (doe : Bool) (code data : Nat) : State := s.spdm doe 0x7F code data []

/-- VERSION: 1.3 and no other. -/
def execGetVersion (doe : Bool) (s : State) : Out :=
  happen s fun s => s.servedStd fun s => s.say spdmType doe [0x10, 0x04, 0, 0, 0, 1, 0x00, 0x13]

/-- A reply of n bytes with those at some places given, the rest free. -/
def Hw.replyWith (h : Hw) (n : Nat) (given : List (Nat × Nat)) : List Byte :=
  (List.range n).map fun i =>
    match given.find? (·.1 == i) with
    | some x => BitVec.ofNat 8 x.2
    | none => Config.freeByte h.fresh i

/-- CAPABILITIES: certificates, challenges, signed measurements; none of what R420 lists as not supported. Two bits that R420 does not
settle, for cached and for fresh measurements, are free. -/
def execGetCapabilities (doe : Bool) (s : State) : Out :=
  happen s fun s => s.servedStd fun s =>
    let free := (Config.freeByte s.hw.fresh 100).toNat
    s.say spdmType doe (s.hw.replyWith 20
      [(0, 0x13), (1, 0x61), (2, 0), (3, 0), (4, 0), (6, 0), (7, 0), (8, 0x16 + free % 2 + free / 2 % 2 * 32), (9, 0), (10, 0), (11, 0)])

/-- ALGORITHMS: Ed25519 and SHA-384, and no key exchange. -/
def execNegotiateAlgorithms (doe : Bool) (s : State) : Out :=
  happen s fun s => s.servedStd fun s =>
    s.say spdmType doe (s.hw.replyWith 36 ([(0, 0x13), (1, 0x63), (4, 36), (6, 1), (8, 4), (13, 4), (16, 2)] ++
      (([2, 3, 5, 9, 10, 11, 12, 14, 15] ++ (List.range 19).map (17 + ·)).map fun i => (i, 0))))

/-- Bytes of the DER value at the head of a list. -/
def derSize (bs : List Byte) : Nat :=
  let n := (bs.getD 1 0).toNat
  if n < 0x80 then 2 + n else 2 + n % 0x80 + natOfBE ((bs.drop 2).take (n % 0x80))

/-- The certificate chain of SW0, whose die key is the package's attestation key: its length, the digest of its root, and its
certificates. -/
def State.chain (s : State) : List Byte :=
  let certs := Config.certificates 0 s.identity
  bytesLE 2 (52 + certs.length) ++ [0, 0] ++ sha384 (certs.take (derSize certs)) ++ certs

/-- DIGESTS: one slot. -/
def execGetDigests (doe : Bool) (s : State) : Out :=
  happen s fun s => s.servedStd fun s => s.spdm doe 0x01 1 1 (sha384 s.chain)

/-- CERTIFICATE: a portion of the chain of slot 0, and how much remains; an error for another slot, or beyond the end. -/
def execGetCertificate (doe : Bool) (certSlot off len : Nat) (s : State) : Out :=
  happen s fun s => s.servedStd fun s =>
    let c := s.chain
    if certSlot ≠ 0 ∨ c.length ≤ off then s.spdmError doe 0x01 0
    else
      let bs := (c.drop off).take len
      s.spdm doe 0x02 0 0 (bytesLE 2 bs.length ++ bytesLE 2 (c.length - off - bs.length) ++ bs)

/-- What stands before a digest that is signed: the version four times, zeros, and the purpose. -/
def spdmPrefix (purpose : String) : List Byte :=
  let ascii := fun (t : String) => t.toList.map fun c => BitVec.ofNat 8 c.toNat
  let v := (List.replicate 4 (ascii "dmtf-spdm-v1.3.*")).flatten
  v ++ List.replicate (100 - v.length - purpose.length) 0 ++ ascii purpose
/-- Signed with the attestation key: SW0's die key. -/
def State.attest (s : State) (purpose : String) (bs : List Byte) : List Byte :=
  edSign (s.hw.die 0).seed (spdmPrefix purpose ++ sha384 bs)

/-- CHALLENGE_AUTH: the digest of the chain, a nonce of the package's own, the requester's context (the bytes of the argument after its
nonce), and the signature over the messages exchanged. -/
def execChallenge (doe : Bool) (nonce : List (BitVec 8)) (s : State) : Out :=
  happen s fun s => s.servedStd fun s =>
    let ctx := (nonce.drop 32 ++ List.replicate 8 0).take 8
    let body := sha384 s.chain ++ s.hw.freeBytes 32 ++ [0, 0] ++ ctx
    let asked : List Byte := [0x13, 0x83, 0, 0] ++ (nonce ++ List.replicate 32 0).take 32 ++ ctx
    let told : List Byte := [0x13, 0x03, 0, 1] ++ body
    s.spdm doe 0x03 0 1 (body ++ s.attest "responder-challenge_auth signing" (Config.transcript s.hw.fresh ++ asked ++ told))

/-- The mix register as 192 bytes. -/
def Hw.mixBytes (h : Hw) : List Byte := allSlots.flatMap fun d => leBytes 4 (h.die d).mix.word

/-- Measurement 1 is the boot ROM digest, 2 the firmware header with its SVN, 3 to 10 the supervisor headers, 11 the mix
register. -/
def Hw.measurement (h : Hw) (i : Nat) : Option (List Byte) :=
  if i = 1 then some (Config.romDigest 2)
  else if i = 2 then some (h.pkg.fwHeader ++ leBytes 4 (imageSvn h.pkg.fwHeader))
  else if 3 ≤ i ∧ i ≤ 10 then
    (if (h.part (i - 3)).supervisor then some (h.part (i - 3)).supHeader else some (List.replicate 128 0))
  else if i = 11 then some h.mixBytes
  else none

/-- A measurement block: its index, the DMTF format, and the value with its type: a digest of ROM, a raw image header, or raw
configuration. -/
def measureBlock (i : Nat) (v : List Byte) : List Byte :=
  let ty : Nat := if i = 1 then 0x00 else if i = 11 then 0x82 else 0x81
  [BitVec.ofNat 8 i, 0x01] ++ bytesLE 2 (v.length + 3) ++ [BitVec.ofNat 8 ty] ++ bytesLE 2 v.length ++ v

/-- MEASUREMENTS: index 0 asks for their number, 0xFF for all of them. -/
def execGetMeasurements (doe : Bool) (index : Nat) (s : State) : Out :=
  happen s fun s => s.servedStd fun s =>
    let asked := if index = 0xFF then (List.range 11).map (· + 1) else if index = 0 then [] else [index]
    if asked.any (fun i => (s.hw.measurement i).isNone) then s.spdmError doe 0x01 0
    else
      let record := asked.flatMap fun i => measureBlock i ((s.hw.measurement i).getD [])
      let count := if index = 0 then 11 else 0
      let body := [BitVec.ofNat 8 asked.length] ++ bytesLE 3 record.length ++ record ++ s.hw.freeBytes 32 ++ [0, 0] ++ List.replicate 8 0
      s.spdm doe 0x60 count 0 (body ++ s.attest "responder-measurements signing"
        (Config.transcript s.hw.fresh ++ [0x13, 0x60, BitVec.ofNat 8 count, 0] ++ body))

/-! ### Messages as they come (R421) -/

def modeOf (n : Nat) : Option PowerMode :=
  match n with
  | 0 => some .full | 1 => some .efficient | 2 => some .guarded | _ => none

/-- A Kifold management message: its command, its argument and its data; none where there is no such command or argument. -/
def manageEvent (cmd arg : Nat) (data : List Byte) : Option Event :=
  match cmd with
  | 0x01 => some .status
  | 0x02 => if arg = 0 then some .reset else if 0x100 ≤ arg ∧ arg < 0x130 then some (.dieReset (arg - 0x100)) else none
  | 0x03 => some .freeze
  | 0x04 => some .thaw
  | 0x05 => some (.readout arg)
  | 0x06 => some (.write arg data)
  | 0x07 => some (.withdraw arg)
  | 0x08 => some (.restore arg)
  | 0x09 => (modeOf arg).map .setmode
  | 0x0A => some (.ageing arg)
  | 0x0B => some (.resume arg)
  | 0x10 => some (.flashwr arg data)
  | 0x11 => some (.flashrd arg)
  | _ => none

/-- An SPDM request by its code (R420). -/
def spdmEvent (bs : List Byte) : Option Event :=
  match le bs 1 1 with
  | 0x84 => some (.getVersion false)
  | 0xE1 => some (.getCapabilities false)
  | 0xE3 => some (.negotiateAlgorithms false)
  | 0x81 => some (.getDigests false)
  | 0x82 => some (.getCertificate false (le bs 2 1 % 16) (le bs 4 2) (le bs 6 2))
  | 0x83 => some (.challenge false (bs.drop 4))
  | 0xE0 => some (.getMeasurements false (le bs 3 1))
  | _ => none

/-- An MCTP message, by its type. A vendor-defined one carries VNDR, a command, an argument of 16 bytes and data; its argument's form
is the model's own (DESIGN CHOICE, notes/assumptions/96.md). One of another vendor or of a type that is not served has no
answer. -/
def State.takeMessage (s : State) (bs : List Byte) : State :=
  let k := s.hw.pkg
  match le bs 0 1 with
  | 0x00 => s.updHw fun h => h.soon (.mctpControl (le bs 2 1))
  | 0x05 =>
    match spdmEvent (bs.drop 1) with
    | some e => s.updHw fun h => h.soon e
    | none => s.servedStd fun s => s.spdmError false 0x07 (le bs 2 1)
  | 0x7F =>
    if k.fwHeader ≠ [] ∧ natOfBE ((bs.drop 1).take 4) ≠ k.vendor then s
    else
      match manageEvent (le bs 5 1) (le bs 6 16) (bs.drop 22) with
      | some e => s.updHw fun h => h.soon e
      | none => s.servedEarly fun s => s.answer stBadArg []
  | _ => s

/-- The controller serves messages one at a time, in the order of their arrival. -/
def State.serveInbox (s : State) : State :=
  match s.hw.pkg.inbox with
  | [] => s
  | bs :: rest => (s.updHw fun h => h.updPkg fun k => { k with inbox := rest }).takeMessage bs

end Sys2Proof.Machine
end

