-- ==== Sys2Proof/Machine/Debug.lean ====
section
/-! DEFINITION. The debugger's view of what is frozen: the items of R377, at read-out offsets of the model's own, and the READOUT
message (R43, R377, R411, R421, R422). -/
namespace Sys2Proof.Machine
open Sys2Proof

/-! ### Read-out offsets -/

/-- The registers of a strand in the read-out space (notes/assumptions/28.md). -/
def regKey (strand off : Nat) : Nat := locKey 11 strand off

/-- The partition of a location, if it is one of a bound die or of a partition. -/
def Hw.keyPart (h : Hw) (key : Nat) : Option Nat :=
  let u := key / 2 ^ 60 % 2 ^ 20
  let ofDie := fun (d : Nat) => if (h.die d).mix.bound then some (h.partOf d) else none
  match key / 2 ^ 80 with
  | 1 => ofDie (u / 32)
  | 2 | 3 | 4 | 5 => ofDie u
  | 7 | 9 | 16 => if u < 8 then some u else none
  | 10 | 12 => ofDie (u / 4)
  | 11 => ofDie (slotOf u)
  | 13 => ofDie (u / 32)
  | 14 => ofDie u
  | _ => none

/-- Whether a location can be read out: by the freeze of the package, or a breakpoint freeze of its partition; error banks always (R411). -/
def Hw.frozenKey (h : Hw) (key : Nat) : Bool :=
  h.pkg.frozen || key / 2 ^ 80 == 17 || (match h.keyPart key with | some p => (h.part p).frozen | none => false)

/-! ### What R377 lists, as double words -/

def byteAt (v i : Nat) : Byte := BitVec.ofNat 8 (v / 256 ^ i)
def wordsByte (ws : List Nat) (off : Nat) : Byte := byteAt (ws.getD (off / 8) 0) (off % 8)

/-- A row in 512 bytes: its tag, then from byte 256 on its data. -/
def rowByte (rs : List StreamRow) (off : Nat) : Byte :=
  match rs[off / 512]? with
  | some r => if off % 512 < 8 then byteAt r.tag.toNat (off % 8) else if off % 512 < 256 then 0 else byteAt r.data.toNat (off % 256)
  | none => 0

def Token.word (t : Token) : Nat := t.code * 2 ^ 16 + t.err.toNat * 2 ^ 8 + t.pend
def Loop.words (l : Loop) : List Nat := [l.act.toNat * 2 ^ 32 + l.count.toNat, l.start.toNat, l.last.toNat]
/-- Tokens, loops, the return store with its depth. -/
def Bank.words (b : Bank) : List Nat :=
  b.tok.toList.map Token.word ++ b.loops.toList.flatMap Loop.words ++ (b.rets.length :: b.rets.map (·.toNat))

/-- A pipeline tick of a partition as R377 shows it: in STICK, or in a queued kernel in WTICK. -/
def Hw.shownTick (h : Hw) (p t : Nat) : Nat := (if h.strictOf p then (h.part p).stick else h.wtick) + t - (h.part p).pclk

/-- The last busy tick of each unit, on the pipeline clock and on the wall clock. -/
def Hw.unitWords (h : Hw) (k : Nat) : List Nat :=
  let st := h.strand k
  let all := fun (u : Units) => [u.div, u.vec, u.mask, u.gpath, u.port, u.stream]
  (all st.units).map (fun t => h.shownTick (h.partOf (slotOf k)) (t - 1)) ++ (all st.wunits).map (· - 1)

/-- A write on its way to a register of a strand: kind (0 x, 1 v, 2 k, 3 b, 4 FLAGS, 5 special register, 6 KXVAL), register, bank, and its value
where it is known before it lands. -/
def PendAct.shown (a : PendAct) (h : Hw) (num : Nat) : Option (Nat × Nat × Bool × Nat) :=
  match a with
  | .x i sup r val => if i = num then some (0, r.val, sup, val.toNat) else none
  | .v i r val _ _ => if i = num then some (1, r.val, false, val.toNat) else none
  | .k i r val => if i = num then some (2, r.val, false, val.toNat) else none
  | .b i r val _ => if i = num then some (3, r.val, false, val.toNat) else none
  | .flags i val => if i = num then some (4, 0, false, val.toNat) else none
  | .mstat i sup r _ => if i = num then some (0, r.val, sup, (h.mstatValue num).toNat) else none
  | .gstat i sup r _ => if i = num then some (0, r.val, sup, (h.gstatValue num).toNat) else none
  | .mprog i sup r => if i = num then some (0, r.val, sup, (h.mprogValue num).toNat) else none
  | .isectLand _ i sup r val _ => if i = num then some (0, r.val, sup, val.toNat) else none
  | .atomic _ _ _ _ _ _ _ (some (i, sup, r)) => if i = num then some (0, r.val, sup, 0) else none
  | .event (.flagsWrite i val) => if i = num then some (5, 0x010, false, val.toNat) else none
  | .event (.rndmWrite i val) => if i = num then some (5, 0x011, false, val.toNat) else none
  | .event (.srseedWrite i val) => if i = num then some (5, 0x012, false, val.toNat) else none
  | .event (.syncmaskWrite i val) => if i = num then some (5, 0x013, false, val.toNat) else none
  | .event (.loopRegisterWrite i n val) => if i = num then some (5, n.toNat, false, val.toNat) else none
  | .event (.registerWrite i n val) => if i = num then some (5, n.toNat, false, val.toNat) else none
  | .event (.kxvalWrite i n val) => if i = num then some (6, n.val, false, val.toNat) else none
  | _ => none

/-- The pending register writes of a strand: kind, register and bank, then the landing tick; and the value. -/
def Hw.pendShown (h : Hw) (k : Nat) : List (List Nat × Nat) :=
  h.pend.filterMap fun q => (q.act.shown h k).map fun x =>
    ([x.1 + x.2.1 * 2 ^ 16 + x.2.2.1.toNat * 2 ^ 32, if q.wall then q.due else h.shownTick q.part q.due], x.2.2.2)

/-- An entry of a queue: that it is there, its requester key, its tick of issue, what it is, its operands. -/
def entryWords (key issued what : Nat) (ops : List Nat) : List Nat := 1 :: key :: issued :: what :: ops
/-- Entries in n double words each. -/
def entries (n : Nat) (es : List (List Nat)) : List Nat := es.flatMap fun e => (e ++ List.replicate n 0).take n

def Mods.word (m : Mods) : Nat :=
  m.rnd.toNat + m.sat.toNat * 2 ^ 4 + m.neg.toNat * 2 ^ 8 + m.abs.toNat * 2 ^ 9 + (BitVec.ofInt 16 m.scale).toNat * 2 ^ 16
def optNat (o : Option Nat) : Nat := match o with | some n => n + 1 | none => 0

/-- Code and operands of an array command. -/
def ArrOp.words : ArrOp → Nat × List Nat
  | .mbld src bs addr tag lt nt bytes tok ge => (0, [src, bs, addr, tag.toNat, lt.toNat, nt, bytes, tok.val, optNat ge])
  | .mlat d => (1, [d.toNat % 2 ^ 64, d.toNat / 2 ^ 64])
  | .mmma bs addr ar m fmt lat d nh clr hd sat ge =>
    (2, [bs, addr, ar, m, fmt.toNat, lat, d.toNat % 2 ^ 64, d.toNat / 2 ^ 64, nh.toNat, clr.toNat, hd, sat.toNat, optNat ge])
  | .mzero ar m tag => (3, [ar, m, tag.toNat])
  | .mread addr ar m rt tag ovf sgn mods seed => (4, [addr, ar, m, rt.toNat, tag.toNat, ovf.toNat, sgn.toNat, mods.word, seed.toNat])
  | .mwrite addr ar m tag => (5, [addr, ar, m, tag.toNat])
  | .mscale addr ar m _ mods seed => (6, [addr, ar, m, mods.word, seed.toNat])
  | .mtile ar m keep => (7, [ar, m, keep.toNat])

def ArrCmd.words (c : ArrCmd) : List Nat :=
  entryWords c.strand c.issued (c.op.words.1 + c.admitted.toNat * 2 ^ 8 + c.started.toNat * 2 ^ 9) c.op.words.2
def Isect.words (i : Isect) : List Nat :=
  entryWords i.strand i.issued (i.dest.val + i.bf16.toNat * 2 ^ 8 + i.started.toNat * 2 ^ 9) [i.w, i.bma, i.bmb, i.vala, i.valb, i.acc.toNat]
def EmbTable.words (t : EmbTable) : List Nat := [t.nr, t.fmt.toNat, t.rb, t.base.toNat]
def EmbCmd.words (c : EmbCmd) : List Nat :=
  entryWords c.strand c.issued (c.pool.toNat + c.started.toNat * 2 ^ 9) ([c.idx, c.out, c.sync, c.z, c.n] ++ c.table.words)
def XCmd.words (c : XCmd) : List Nat :=
  entryWords c.strand c.issued (c.op.major + c.started.toNat * 2 ^ 9)
    [c.d.toNat, c.a.toNat, c.b.toNat, c.desc.toNat % 2 ^ 64, c.desc.toNat / 2 ^ 64 % 2 ^ 64, c.desc.toNat / 2 ^ 128 % 2 ^ 64,
     c.desc.toNat / 2 ^ 192]
def Gemv.words (g : Gemv) : List Nat :=
  entryWords g.strand g.issued (g.fmt.toNat + g.sat.toNat * 2 ^ 8 + g.started.toNat * 2 ^ 9) [g.b, g.x, g.y, g.sync, g.k, g.m]
/-- A waiting launch has a packet and an age in place of a key. -/
def Waiting.words (w : Waiting) : List Nat := [1, w.packet.toNat, w.age, w.resumed.toNat]

def GrpSlot.words (g : GrpSlot) : List Nat :=
  [1, g.num, g.phase.toNat, g.pending.toNat + g.err.toNat * 2 ^ 8 + g.code.toNat * 2 ^ 16]

/-- The records of a core: its team, SYNCMASK, lease, progress record and MSTAT; the last busy ticks of its gather unit, on both clocks,
and of its engine port. -/
def Hw.coreWords (h : Hw) (c : Nat) : List Nat :=
  let x := h.core c
  [match x.team with | some t => 2 ^ 32 + t.1 * 2 ^ 16 + t.2 | none => 0, x.syncmask.toNat, leaseCode x.lease, x.progressReg,
    x.mstatReg c, h.shownTick (h.partOf (c / 32)) (x.gatherFree - 1), x.gatherWall - 1, x.eport - 1]

/-- What a core shows: its records, local phases with PENDING; its three queues; its tables. -/
def Hw.coreByte (h : Hw) (c off : Nat) : Byte :=
  let x := h.core c
  if off < 0x100 then wordsByte (h.coreWords c) off
  else if off < 0x200 then wordsByte (entries 4 (x.grps.map GrpSlot.words)) (off - 0x100)
  else if off < 0x400 then
    wordsByte (entries 4 (x.et.toList.map fun e => match e with | some t => t.words | none => [])) (off - 0x200)
  else if off < 0x1000 then 0
  else if off < 0x2000 then wordsByte (entries 32 (x.aq.map ArrCmd.words)) (off - 0x1000)
  else if off < 0x3000 then wordsByte (entries 32 (x.iq.map Isect.words)) (off - 0x2000)
  else if off < 0x4000 then wordsByte (entries 32 (x.eq.map EmbCmd.words)) (off - 0x3000)
  else 0

def BSlot.word (b : BSlot) : Nat := b.tag.toNat + b.lt.toNat * 2 ^ 4 + b.valid.toNat * 2 ^ 5 + b.nt * 2 ^ 16
/-- Heads of the B slots, the latent register, the lease. -/
def ArrayState.words (a : ArrayState) : List Nat :=
  let lat := match a.latent with | some d => [1, d.toNat % 2 ^ 64, d.toNat / 2 ^ 64] | none => [0, 0, 0]
  [(a.slots.get 0).word, (a.slots.get 1).word] ++ lat ++ [optNat a.holder, a.ptr]

/-- What an array shows beside its accumulator rows: B slots and latent register, tags of the rows. -/
def ArrayState.byte (a : ArrayState) (off : Nat) : Byte :=
  let slot := fun (i : Nat) => a.slots.get (Fin.ofNat 2 i)
  if off < 0x100 then wordsByte a.words off
  else if 0x8000 ≤ off ∧ off < 0x9000 then (a.row (off - 0x8000)).tag.setWidth 8
  else if 0x10_0000 ≤ off ∧ off < 0x30_0000 then (Memory.readBytes (slot (off / 0x10_0000 - 1)).data (off % 0x10_0000) 1).headD 0
  else 0

def OpInst.rows (i : OpInst) : List StreamRow := i.in0 ++ i.in1 ++ i.out.map (·.2)

/-- What a die shows: its X queues, its GEMV queue, and its operator slots with their instances' rows. -/
def Die.byte (d : Die) (off : Nat) : Byte :=
  if off < 0x1_0000 then
    let q := off / 0x1000
    if q = 15 then wordsByte (entries 16 (d.gemv.map Gemv.words)) (off % 0x1000)
    else wordsByte (entries 16 ((d.queue q).cmds.map XCmd.words)) (off % 0x1000)
  else if off < 0x1_0180 then wordsByte ((List.range 48).map fun n => (d.op n).status ((d.op n).owner.getD 0)) (off - 0x1_0000)
  else if 0x100_0000 ≤ off then
    match (d.op (off / 0x100_0000 - 1)).insts[off % 0x100_0000 / 0x1_0000]? with
    | some i => rowByte i.rows (off % 0x1_0000)
    | none => 0
  else 0

/-- The last busy ticks of a die's intersect units. -/
def Hw.intersectWords (h : Hw) (slot : Nat) : List Nat :=
  (h.die slot).intersectFree.toList.map fun t => h.shownTick (h.partOf slot) (t - 1)

/-- The error bank: status, acknowledge word, record, at the offsets of R411 from 0xE000 on. -/
def ErrorBank.byte (b : ErrorBank) (off : Nat) : Byte :=
  if off < 8 then byteAt b.status off else if 0x10 ≤ off ∧ off < 0x30 then byteAt b.recordWord (off - 0x10) else 0

/-- The two double words of a group's barrier (R43). -/
def GroupEntry.words (g : GroupEntry) : List Nat :=
  [g.target * 2 ^ 44 + g.count * 2 ^ 24 + g.phase.toNat, g.err.toNat * 2 ^ 16 + (if g.err then g.code.toNat else 0)]

/-- What a partition shows: the barriers of its groups, by number, and its launch queues. -/
def Part.byte (p : Part) (off : Nat) : Byte :=
  if off < 0x1000 then
    match p.groups.find? (·.num == off / 16) with
    | some g => wordsByte g.words (off % 16)
    | none => 0
  else if 0x1_0000 ≤ off ∧ off < 0x1_4000 then
    wordsByte (entries 4 ((p.queues.get (Fin.ofNat 4 (off / 0x1000))).map Waiting.words)) (off % 0x1000)
  else 0

/-- A byte of a strand's registers: x of both banks, the pc and mode, tags, tokens, loops and return stores, units, v, k, b,
special registers, receive queue, pending writes. -/
def Hw.regByte (h : Hw) (k off : Nat) : Byte :=
  let st := h.strand k
  if off < 0x100 then byteAt (st.kb.readX (Fin.ofNat 32 (off / 8))).toNat (off % 8)
  else if off < 0x200 then byteAt (st.sb.readX (Fin.ofNat 32 (off / 8))).toNat (off % 8)
  else if off < 0x208 then byteAt st.pc.toNat (off - 0x200)
  else if off = 0x208 then (if st.sup then 1 else 0)
  else if 0x300 ≤ off ∧ off < 0x310 then (st.v.get (Fin.ofNat 16 off)).tag.setWidth 8
  else if 0x1000 ≤ off ∧ off < 0x1400 then wordsByte st.kb.words (off - 0x1000)
  else if 0x1400 ≤ off ∧ off < 0x1800 then wordsByte st.sb.words (off - 0x1400)
  else if 0x1800 ≤ off ∧ off < 0x1A00 then wordsByte (h.unitWords k) (off - 0x1800)
  else if 0x1_0000 ≤ off ∧ off < 0x2_0000 then byteAt (st.v.get (Fin.ofNat 16 (off / 4096))).data.toNat (off % 4096)
  else if 0x2_0000 ≤ off ∧ off < 0x2_0400 then byteAt (st.k.get (Fin.ofNat 8 (off / 128))).toNat (off % 128)
  else if 0x2_8000 ≤ off ∧ off < 0x2_9000 then byteAt (st.b.get (Fin.ofNat 4 (off / 1024))).toNat (off % 1024)
  else if 0x3_0000 ≤ off ∧ off < 0x3_8000 then
    let own : Hw := { h with cur := k }
    let g := own.updStrand k fun st => { st with mode := .supervisor }
    let n := (off - 0x3_0000) / 8
    match (if n < 0x800 then readKernelReg own n else readSupReg g n) with
    | some v => byteAt v (off % 8)
    | none => 0
  else if 0x8_0000 ≤ off ∧ off < 0x9_0000 then rowByte st.recvq (off - 0x8_0000)
  else if 0x10_0000 ≤ off then
    match (h.pendShown k)[(off - 0x10_0000) / 0x2000]? with
    | some e => if off % 0x2000 < 0x1000 then wordsByte e.1 (off % 0x2000) else byteAt e.2 (off % 0x1000)
    | none => 0
  else 0

/-- A byte of what READOUT shows beside memory: accumulator rows, strands, arrays, cores, dies, partitions, error banks; none for memory
(notes/assumptions/28.md). -/
def Hw.shownByte (h : Hw) (key : Nat) : Option Byte :=
  let u := key / 2 ^ 60 % 2 ^ 20
  let off := key % 2 ^ 60
  match key / 2 ^ 80 with
  | 10 => some (byteAt ((h.arr (u / 4) (u % 4)).row (off / 1024)).data.toNat (off % 1024))
  | 11 => some (h.regByte u off)
  | 12 => some ((h.arr (u / 4) (u % 4)).byte off)
  | 13 => some (h.coreByte u off)
  | 14 =>
    some (if 0x1_0200 ≤ off ∧ off < 0x1_0220 then wordsByte (h.intersectWords u) (off - 0x1_0200) else (h.die u).byte off)
  | 16 => some ((h.part u).byte off)
  | 17 => some ((h.die u).bank.byte off)
  | _ => none

/-- READOUT: 4 KiB at a read-out offset, of what is frozen. -/
def execReadout (key : Nat) (s : State) : Out :=
  happen s fun s => s.served fun s =>
    if s.hw.frozenKey key = false then s.answer stRefused []
    else
      s.answer stOk ((Memory.readBytes s.mem key 4096).zipIdx.map fun x => (s.hw.shownByte (key + x.2)).getD x.1)

end Sys2Proof.Machine
end

