-- ==== Sys2Proof/Machine/DebugWrite.lean ====
section
/-! DEFINITION. What the debugger writes (R377, R421, R422): of a frozen package every item that it reads, and memory; of a partition that a
breakpoint froze its registers and memory. -/
namespace Sys2Proof.Machine
open Sys2Proof

/-! ### Bytes and double words put back -/

def putByteNat (v i : Nat) (b : Byte) : Nat := v - v / 256 ^ i % 256 * 256 ^ i + b.toNat * 256 ^ i
def putByte (w v i : Nat) (b : Byte) : BitVec w := BitVec.ofNat w (putByteNat v i b)
/-- A list of double words with a byte put into it. -/
def putWord (ws : List Nat) (off : Nat) (b : Byte) : List Nat := ws.set (off / 8) (putByteNat (ws.getD (off / 8) 0) (off % 8) b)
def bitsAt (w off n : Nat) : Nat := w / 2 ^ off % 2 ^ n
def flag (w off : Nat) : Bool := w / 2 ^ off % 2 == 1

/-- A byte put into entries of n double words each. `of` makes an entry anew from its double words; one whose first word comes to 0 is taken
out. -/
def putEntry {α : Type} (n : Nat) (words : α → List Nat) (of : α → List Nat → α) (es : List α) (off : Nat) (b : Byte) : List α :=
  es.zipIdx.flatMap fun x =>
    if x.2 = off / (8 * n) then
      let ws := putWord ((words x.1 ++ List.replicate n 0).take n) (off % (8 * n)) b
      if ws.getD 0 0 = 0 then [] else [of x.1 ws]
    else [x.1]

/-- A byte put into rows of 512 bytes each. -/
def StreamRow.put (r : StreamRow) (off : Nat) (b : Byte) : StreamRow :=
  if off = 0 then { r with tag := b.setWidth 4 }
  else if 256 ≤ off then { r with data := putByte 2048 r.data.toNat (off - 256) b } else r
def putRows (rs : List StreamRow) (off : Nat) (b : Byte) : List StreamRow :=
  rs.zipIdx.map fun x => if x.2 = off / 512 then x.1.put (off % 512) b else x.1

/-! ### The items, from their double words -/

def Token.ofWord (t : Token) (w : Nat) : Token := { t with pend := bitsAt w 0 6, err := flag w 8, code := bitsAt w 16 16 }
def Loop.ofWords (ws : List Nat) : Loop :=
  { act := flag (ws.getD 0 0) 32, count := BitVec.ofNat 32 (ws.getD 0 0), start := BitVec.ofNat 64 (ws.getD 1 0)
    last := BitVec.ofNat 64 (ws.getD 2 0) }
def Bank.ofWords (k : Bank) (ws : List Nat) : Bank :=
  { k with
    tok := Vector.ofFn fun i => (k.tok.get i).ofWord (ws.getD i.val 0)
    loops := Vector.ofFn fun i => Loop.ofWords (ws.drop (8 + 3 * i.val))
    rets := (List.range (Nat.min 16 (ws.getD 17 0))).map fun i => onGrid (BitVec.ofNat 64 (ws.getD (18 + i) 0)) }
def Bank.putByte (k : Bank) (off : Nat) (b : Byte) : Bank := k.ofWords (putWord k.words off b)

def natOpt (n : Nat) : Option Nat := if n = 0 then none else some (n - 1)
def Mods.ofWord (w : Nat) : Mods :=
  { rnd := BitVec.ofNat 3 (bitsAt w 0 4), sat := BitVec.ofNat 3 (bitsAt w 4 4), neg := flag w 8, abs := flag w 9
    scale := (BitVec.ofNat 16 (w / 2 ^ 16)).toInt }
def pair128 (a b : Nat) : BitVec 128 := BitVec.ofNat 128 (a % 2 ^ 64 + b * 2 ^ 64)

/-- The operands of an array command. -/
def ArrOp.ofWords (o : ArrOp) (l : List Nat) : ArrOp :=
  let g := fun (i : Nat) => l.getD i 0
  let tag := fun (i : Nat) => (BitVec.ofNat 4 (g i) : Tag)
  let on := fun (i : Nat) => flag (g i) 0
  match o with
  | .mbld _ _ _ _ _ _ _ _ _ => .mbld (g 0) (g 1) (g 2) (tag 3) (on 4) (g 5) (g 6) (Fin.ofNat 8 (g 7)) (natOpt (g 8))
  | .mlat _ => .mlat (pair128 (g 0) (g 1))
  | .mmma _ _ _ _ _ _ _ _ _ _ _ _ =>
    .mmma (g 0) (g 1) (g 2) (g 3) (tag 4) (g 5) (pair128 (g 6) (g 7)) (on 8) (on 9) (g 10) (on 11) (natOpt (g 12))
  | .mzero _ _ _ => .mzero (g 0) (g 1) (tag 2)
  | .mread _ _ _ _ _ _ _ _ _ =>
    .mread (g 0) (g 1) (g 2) (BitVec.ofNat 4 (g 3)) (tag 4) (on 5) (on 6) (Mods.ofWord (g 7)) (BitVec.ofNat 32 (g 8))
  | .mwrite _ _ _ _ => .mwrite (g 0) (g 1) (g 2) (tag 3)
  | .mscale _ _ _ tags _ _ => .mscale (g 0) (g 1) (g 2) tags (Mods.ofWord (g 3)) (BitVec.ofNat 32 (g 4))
  | .mtile _ _ _ => .mtile (g 0) (g 1) (on 2)

def ArrCmd.ofWords (c : ArrCmd) (ws : List Nat) : ArrCmd :=
  let w := ws.getD 3 0
  { c with strand := ws.getD 1 0, issued := ws.getD 2 0, admitted := flag w 8, started := flag w 9, op := c.op.ofWords (ws.drop 4) }
def Isect.ofWords (c : Isect) (ws : List Nat) : Isect :=
  let w := ws.getD 3 0
  { c with
    strand := ws.getD 1 0, issued := ws.getD 2 0, dest := Fin.ofNat 32 (bitsAt w 0 8), bf16 := flag w 8, started := flag w 9
    w := ws.getD 4 0, bma := ws.getD 5 0, bmb := ws.getD 6 0, vala := ws.getD 7 0, valb := ws.getD 8 0
    acc := BitVec.ofNat 64 (ws.getD 9 0) }
def EmbTable.ofWords (ws : List Nat) : EmbTable :=
  { nr := ws.getD 0 0, fmt := BitVec.ofNat 4 (ws.getD 1 0), rb := ws.getD 2 0, base := BitVec.ofNat 64 (ws.getD 3 0) }
def EmbCmd.ofWords (c : EmbCmd) (ws : List Nat) : EmbCmd :=
  let w := ws.getD 3 0
  { c with
    strand := ws.getD 1 0, issued := ws.getD 2 0, pool := BitVec.ofNat 2 (bitsAt w 0 8), started := flag w 9
    idx := ws.getD 4 0, out := ws.getD 5 0, sync := ws.getD 6 0, z := ws.getD 7 0, n := ws.getD 8 0
    table := EmbTable.ofWords (ws.drop 9) }
def XCmd.ofWords (c : XCmd) (ws : List Nat) : XCmd :=
  { c with
    strand := ws.getD 1 0, issued := ws.getD 2 0, started := flag (ws.getD 3 0) 9, d := BitVec.ofNat 64 (ws.getD 4 0)
    a := BitVec.ofNat 64 (ws.getD 5 0), b := BitVec.ofNat 64 (ws.getD 6 0)
    desc := BitVec.ofNat 256 (((List.range 4).map fun i => ws.getD (7 + i) 0 % 2 ^ 64 * 2 ^ (64 * i)).sum) }
def Gemv.ofWords (c : Gemv) (ws : List Nat) : Gemv :=
  let w := ws.getD 3 0
  { c with
    strand := ws.getD 1 0, issued := ws.getD 2 0, fmt := BitVec.ofNat 4 (bitsAt w 0 8), sat := flag w 8, started := flag w 9
    b := ws.getD 4 0, x := ws.getD 5 0, y := ws.getD 6 0, sync := ws.getD 7 0, k := ws.getD 8 0, m := ws.getD 9 0 }
def Waiting.ofWords (c : Waiting) (ws : List Nat) : Waiting :=
  { c with packet := BitVec.ofNat 64 (ws.getD 1 0), age := ws.getD 2 0, resumed := flag (ws.getD 3 0) 0 }
def GrpSlot.ofWords (c : GrpSlot) (ws : List Nat) : GrpSlot :=
  let w := ws.getD 3 0
  { c with num := ws.getD 1 0, phase := BitVec.ofNat 16 (ws.getD 2 0), pending := flag w 0, err := flag w 8, code := BitVec.ofNat 16 (w / 2 ^ 16) }
def GroupEntry.ofWords (g : GroupEntry) (ws : List Nat) : GroupEntry :=
  let w := ws.getD 0 0
  { g with
    target := bitsAt w 44 20, count := bitsAt w 24 20, phase := BitVec.ofNat 16 (bitsAt w 0 16), err := flag (ws.getD 1 0) 16
    code := BitVec.ofNat 16 (bitsAt (ws.getD 1 0) 0 16) }
def OpSlot.ofWord (o : OpSlot) (w : Nat) : OpSlot :=
  { o with
    drop := bitsAt w 48 16, throttle := bitsAt w 32 8, kind := bitsAt w 12 20, owner := if flag w 11 then o.owner else none
    fmt := flag w 10, tc := flag w 9, qsat := flag w 8, exc := BitVec.ofNat 5 (bitsAt w 0 5) }

def leaseFrom (n : Nat) : Lease := if n = 1 then .pend else if n = 2 then .held else if n = 3 then .expd else .none

/-- The pipeline tick that R377 shows as a given one. -/
def Hw.hiddenTick (h : Hw) (p t : Nat) : Nat := t + (h.part p).pclk - (if h.strictOf p then (h.part p).stick else h.wtick)

/-- The records of a core. -/
def Hw.coreOfWords (h : Hw) (c : Nat) (ws : List Nat) : Hw :=
  let g := fun (i : Nat) => ws.getD i 0
  h.updCore c fun x =>
    { x with
      team := if flag (g 0) 32 then some (bitsAt (g 0) 16 16, bitsAt (g 0) 0 16) else none
      syncmask := BitVec.ofNat 4 (g 1), lease := leaseFrom (g 2 % 4)
      progress := { seq := BitVec.ofNat 32 (g 3 / 2 ^ 32), run := flag (g 3) 31, err := flag (g 3) 30, done := bitsAt (g 3) 16 13
                    rows := bitsAt (g 3) 0 13 }
      mcode := BitVec.ofNat 16 (g 4 / 2 ^ 48), merr := flag (g 4) 47, used := bitsAt (g 4) 32 6, mexc := BitVec.ofNat 6 (g 4)
      gatherFree := h.hiddenTick (h.partOf (c / 32)) (g 5) + 1, gatherWall := g 6 + 1, eport := g 7 + 1 }

def ArrayState.ofWords (a : ArrayState) (ws : List Nat) : ArrayState :=
  let g := fun (i : Nat) => ws.getD i 0
  let head := fun (s : BSlot) (w : Nat) =>
    { s with tag := BitVec.ofNat 4 w, lt := flag w 4, valid := flag w 5, nt := w / 2 ^ 16 : BSlot }
  { a with
    slots := Vector.ofFn fun i => head (a.slots.get i) (g i.val)
    latent := if flag (g 2) 0 then some (pair128 (g 3) (g 4)) else none
    holder := natOpt (g 5), ptr := g 6 }

/-! ### Strands -/

/-- A write on its way, with another register, bank and value. -/
def PendAct.put (a : PendAct) (r : Nat) (sup : Bool) (n : Nat) : PendAct :=
  match a with
  | .x i _ _ _ => .x i sup (Fin.ofNat 32 r) (BitVec.ofNat 64 n)
  | .v i _ _ m t => .v i (Fin.ofNat 16 r) (BitVec.ofNat 32768 n) m t
  | .k i _ _ => .k i (Fin.ofNat 8 r) (BitVec.ofNat 1024 n)
  | .b i _ _ m => .b i (Fin.ofNat 4 r) (BitVec.ofNat 8192 n) m
  | .flags i _ => .flags i (BitVec.ofNat 6 n)
  | .mstat i _ _ c => .mstat i sup (Fin.ofNat 32 r) c
  | .gstat i _ _ c => .gstat i sup (Fin.ofNat 32 r) c
  | .mprog i _ _ => .mprog i sup (Fin.ofNat 32 r)
  | .isectLand c i _ _ _ fl => .isectLand c i sup (Fin.ofNat 32 r) (BitVec.ofNat 64 n) fl
  | .atomic c p o w op y z (some (i, _, _)) => .atomic c p o w op y z (some (i, sup, Fin.ofNat 32 r))
  | .event (.flagsWrite i _) => .event (.flagsWrite i (BitVec.ofNat 64 n))
  | .event (.rndmWrite i _) => .event (.rndmWrite i (BitVec.ofNat 64 n))
  | .event (.srseedWrite i _) => .event (.srseedWrite i (BitVec.ofNat 64 n))
  | .event (.syncmaskWrite i _) => .event (.syncmaskWrite i (BitVec.ofNat 64 n))
  | .event (.loopRegisterWrite i _ _) => .event (.loopRegisterWrite i (BitVec.ofNat 12 r) (BitVec.ofNat 64 n))
  | .event (.registerWrite i _ _) => .event (.registerWrite i (BitVec.ofNat 12 r) (BitVec.ofNat 64 n))
  | .event (.kxvalWrite i _ _) => .event (.kxvalWrite i (Fin.ofNat 32 r) (BitVec.ofNat 64 n))
  | a => a

/-- A byte put into a pending register write as it is shown: register and bank, landing tick, value. -/
def Hw.putPend (h : Hw) (q : Pend) (x : Nat × Nat × Bool × Nat) (off : Nat) (b : Byte) : Pend :=
  if off < 0x1000 then
    let ws := putWord [x.1 + x.2.1 * 2 ^ 16 + x.2.2.1.toNat * 2 ^ 32, if q.wall then q.due else h.shownTick q.part q.due] off b
    { q with
      due := if q.wall then ws.getD 1 0 else h.hiddenTick q.part (ws.getD 1 0)
      act := q.act.put (bitsAt (ws.getD 0 0) 16 16) (flag (ws.getD 0 0) 32) x.2.2.2 }
  else { q with act := q.act.put x.2.1 x.2.2.1 (putByteNat x.2.2.2 (off - 0x1000) b) }

/-- A byte put into the j-th pending register write of a strand. -/
def Hw.putPendOf (h : Hw) (k j off : Nat) (b : Byte) : Hw :=
  { h with pend := (h.pend.foldl (fun (r : List Pend × Nat) q => match q.act.shown h k with
      | none => (r.1 ++ [q], r.2)
      | some x => (r.1 ++ [if r.2 = j then h.putPend q x off b else q], r.2 + 1)) ([], 0)).1 }

/-- The last busy ticks of a strand's units. -/
def Hw.unitsOfWords (h : Hw) (k : Nat) (ws : List Nat) : Hw :=
  let p := h.partOf (slotOf k)
  let g := fun (i : Nat) => h.hiddenTick p (ws.getD i 0) + 1
  let w := fun (i : Nat) => ws.getD (6 + i) 0 + 1
  h.updStrand k fun st => { st with units := ⟨g 0, g 1, g 2, g 3, g 4, g 5⟩, wunits := ⟨w 0, w 1, w 2, w 3, w 4, w 5⟩ }

/-- A special register set by the debugger. -/
def Hw.putSpecial (h : Hw) (k n : Nat) (v : W64) : Hw :=
  if n = 0x010 then h.updStrand k fun st => { st with flags := v.setWidth 6 }
  else if n = 0x011 then h.updStrand k fun st => { st with rndm := if v.setWidth 3 = (0 : BitVec 3) ∨ v.setWidth 3 = (7 : BitVec 3) then 1 else v.setWidth 3 }
  else if n = 0x012 then h.updStrand k fun st => { st with srseed := if v.setWidth 32 = (0 : BitVec 32) then 1 else v.setWidth 32 }
  else if n = 0x013 then h.updCore (coreOf k) fun c => { c with syncmask := v.setWidth 4 }
  else if 0x020 ≤ n ∧ n < 0x02B then h.updStrand k fun st => st.updBank fun b => b.writeLoop n v
  else h.registerWrite k n v

/-- A byte written to a strand's registers. -/
def Strand.putReg (st : Strand) (off : Nat) (b : Byte) : Strand :=
  if off < 0x100 then
    let r : XReg := Fin.ofNat 32 (off / 8)
    { st with kb := st.kb.writeX r (putByte 64 (st.kb.readX r).toNat (off % 8) b) }
  else if off < 0x200 then
    let r : XReg := Fin.ofNat 32 (off / 8)
    { st with sb := st.sb.writeX r (putByte 64 (st.sb.readX r).toNat (off % 8) b) }
  else if off < 0x208 then { st with pc := onGrid (putByte 64 st.pc.toNat (off - 0x200) b) }
  else if off = 0x208 then { st with mode := if b.toNat % 2 = 1 then .supervisor else .kernel }
  else if 0x300 ≤ off ∧ off < 0x310 then
    let r : VRegNo := Fin.ofNat 16 off
    { st with v := st.v.set r { (st.v.get r) with tag := b.setWidth 4 } }
  else if 0x1000 ≤ off ∧ off < 0x1400 then { st with kb := st.kb.putByte (off - 0x1000) b }
  else if 0x1400 ≤ off ∧ off < 0x1800 then { st with sb := st.sb.putByte (off - 0x1400) b }
  else if 0x1_0000 ≤ off ∧ off < 0x2_0000 then
    let r : VRegNo := Fin.ofNat 16 (off / 4096)
    { st with v := st.v.set r { (st.v.get r) with data := putByte 32768 (st.v.get r).data.toNat (off % 4096) b } }
  else if 0x2_0000 ≤ off ∧ off < 0x2_0400 then
    let r : KRegNo := Fin.ofNat 8 (off / 128)
    { st with k := st.k.set r (putByte 1024 (st.k.get r).toNat (off % 128) b) }
  else if 0x2_8000 ≤ off ∧ off < 0x2_9000 then
    let r : BRegNo := Fin.ofNat 4 (off / 1024)
    { st with b := st.b.set r (putByte 8192 (st.b.get r).toNat (off % 1024) b) }
  else st

/-- A byte written to what a strand shows: its registers, its units, its receive queue, its pending writes. -/
def Hw.putStrand (h : Hw) (k off : Nat) (b : Byte) : Hw :=
  if 0x1800 ≤ off ∧ off < 0x1A00 then h.unitsOfWords k (putWord (h.unitWords k) (off - 0x1800) b)
  else if 0x8_0000 ≤ off ∧ off < 0x9_0000 then h.updStrand k fun st => { st with recvq := putRows st.recvq (off - 0x8_0000) b }
  else if 0x10_0000 ≤ off then h.putPendOf k ((off - 0x10_0000) / 0x2000) (off % 0x2000) b
  else h.updStrand k fun st => st.putReg off b

/-! ### Arrays, cores, dies, partitions -/

def Hw.putArray (h : Hw) (slot arr off : Nat) (b : Byte) : Hw :=
  if off < 0x100 then h.updArr slot arr fun a => a.ofWords (putWord a.words off b)
  else if 0x8000 ≤ off ∧ off < 0x9000 then
    let r := (h.arr slot arr).row (off - 0x8000)
    h.putRow slot arr (off - 0x8000) { r with tag := b.setWidth 4 }
  else if 0x10_0000 ≤ off ∧ off < 0x30_0000 then
    let i : Fin 2 := Fin.ofNat 2 (off / 0x10_0000 - 1)
    h.updArr slot arr fun a =>
      let s := a.slots.get i
      { a with slots := a.slots.set i { s with data := Memory.writeBytes s.data (off % 0x10_0000) [b] } }
  else h

def Hw.putCore (h : Hw) (c off : Nat) (b : Byte) : Hw :=
  if off < 0x100 then h.coreOfWords c (putWord (h.coreWords c) off b)
  else if off < 0x200 then h.updCore c fun x => { x with grps := putEntry 4 GrpSlot.words GrpSlot.ofWords x.grps (off - 0x100) b }
  else if off < 0x400 then
    let i : Fin 8 := Fin.ofNat 8 ((off - 0x200) / 32)
    h.updCore c fun x => { x with et := x.et.set i ((x.et.get i).map fun t => EmbTable.ofWords (putWord t.words (off % 32) b)) }
  else if 0x1000 ≤ off ∧ off < 0x2000 then
    h.updCore c fun x => { x with aq := putEntry 32 ArrCmd.words ArrCmd.ofWords x.aq (off - 0x1000) b }
  else if 0x2000 ≤ off ∧ off < 0x3000 then
    h.updCore c fun x => { x with iq := putEntry 32 Isect.words Isect.ofWords x.iq (off - 0x2000) b }
  else if 0x3000 ≤ off ∧ off < 0x4000 then
    h.updCore c fun x => { x with eq := putEntry 32 EmbCmd.words EmbCmd.ofWords x.eq (off - 0x3000) b }
  else h

/-- The rows of an instance of a stream operator, put back where they came from. -/
def OpInst.ofRows (i : OpInst) (rs : List StreamRow) : OpInst :=
  { in0 := rs.take i.in0.length, in1 := (rs.drop i.in0.length).take i.in1.length
    out := i.out.zipIdx.map fun x => (x.1.1, rs.getD (i.in0.length + i.in1.length + x.2) x.1.2) }

def Hw.putDie (h : Hw) (slot off : Nat) (b : Byte) : Hw :=
  if off < 0x1_0000 then
    if off / 0x1000 = 15 then h.updDie slot fun d => { d with gemv := putEntry 16 Gemv.words Gemv.ofWords d.gemv (off % 0x1000) b }
    else h.updQueue slot (off / 0x1000) fun q => { q with cmds := putEntry 16 XCmd.words XCmd.ofWords q.cmds (off % 0x1000) b }
  else if off < 0x1_0180 then
    h.updDie slot fun d =>
      let n := (off - 0x1_0000) / 8
      d.setOp n ((d.op n).ofWord (putByteNat ((d.op n).status ((d.op n).owner.getD 0)) (off % 8) b))
  else if 0x1_0200 ≤ off ∧ off < 0x1_0220 then
    let ws := putWord (h.intersectWords slot) (off - 0x1_0200) b
    h.updDie slot fun d => { d with intersectFree := Vector.ofFn fun i => h.hiddenTick (h.partOf slot) (ws.getD i.val 0) + 1 }
  else if 0x100_0000 ≤ off then
    h.updDie slot fun d =>
      let n := off / 0x100_0000 - 1
      let j := off % 0x100_0000 / 0x1_0000
      let o := d.op n
      d.setOp n { o with insts := o.insts.zipIdx.map fun x =>
        if x.2 = j then x.1.ofRows (putRows x.1.rows (off % 0x1_0000) b) else x.1 }
  else h

def Hw.putPart (h : Hw) (p off : Nat) (b : Byte) : Hw :=
  h.updPart p fun q =>
    if off < 0x1000 then
      { q with groups := q.groups.map fun g => if g.num = off / 16 then g.ofWords (putWord g.words (off % 16) b) else g }
    else if 0x1_0000 ≤ off ∧ off < 0x1_4000 then
      let i : Fin 4 := Fin.ofNat 4 (off / 0x1000)
      { q with queues := q.queues.set i (putEntry 4 Waiting.words Waiting.ofWords (q.queues.get i) (off % 0x1000) b) }
    else q

/-- Bytes put one after another. -/
def putBytes (f : Hw → Nat → Byte → Hw) (h : Hw) (off : Nat) (bs : List Byte) : Hw :=
  match bs with
  | [] => h
  | b :: t => putBytes f (f h off b) (off + 1) t

/-! ### WRITE -/

/-- Bytes written to an accumulator row. -/
def AccRow.put (r : AccRow) (off : Nat) (bs : List Byte) : AccRow :=
  { r with data := (bs.zipIdx.foldl (fun (d : BitVec 8192) x => putByte 8192 d.toNat (off + x.2) x.1) r.data) }

/-- What a strand shows that counts as its registers (R377). -/
def isRegister (off : Nat) : Bool := decide (off < 0x1800) || (decide (0x1_0000 ≤ off) && decide (off < 0x3_8000))

/-- WRITE: memory, accumulator rows among it, or registers of a frozen partition (R377); of a frozen package any item that READOUT
shows (R422), but for its error banks, which it only reads. Special registers are written whole. -/
def execWrite (key : Nat) (data : List (BitVec 8)) (s : State) : Out :=
  happen s fun s => s.served fun s =>
    let k := key / 2 ^ 60 % 2 ^ 20
    let off := key % 2 ^ 60
    let all := s.hw.pkg.frozen
    let put := fun (ok : Bool) (f : Hw → Nat → Byte → Hw) =>
      if ok then (s.updHw fun h => putBytes f h off data).answer stOk [] else s.answer stBadArg []
    if s.hw.frozenKey key = false then s.answer stRefused []
    else
      match key / 2 ^ 80 with
      | 10 =>
        if off % 1024 + data.length ≤ 1024 then
          (s.updHw fun h => h.putRow (k / 4) (k % 4) (off / 1024)
            (((h.arr (k / 4) (k % 4)).row (off / 1024)).put (off % 1024) data)).answer stOk []
        else s.answer stBadArg []
      | 11 =>
        if 0x3_0000 ≤ off ∧ off < 0x3_8000 then
          (if off % 8 = 0 ∧ data.length = 8 then
            (s.updHw fun h => h.putSpecial k ((off - 0x3_0000) / 8) (BitVec.ofNat 64 (leNat data))).answer stOk []
          else s.answer stBadArg [])
        else put (all || isRegister off) fun h => h.putStrand k
      | 12 => put all fun h => h.putArray (k / 4) (k % 4)
      | 13 => put all fun h => h.putCore k
      | 14 => put all fun h => h.putDie k
      | 16 => put all fun h => h.putPart k
      | 17 => s.answer stBadArg []
      | _ => (({ mem := Memory.writeBytes s.mem key data, hw := s.hw.stored key data.length } : State)).answer stOk []

end Sys2Proof.Machine
end

