-- ==== Sys2Proof/Machine/Dispatch.lean ====
section
/-! DEFINITION. The meaning of every row: one arm per constructor of `Instr`, each one call of its own definition. -/
namespace Sys2Proof.Machine
open Sys2Proof

/-- What an instruction or an event does. -/
def exec (i : Instr) (s : State) : Host.Outcome State Fault Refusal :=
  match i with
  | .nop => Sys2Proof.Machine.execNop s
  | .trap n => Sys2Proof.Machine.execTrap n s
  | .brk n => Sys2Proof.Machine.execBrk n s
  | .sret => Sys2Proof.Machine.execSret s
  | .wcinv => Sys2Proof.Machine.execWcinv s
  | .add d a b pfx => Sys2Proof.Machine.execAdd d a b pfx s
  | .sub d a b pfx => Sys2Proof.Machine.execSub d a b pfx s
  | .and d a b => Sys2Proof.Machine.execAnd d a b s
  | .or d a b => Sys2Proof.Machine.execOr d a b s
  | .xor d a b => Sys2Proof.Machine.execXor d a b s
  | .andn d a b => Sys2Proof.Machine.execAndn d a b s
  | .sll d a b => Sys2Proof.Machine.execSll d a b s
  | .srl d a b => Sys2Proof.Machine.execSrl d a b s
  | .sra d a b => Sys2Proof.Machine.execSra d a b s
  | .slt d a b => Sys2Proof.Machine.execSlt d a b s
  | .sltu d a b => Sys2Proof.Machine.execSltu d a b s
  | .min d a b => Sys2Proof.Machine.execMin d a b s
  | .max d a b => Sys2Proof.Machine.execMax d a b s
  | .minu d a b => Sys2Proof.Machine.execMinu d a b s
  | .maxu d a b => Sys2Proof.Machine.execMaxu d a b s
  | .mul d a b pfx => Sys2Proof.Machine.execMul d a b pfx s
  | .mulh d a b => Sys2Proof.Machine.execMulh d a b s
  | .mulhu d a b => Sys2Proof.Machine.execMulhu d a b s
  | .div d a b => Sys2Proof.Machine.execDiv d a b s
  | .divu d a b => Sys2Proof.Machine.execDivu d a b s
  | .rem d a b => Sys2Proof.Machine.execRem d a b s
  | .remu d a b => Sys2Proof.Machine.execRemu d a b s
  | .addi d a im pfx => Sys2Proof.Machine.execAddi d a im pfx s
  | .andi d a im => Sys2Proof.Machine.execAndi d a im s
  | .ori d a im => Sys2Proof.Machine.execOri d a im s
  | .xori d a im => Sys2Proof.Machine.execXori d a im s
  | .slti d a im => Sys2Proof.Machine.execSlti d a im s
  | .sltiu d a im => Sys2Proof.Machine.execSltiu d a im s
  | .slli d a im => Sys2Proof.Machine.execSlli d a im s
  | .srli d a im => Sys2Proof.Machine.execSrli d a im s
  | .srai d a im => Sys2Proof.Machine.execSrai d a im s
  | .lui d im => Sys2Proof.Machine.execLui d im s
  | .li d imm => Sys2Proof.Machine.execLi d imm s
  | .lih d imm => Sys2Proof.Machine.execLih d imm s
  | .adpc d im => Sys2Proof.Machine.execAdpc d im s
  | .bextZ d a b => Sys2Proof.Machine.execBextZ d a b s
  | .bextS d a b => Sys2Proof.Machine.execBextS d a b s
  | .bins d a b => Sys2Proof.Machine.execBins d a b s
  | .bextiZ d a wc off => Sys2Proof.Machine.execBextiZ d a wc off s
  | .bextiS d a wc off => Sys2Proof.Machine.execBextiS d a wc off s
  | .binsi d a wc off => Sys2Proof.Machine.execBinsi d a wc off s
  | .clz d a => Sys2Proof.Machine.execClz d a s
  | .ctz d a => Sys2Proof.Machine.execCtz d a s
  | .popc d a => Sys2Proof.Machine.execPopc d a s
  | .brev d a => Sys2Proof.Machine.execBrev d a s
  | .shadd1 d a b => Sys2Proof.Machine.execShadd1 d a b s
  | .shadd2 d a b => Sys2Proof.Machine.execShadd2 d a b s
  | .shadd3 d a b => Sys2Proof.Machine.execShadd3 d a b s
  | .beq d a im => Sys2Proof.Machine.execBeq d a im s
  | .bne d a im => Sys2Proof.Machine.execBne d a im s
  | .blt d a im => Sys2Proof.Machine.execBlt d a im s
  | .bge d a im => Sys2Proof.Machine.execBge d a im s
  | .bltu d a im => Sys2Proof.Machine.execBltu d a im s
  | .bgeu d a im => Sys2Proof.Machine.execBgeu d a im s
  | .jmp im => Sys2Proof.Machine.execJmp im s
  | .call im => Sys2Proof.Machine.execCall im s
  | .jr a => Sys2Proof.Machine.execJr a s
  | .callr a => Sys2Proof.Machine.execCallr a s
  | .ret => Sys2Proof.Machine.execRet s
  | .loop n a ofs => Sys2Proof.Machine.execLoop n a ofs s
  | .loopi n count ofs => Sys2Proof.Machine.execLoopi n count ofs s
  | .ldS8 d a im => Sys2Proof.Machine.execLdS8 d a im s
  | .ldZ8 d a im => Sys2Proof.Machine.execLdZ8 d a im s
  | .ldS16 d a im => Sys2Proof.Machine.execLdS16 d a im s
  | .ldZ16 d a im => Sys2Proof.Machine.execLdZ16 d a im s
  | .ldS32 d a im => Sys2Proof.Machine.execLdS32 d a im s
  | .ldZ32 d a im => Sys2Proof.Machine.execLdZ32 d a im s
  | .ld64 d a im => Sys2Proof.Machine.execLd64 d a im s
  | .st8 d a im => Sys2Proof.Machine.execSt8 d a im s
  | .st16 d a im => Sys2Proof.Machine.execSt16 d a im s
  | .st32 d a im => Sys2Proof.Machine.execSt32 d a im s
  | .st64 d a im => Sys2Proof.Machine.execSt64 d a im s
  | .aadd8 d a b => Sys2Proof.Machine.execAadd8 d a b s
  | .aswp8 d a b => Sys2Proof.Machine.execAswp8 d a b s
  | .aand8 d a b => Sys2Proof.Machine.execAand8 d a b s
  | .aor8 d a b => Sys2Proof.Machine.execAor8 d a b s
  | .axor8 d a b => Sys2Proof.Machine.execAxor8 d a b s
  | .amin8 d a b => Sys2Proof.Machine.execAmin8 d a b s
  | .amax8 d a b => Sys2Proof.Machine.execAmax8 d a b s
  | .aminu8 d a b => Sys2Proof.Machine.execAminu8 d a b s
  | .amaxu8 d a b => Sys2Proof.Machine.execAmaxu8 d a b s
  | .acas8 d a b => Sys2Proof.Machine.execAcas8 d a b s
  | .aadd16 d a b => Sys2Proof.Machine.execAadd16 d a b s
  | .aswp16 d a b => Sys2Proof.Machine.execAswp16 d a b s
  | .aand16 d a b => Sys2Proof.Machine.execAand16 d a b s
  | .aor16 d a b => Sys2Proof.Machine.execAor16 d a b s
  | .axor16 d a b => Sys2Proof.Machine.execAxor16 d a b s
  | .amin16 d a b => Sys2Proof.Machine.execAmin16 d a b s
  | .amax16 d a b => Sys2Proof.Machine.execAmax16 d a b s
  | .aminu16 d a b => Sys2Proof.Machine.execAminu16 d a b s
  | .amaxu16 d a b => Sys2Proof.Machine.execAmaxu16 d a b s
  | .acas16 d a b => Sys2Proof.Machine.execAcas16 d a b s
  | .aadd32 d a b => Sys2Proof.Machine.execAadd32 d a b s
  | .aswp32 d a b => Sys2Proof.Machine.execAswp32 d a b s
  | .aand32 d a b => Sys2Proof.Machine.execAand32 d a b s
  | .aor32 d a b => Sys2Proof.Machine.execAor32 d a b s
  | .axor32 d a b => Sys2Proof.Machine.execAxor32 d a b s
  | .amin32 d a b => Sys2Proof.Machine.execAmin32 d a b s
  | .amax32 d a b => Sys2Proof.Machine.execAmax32 d a b s
  | .aminu32 d a b => Sys2Proof.Machine.execAminu32 d a b s
  | .amaxu32 d a b => Sys2Proof.Machine.execAmaxu32 d a b s
  | .acas32 d a b => Sys2Proof.Machine.execAcas32 d a b s
  | .aadd64 d a b => Sys2Proof.Machine.execAadd64 d a b s
  | .aswp64 d a b => Sys2Proof.Machine.execAswp64 d a b s
  | .aand64 d a b => Sys2Proof.Machine.execAand64 d a b s
  | .aor64 d a b => Sys2Proof.Machine.execAor64 d a b s
  | .axor64 d a b => Sys2Proof.Machine.execAxor64 d a b s
  | .amin64 d a b => Sys2Proof.Machine.execAmin64 d a b s
  | .amax64 d a b => Sys2Proof.Machine.execAmax64 d a b s
  | .aminu64 d a b => Sys2Proof.Machine.execAminu64 d a b s
  | .amaxu64 d a b => Sys2Proof.Machine.execAmaxu64 d a b s
  | .acas64 d a b => Sys2Proof.Machine.execAcas64 d a b s
  | .ldgS8 d a disp tok => Sys2Proof.Machine.execLdgS8 d a disp tok s
  | .ldgZ8 d a disp tok => Sys2Proof.Machine.execLdgZ8 d a disp tok s
  | .ldgS16 d a disp tok => Sys2Proof.Machine.execLdgS16 d a disp tok s
  | .ldgZ16 d a disp tok => Sys2Proof.Machine.execLdgZ16 d a disp tok s
  | .ldgS32 d a disp tok => Sys2Proof.Machine.execLdgS32 d a disp tok s
  | .ldgZ32 d a disp tok => Sys2Proof.Machine.execLdgZ32 d a disp tok s
  | .ldg64 d a disp tok => Sys2Proof.Machine.execLdg64 d a disp tok s
  | .stg8 d a disp tok => Sys2Proof.Machine.execStg8 d a disp tok s
  | .stg16 d a disp tok => Sys2Proof.Machine.execStg16 d a disp tok s
  | .stg32 d a disp tok => Sys2Proof.Machine.execStg32 d a disp tok s
  | .stg64 d a disp tok => Sys2Proof.Machine.execStg64 d a disp tok s
  | .aaddG32 d a b disp tok => Sys2Proof.Machine.execAaddG32 d a b disp tok s
  | .aswpG32 d a b disp tok => Sys2Proof.Machine.execAswpG32 d a b disp tok s
  | .aandG32 d a b disp tok => Sys2Proof.Machine.execAandG32 d a b disp tok s
  | .aorG32 d a b disp tok => Sys2Proof.Machine.execAorG32 d a b disp tok s
  | .axorG32 d a b disp tok => Sys2Proof.Machine.execAxorG32 d a b disp tok s
  | .aminG32 d a b disp tok => Sys2Proof.Machine.execAminG32 d a b disp tok s
  | .amaxG32 d a b disp tok => Sys2Proof.Machine.execAmaxG32 d a b disp tok s
  | .aminuG32 d a b disp tok => Sys2Proof.Machine.execAminuG32 d a b disp tok s
  | .amaxuG32 d a b disp tok => Sys2Proof.Machine.execAmaxuG32 d a b disp tok s
  | .acasG32 d a b disp tok => Sys2Proof.Machine.execAcasG32 d a b disp tok s
  | .aaddG64 d a b disp tok => Sys2Proof.Machine.execAaddG64 d a b disp tok s
  | .aswpG64 d a b disp tok => Sys2Proof.Machine.execAswpG64 d a b disp tok s
  | .aandG64 d a b disp tok => Sys2Proof.Machine.execAandG64 d a b disp tok s
  | .aorG64 d a b disp tok => Sys2Proof.Machine.execAorG64 d a b disp tok s
  | .axorG64 d a b disp tok => Sys2Proof.Machine.execAxorG64 d a b disp tok s
  | .aminG64 d a b disp tok => Sys2Proof.Machine.execAminG64 d a b disp tok s
  | .amaxG64 d a b disp tok => Sys2Proof.Machine.execAmaxG64 d a b disp tok s
  | .aminuG64 d a b disp tok => Sys2Proof.Machine.execAminuG64 d a b disp tok s
  | .amaxuG64 d a b disp tok => Sys2Proof.Machine.execAmaxuG64 d a b disp tok s
  | .acasG64 d a b disp tok => Sys2Proof.Machine.execAcasG64 d a b disp tok s
  | .swset a b => Sys2Proof.Machine.execSwset a b s
  | .waitK k => Sys2Proof.Machine.execWaitK k s
  | .waitG a b => Sys2Proof.Machine.execWaitG a b s
  | .fence c k => Sys2Proof.Machine.execFence c k s
  | .afence t l => Sys2Proof.Machine.execAfence t l s
  | .barr g => Sys2Proof.Machine.execBarr g s
  | .barw g d => Sys2Proof.Machine.execBarw g d s
  | .barrw g d => Sys2Proof.Machine.execBarrw g d s
  | .anchor im => Sys2Proof.Machine.execAnchor im s
  | .chkpt n => Sys2Proof.Machine.execChkpt n s
  | .enq a x => Sys2Proof.Machine.execEnq a x s
  | .drain => Sys2Proof.Machine.execDrain s
  | .retire => Sys2Proof.Machine.execRetire s
  | .twait a => Sys2Proof.Machine.execTwait a s
  | .waitw a => Sys2Proof.Machine.execWaitw a s
  | .csrr d r => Sys2Proof.Machine.execCsrr d r s
  | .csrw d r => Sys2Proof.Machine.execCsrw d r s
  | .vld v a t disp nr => Sys2Proof.Machine.execVld v a t disp nr s
  | .vst v a disp nr => Sys2Proof.Machine.execVst v a disp nr s
  | .kld k a disp => Sys2Proof.Machine.execKld k a disp s
  | .kst k a disp => Sys2Proof.Machine.execKst k a disp s
  | .bld c a disp => Sys2Proof.Machine.execBld c a disp s
  | .bst c a disp => Sys2Proof.Machine.execBst c a disp s
  | .vldg v a t disp tok => Sys2Proof.Machine.execVldg v a t disp tok s
  | .vstg v a disp tok => Sys2Proof.Machine.execVstg v a disp tok s
  | .vmov d a c => Sys2Proof.Machine.execVmov d a c s
  | .vsel d a b k => Sys2Proof.Machine.execVsel d a b k s
  | .vsplat v a t => Sys2Proof.Machine.execVsplat v a t s
  | .vins v a b => Sys2Proof.Machine.execVins v a b s
  | .vext v a b => Sys2Proof.Machine.execVext v a b s
  | .vand d a b c => Sys2Proof.Machine.execVand d a b c s
  | .vor d a b c => Sys2Proof.Machine.execVor d a b c s
  | .vxor d a b c => Sys2Proof.Machine.execVxor d a b c s
  | .vnot d a c => Sys2Proof.Machine.execVnot d a c s
  | .vsll d a b c => Sys2Proof.Machine.execVsll d a b c s
  | .vsrl d a b c => Sys2Proof.Machine.execVsrl d a b c s
  | .vsra d a b c => Sys2Proof.Machine.execVsra d a b c s
  | .vadd d a b c pfx => Sys2Proof.Machine.execVadd d a b c pfx s
  | .vsub d a b c pfx => Sys2Proof.Machine.execVsub d a b c pfx s
  | .vmul d a b c pfx => Sys2Proof.Machine.execVmul d a b c pfx s
  | .vfma d a b c pfx => Sys2Proof.Machine.execVfma d a b c pfx s
  | .vfms d a b c pfx => Sys2Proof.Machine.execVfms d a b c pfx s
  | .vmin d a b c pfx => Sys2Proof.Machine.execVmin d a b c pfx s
  | .vmax d a b c pfx => Sys2Proof.Machine.execVmax d a b c pfx s
  | .vdiv d a b c pfx => Sys2Proof.Machine.execVdiv d a b c pfx s
  | .vsqrt d a c pfx => Sys2Proof.Machine.execVsqrt d a c pfx s
  | .vrsqrt d a c pfx => Sys2Proof.Machine.execVrsqrt d a c pfx s
  | .viadd d a b c pfx => Sys2Proof.Machine.execViadd d a b c pfx s
  | .visub d a b c pfx => Sys2Proof.Machine.execVisub d a b c pfx s
  | .vimul d a b c pfx => Sys2Proof.Machine.execVimul d a b c pfx s
  | .vimad d a b c pfx => Sys2Proof.Machine.execVimad d a b c pfx s
  | .vimin d a b c pfx => Sys2Proof.Machine.execVimin d a b c pfx s
  | .vimax d a b c pfx => Sys2Proof.Machine.execVimax d a b c pfx s
  | .viminu d a b c pfx => Sys2Proof.Machine.execViminu d a b c pfx s
  | .vimaxu d a b c pfx => Sys2Proof.Machine.execVimaxu d a b c pfx s
  | .viabs d a c pfx => Sys2Proof.Machine.execViabs d a c pfx s
  | .vceq k a b c => Sys2Proof.Machine.execVceq k a b c s
  | .vcne k a b c => Sys2Proof.Machine.execVcne k a b c s
  | .vclt k a b c => Sys2Proof.Machine.execVclt k a b c s
  | .vcle k a b c => Sys2Proof.Machine.execVcle k a b c s
  | .vcgt k a b c => Sys2Proof.Machine.execVcgt k a b c s
  | .vcge k a b c => Sys2Proof.Machine.execVcge k a b c s
  | .kand d a b => Sys2Proof.Machine.execKand d a b s
  | .kor d a b => Sys2Proof.Machine.execKor d a b s
  | .kxor d a b => Sys2Proof.Machine.execKxor d a b s
  | .knot d a => Sys2Proof.Machine.execKnot d a s
  | .kpop k d => Sys2Proof.Machine.execKpop k d s
  | .kffs k d => Sys2Proof.Machine.execKffs k d s
  | .vcvt d a t o g h pfx => Sys2Proof.Machine.execVcvt d a t o g h pfx s
  | .vqnt d a b c pfx => Sys2Proof.Machine.execVqnt d a b c pfx s
  | .vdqnt d a b c pfx => Sys2Proof.Machine.execVdqnt d a b c pfx s
  | .vtolns d a h pfx => Sys2Proof.Machine.execVtolns d a h pfx s
  | .vfromlns d a t h pfx => Sys2Proof.Machine.execVfromlns d a t h pfx s
  | .vlmul d a b pfx => Sys2Proof.Machine.execVlmul d a b pfx s
  | .vldiv d a b pfx => Sys2Proof.Machine.execVldiv d a b pfx s
  | .vlsqrt d a pfx => Sys2Proof.Machine.execVlsqrt d a pfx s
  | .vlrsqrt d a pfx => Sys2Proof.Machine.execVlrsqrt d a pfx s
  | .vlpow d a b pfx => Sys2Proof.Machine.execVlpow d a b pfx s
  | .vrotr d a n => Sys2Proof.Machine.execVrotr d a n s
  | .vbcr d a n => Sys2Proof.Machine.execVbcr d a n s
  | .vsumr d a c pfx => Sys2Proof.Machine.execVsumr d a c pfx s
  | .vmaxr d a c pfx => Sys2Proof.Machine.execVmaxr d a c pfx s
  | .vminr d a c pfx => Sys2Proof.Machine.execVminr d a c pfx s
  | .vrotc d a n => Sys2Proof.Machine.execVrotc d a n s
  | .vbcc d a n => Sys2Proof.Machine.execVbcc d a n s
  | .vsumc d a c pfx => Sys2Proof.Machine.execVsumc d a c pfx s
  | .vmaxc d a c pfx => Sys2Proof.Machine.execVmaxc d a c pfx s
  | .vminc d a c pfx => Sys2Proof.Machine.execVminc d a c pfx s
  | .vtbl d a b n h f => Sys2Proof.Machine.execVtbl d a b n h f s
  | .vpart d x e k => Sys2Proof.Machine.execVpart d x e k s
  | .vcomp d a f c => Sys2Proof.Machine.execVcomp d a f c s
  | .vexpd d a f c => Sys2Proof.Machine.execVexpd d a f c s
  | .vgath d a b h => Sys2Proof.Machine.execVgath d a b h s
  | .vscat d a b h => Sys2Proof.Machine.execVscat d a b h s
  | .soCfg v a => Sys2Proof.Machine.execSoCfg v a s
  | .soRte a b => Sys2Proof.Machine.execSoRte a b s
  | .soThr a b => Sys2Proof.Machine.execSoThr a b s
  | .soSend v a => Sys2Proof.Machine.execSoSend v a s
  | .soRecv v d => Sys2Proof.Machine.execSoRecv v d s
  | .soStat d b => Sys2Proof.Machine.execSoStat d b s
  | .lease d => Sys2Proof.Machine.execLease d s
  | .lrel => Sys2Proof.Machine.execLrel s
  | .mbld a b src bs lt t tok grp ge => Sys2Proof.Machine.execMbld a b src bs lt t tok grp ge s
  | .mmma a r bs clr t lat nh ge grp hd pfx => Sys2Proof.Machine.execMmma a r bs clr t lat nh ge grp hd pfx s
  | .mlat a disp => Sys2Proof.Machine.execMlat a disp s
  | .mzero r t => Sys2Proof.Machine.execMzero r t s
  | .mread a r t o g pfx => Sys2Proof.Machine.execMread a r t o g pfx s
  | .mwrite a r t => Sys2Proof.Machine.execMwrite a r t s
  | .mscale a r pfx => Sys2Proof.Machine.execMscale a r pfx s
  | .mtile r f => Sys2Proof.Machine.execMtile r f s
  | .mprog d => Sys2Proof.Machine.execMprog d s
  | .mgemv b x y sw t kc mm pfx => Sys2Proof.Machine.execMgemv b x y sw t kc mm pfx s
  | .mstat d c => Sys2Proof.Machine.execMstat d c s
  | .gemb d a b et pool zm1 nm1 => Sys2Proof.Machine.execGemb d a b et pool zm1 nm1 s
  | .gbmand d a b => Sys2Proof.Machine.execGbmand d a b s
  | .gpopx d a b => Sys2Proof.Machine.execGpopx d a b s
  | .gisect d a b c => Sys2Proof.Machine.execGisect d a b c s
  | .gscadd v w a b => Sys2Proof.Machine.execGscadd v w a b s
  | .ghist w a b => Sys2Proof.Machine.execGhist w a b s
  | .gtopk v w b => Sys2Proof.Machine.execGtopk v w b s
  | .gsortk v w g => Sys2Proof.Machine.execGsortk v w g s
  | .gcfg a b => Sys2Proof.Machine.execGcfg a b s
  | .gstat d c => Sys2Proof.Machine.execGstat d c s
  | .copy d a b => Sys2Proof.Machine.execCopy d a b s
  | .copyc d a b => Sys2Proof.Machine.execCopyc d a b s
  | .csum d a b => Sys2Proof.Machine.execCsum d a b s
  | .fill d a b => Sys2Proof.Machine.execFill d a b s
  | .publish d a b => Sys2Proof.Machine.execPublish d a b s
  | .prefetch a b => Sys2Proof.Machine.execPrefetch a b s
  | .migr d a b => Sys2Proof.Machine.execMigr d a b s
  | .cred d a b => Sys2Proof.Machine.execCred d a b s
  | .crs d a b => Sys2Proof.Machine.execCrs d a b s
  | .cag d a b => Sys2Proof.Machine.execCag d a b s
  | .cbc d a b => Sys2Proof.Machine.execCbc d a b s
  | .ca2a d a b => Sys2Proof.Machine.execCa2a d a b s
  | .viewRd d a b => Sys2Proof.Machine.execViewRd d a b s
  | .viewAck a b => Sys2Proof.Machine.execViewAck a b s
  | .viewJoin a b => Sys2Proof.Machine.execViewJoin a b s
  | .viewAdm d a b => Sys2Proof.Machine.execViewAdm d a b s
  | .xstat d a b => Sys2Proof.Machine.execXstat d a b s
  | .syncmaskWrite strand val => Sys2Proof.Machine.execSyncmaskWrite strand val s
  | .flagsWrite strand val => Sys2Proof.Machine.execFlagsWrite strand val s
  | .rndmWrite strand val => Sys2Proof.Machine.execRndmWrite strand val s
  | .srseedWrite strand val => Sys2Proof.Machine.execSrseedWrite strand val s
  | .loopRegisterWrite strand num val => Sys2Proof.Machine.execLoopRegisterWrite strand num val s
  | .kxvalWrite strand n val => Sys2Proof.Machine.execKxvalWrite strand n val s
  | .kernelEnd part => Sys2Proof.Machine.execKernelEnd part s
  | .kernelRestart part => Sys2Proof.Machine.execKernelRestart part s
  | .sdbgResume part => Sys2Proof.Machine.execSdbgResume part s
  | .graphContextStart ctx => Sys2Proof.Machine.execGraphContextStart ctx s
  | .registerWrite strand num val => Sys2Proof.Machine.execRegisterWrite strand num val s
  | .launchSubmit part addr ctx => Sys2Proof.Machine.execLaunchSubmit part addr ctx s
  | .launchSelect part => Sys2Proof.Machine.execLaunchSelect part s
  | .goBroadcast part => Sys2Proof.Machine.execGoBroadcast part s
  | .kernelT0 part => Sys2Proof.Machine.execKernelT0 part s
  | .readyReport part slot => Sys2Proof.Machine.execReadyReport part slot s
  | .anchorDeadline part => Sys2Proof.Machine.execAnchorDeadline part s
  | .holdEnd part => Sys2Proof.Machine.execHoldEnd part s
  | .syncRendezvous core => Sys2Proof.Machine.execSyncRendezvous core s
  | .tokenWaitSatisfied strand => Sys2Proof.Machine.execTokenWaitSatisfied strand s
  | .syncWaitSatisfied strand => Sys2Proof.Machine.execSyncWaitSatisfied strand s
  | .drainSatisfied strand => Sys2Proof.Machine.execDrainSatisfied strand s
  | .timeWaitSatisfied strand => Sys2Proof.Machine.execTimeWaitSatisfied strand s
  | .untimedCompletion id => Sys2Proof.Machine.execUntimedCompletion id s
  | .spaceBlockRelease strand => Sys2Proof.Machine.execSpaceBlockRelease strand s
  | .barrierArrival part grp team phase => Sys2Proof.Machine.execBarrierArrival part grp team phase s
  | .barrierErrorCompletion part grp code => Sys2Proof.Machine.execBarrierErrorCompletion part grp code s
  | .barrierRelease part grp team phase err code => Sys2Proof.Machine.execBarrierRelease part grp team phase err code s
  | .dieCompletion slot => Sys2Proof.Machine.execDieCompletion slot s
  | .leaseGrant slot arr => Sys2Proof.Machine.execLeaseGrant slot arr s
  | .leaseExpiry core => Sys2Proof.Machine.execLeaseExpiry core s
  | .arrayCommandStart slot arr load => Sys2Proof.Machine.execArrayCommandStart slot arr load s
  | .refreshWaitEnd slot arr load => Sys2Proof.Machine.execRefreshWaitEnd slot arr load s
  | .intersectStart slot iunit => Sys2Proof.Machine.execIntersectStart slot iunit s
  | .engineCommandStart slot queue => Sys2Proof.Machine.execEngineCommandStart slot queue s
  | .engineCommandComplete slot queue => Sys2Proof.Machine.execEngineCommandComplete slot queue s
  | .syncWordArrival core off bytes err code => Sys2Proof.Machine.execSyncWordArrival core off bytes err code s
  | .streamRowAccept slot node port tag row => Sys2Proof.Machine.execStreamRowAccept slot node port tag row s
  | .operatorEmit slot node => Sys2Proof.Machine.execOperatorEmit slot node s
  | .publishRequest part slot queue vas => Sys2Proof.Machine.execPublishRequest part slot queue vas s
  | .publishFlip part slot queue vas => Sys2Proof.Machine.execPublishFlip part slot queue vas s
  | .afencePromotion strand tok slot => Sys2Proof.Machine.execAfencePromotion strand tok slot s
  | .preemptPending part => Sys2Proof.Machine.execPreemptPending part s
  | .strandPark strand => Sys2Proof.Machine.execStrandPark strand s
  | .stopComplete part => Sys2Proof.Machine.execStopComplete part s
  | .resumeGo part => Sys2Proof.Machine.execResumeGo part s
  | .viewChangeTrap strand grp => Sys2Proof.Machine.execViewChangeTrap strand grp s
  | .heartbeatSend slot => Sys2Proof.Machine.execHeartbeatSend slot s
  | .heartbeatReceive pkg clock => Sys2Proof.Machine.execHeartbeatReceive pkg clock s
  | .heartbeatTimeout pkg => Sys2Proof.Machine.execHeartbeatTimeout pkg s
  | .collectivePacket part grp sender view seq data => Sys2Proof.Machine.execCollectivePacket part grp sender view seq data s
  | .collectiveNak part grp pkg => Sys2Proof.Machine.execCollectiveNak part grp pkg s
  | .collectiveStart slot queue => Sys2Proof.Machine.execCollectiveStart slot queue s
  | .ttDeliveryDeadline part grp seq sender => Sys2Proof.Machine.execTtDeliveryDeadline part grp seq sender s
  | .suspect part grp view ranks => Sys2Proof.Machine.execSuspect part grp view ranks s
  | .propose part grp view members proposer => Sys2Proof.Machine.execPropose part grp view members proposer s
  | .accept part grp view rank cfront afront => Sys2Proof.Machine.execAccept part grp view rank cfront afront s
  | .commit part grp view members cfront afront => Sys2Proof.Machine.execCommit part grp view members cfront afront s
  | .join part grp rank pkg => Sys2Proof.Machine.execJoin part grp rank pkg s
  | .joinAck part grp rank => Sys2Proof.Machine.execJoinAck part grp rank s
  | .proposeTimeout part grp => Sys2Proof.Machine.execProposeTimeout part grp s
  | .commitTimeout part grp => Sys2Proof.Machine.execCommitTimeout part grp s
  | .ptpSync port origin => Sys2Proof.Machine.execPtpSync port origin s
  | .ptpPdelayReq port => Sys2Proof.Machine.execPtpPdelayReq port s
  | .ptpPdelayResp port delay => Sys2Proof.Machine.execPtpPdelayResp port delay s
  | .ptpAnnounce port gm steps => Sys2Proof.Machine.execPtpAnnounce port gm steps s
  | .timeSourceLoss => Sys2Proof.Machine.execTimeSourceLoss s
  | .holdoverExpiry => Sys2Proof.Machine.execHoldoverExpiry s
  | .lineRequest part va kind data len ident => Sys2Proof.Machine.execLineRequest part va kind data len ident s
  | .lineRequestTimeout id => Sys2Proof.Machine.execLineRequestTimeout id s
  | .hostAccess slot win off write data len => Sys2Proof.Machine.execHostAccess slot win off write data len s
  | .tableDrainTimeout part => Sys2Proof.Machine.execTableDrainTimeout part s
  | .migrationDirect slot part va desc => Sys2Proof.Machine.execMigrationDirect slot part va desc s
  | .migrationLogClear slot => Sys2Proof.Machine.execMigrationLogClear slot s
  | .bindLd slot part => Sys2Proof.Machine.execBindLd slot part s
  | .unbindLd slot => Sys2Proof.Machine.execUnbindLd slot s
  | .swResetApply slot => Sys2Proof.Machine.execSwResetApply slot s
  | .swResetLimit slot => Sys2Proof.Machine.execSwResetLimit slot s
  | .scrubStep slot => Sys2Proof.Machine.execScrubStep slot s
  | .writebackRetire slot => Sys2Proof.Machine.execWritebackRetire slot s
  | .seamCrcFailure a b => Sys2Proof.Machine.execSeamCrcFailure a b s
  | .dieLost slot => Sys2Proof.Machine.execDieLost slot s
  | .errorBankAck slot seq => Sys2Proof.Machine.execErrorBankAck slot seq s
  | .packageReset => Sys2Proof.Machine.execPackageReset s
  | .status => Sys2Proof.Machine.execStatus s
  | .reset => Sys2Proof.Machine.execReset s
  | .dieReset slot => Sys2Proof.Machine.execDieReset slot s
  | .freeze => Sys2Proof.Machine.execFreeze s
  | .thaw => Sys2Proof.Machine.execThaw s
  | .readout key => Sys2Proof.Machine.execReadout key s
  | .write key data => Sys2Proof.Machine.execWrite key data s
  | .withdraw slot => Sys2Proof.Machine.execWithdraw slot s
  | .restore slot => Sys2Proof.Machine.execRestore slot s
  | .setmode mode => Sys2Proof.Machine.execSetmode mode s
  | .modeSwitch => Sys2Proof.Machine.execModeSwitch s
  | .ageing slot => Sys2Proof.Machine.execAgeing slot s
  | .ageingUpdate slot => Sys2Proof.Machine.execAgeingUpdate slot s
  | .resume part => Sys2Proof.Machine.execResume part s
  | .flashwr off data => Sys2Proof.Machine.execFlashwr off data s
  | .flashrd off => Sys2Proof.Machine.execFlashrd off s
  | .mctpControl cmd => Sys2Proof.Machine.execMctpControl cmd s
  | .getVersion doe => Sys2Proof.Machine.execGetVersion doe s
  | .getCapabilities doe => Sys2Proof.Machine.execGetCapabilities doe s
  | .negotiateAlgorithms doe => Sys2Proof.Machine.execNegotiateAlgorithms doe s
  | .getDigests doe => Sys2Proof.Machine.execGetDigests doe s
  | .getCertificate doe certSlot off len => Sys2Proof.Machine.execGetCertificate doe certSlot off len s
  | .challenge doe nonce => Sys2Proof.Machine.execChallenge doe nonce s
  | .getMeasurements doe index => Sys2Proof.Machine.execGetMeasurements doe index s
  | .selfRefreshEntry slot => Sys2Proof.Machine.execSelfRefreshEntry slot s
  | .endNode ctx => Sys2Proof.Machine.execEndNode ctx s
  | .launchNode ctx => Sys2Proof.Machine.execLaunchNode ctx s
  | .waitvNode ctx => Sys2Proof.Machine.execWaitvNode ctx s
  | .waitvTimeout ctx => Sys2Proof.Machine.execWaitvTimeout ctx s
  | .condNode ctx => Sys2Proof.Machine.execCondNode ctx s
  | .whileNode ctx => Sys2Proof.Machine.execWhileNode ctx s
  | .signalNode ctx => Sys2Proof.Machine.execSignalNode ctx s
  | .xferNode ctx => Sys2Proof.Machine.execXferNode ctx s
  | .hostNode ctx => Sys2Proof.Machine.execHostNode ctx s
  | .timedWriteLanding part => Sys2Proof.Machine.execTimedWriteLanding part s
  | .migrationPageFlip slot => Sys2Proof.Machine.execMigrationPageFlip slot s

end Sys2Proof.Machine
end

