-- ==== Sys2Proof/Machine/Hooks.lean ====
section
/-! DEFINITION. The registers that a word names, and what a hook that meets a frozen pending write among them does (R365). -/
namespace Sys2Proof.Machine
open Sys2Proof

/-- A register that a word reads or writes. -/
inductive RegName where
  | x (r : XReg) | v (r : VRegNo) | k (r : KRegNo) | b (r : BRegNo) | flags
  deriving DecidableEq, Repr

def maskName (m : Option KRegNo) : List RegName := match m with | some r => [.k r] | none => []

/-- The registers in the operand fields of a word, those of a pair or a table, and FLAGS where it is read or written whole;
none of an event. -/
def regNames (i : Instr) : List RegName :=
  match i with
  | .add o0 o1 o2 _ | .sub o0 o1 o2 _ | .and o0 o1 o2 | .or o0 o1 o2 | .xor o0 o1 o2 | .andn o0 o1 o2 | .sll o0 o1 o2
  | .srl o0 o1 o2 | .sra o0 o1 o2 | .slt o0 o1 o2 | .sltu o0 o1 o2 | .min o0 o1 o2 | .max o0 o1 o2 | .minu o0 o1 o2
  | .maxu o0 o1 o2 | .mul o0 o1 o2 _ | .mulh o0 o1 o2 | .mulhu o0 o1 o2 | .div o0 o1 o2 | .divu o0 o1 o2 | .rem o0 o1 o2
  | .remu o0 o1 o2 | .bextZ o0 o1 o2 | .bextS o0 o1 o2 | .bins o0 o1 o2 | .shadd1 o0 o1 o2 | .shadd2 o0 o1 o2
  | .shadd3 o0 o1 o2 | .aadd8 o0 o1 o2 | .aswp8 o0 o1 o2 | .aand8 o0 o1 o2 | .aor8 o0 o1 o2 | .axor8 o0 o1 o2
  | .amin8 o0 o1 o2 | .amax8 o0 o1 o2 | .aminu8 o0 o1 o2 | .amaxu8 o0 o1 o2 | .acas8 o0 o1 o2 | .aadd16 o0 o1 o2
  | .aswp16 o0 o1 o2 | .aand16 o0 o1 o2 | .aor16 o0 o1 o2 | .axor16 o0 o1 o2 | .amin16 o0 o1 o2 | .amax16 o0 o1 o2
  | .aminu16 o0 o1 o2 | .amaxu16 o0 o1 o2 | .acas16 o0 o1 o2 | .aadd32 o0 o1 o2 | .aswp32 o0 o1 o2 | .aand32 o0 o1 o2
  | .aor32 o0 o1 o2 | .axor32 o0 o1 o2 | .amin32 o0 o1 o2 | .amax32 o0 o1 o2 | .aminu32 o0 o1 o2 | .amaxu32 o0 o1 o2
  | .acas32 o0 o1 o2 | .aadd64 o0 o1 o2 | .aswp64 o0 o1 o2 | .aand64 o0 o1 o2 | .aor64 o0 o1 o2 | .axor64 o0 o1 o2
  | .amin64 o0 o1 o2 | .amax64 o0 o1 o2 | .aminu64 o0 o1 o2 | .amaxu64 o0 o1 o2 | .acas64 o0 o1 o2
  | .aaddG32 o0 o1 o2 _ _ | .aswpG32 o0 o1 o2 _ _ | .aandG32 o0 o1 o2 _ _ | .aorG32 o0 o1 o2 _ _ | .axorG32 o0 o1 o2 _ _
  | .aminG32 o0 o1 o2 _ _ | .amaxG32 o0 o1 o2 _ _ | .aminuG32 o0 o1 o2 _ _ | .amaxuG32 o0 o1 o2 _ _
  | .acasG32 o0 o1 o2 _ _ | .aaddG64 o0 o1 o2 _ _ | .aswpG64 o0 o1 o2 _ _ | .aandG64 o0 o1 o2 _ _ | .aorG64 o0 o1 o2 _ _
  | .axorG64 o0 o1 o2 _ _ | .aminG64 o0 o1 o2 _ _ | .amaxG64 o0 o1 o2 _ _ | .aminuG64 o0 o1 o2 _ _
  | .amaxuG64 o0 o1 o2 _ _ | .acasG64 o0 o1 o2 _ _ | .gemb o0 o1 o2 _ _ _ _ | .gbmand o0 o1 o2 | .gpopx o0 o1 o2
  | .copy o0 o1 o2 | .copyc o0 o1 o2 | .csum o0 o1 o2 | .fill o0 o1 o2 | .publish o0 o1 o2 | .migr o0 o1 o2
  | .cred o0 o1 o2 | .crs o0 o1 o2 | .cag o0 o1 o2 | .cbc o0 o1 o2 | .ca2a o0 o1 o2 | .viewRd o0 o1 o2
  | .viewAdm o0 o1 o2 | .xstat o0 o1 o2 => [.x o0, .x o1, .x o2]
  | .addi o0 o1 _ _ | .andi o0 o1 _ | .ori o0 o1 _ | .xori o0 o1 _ | .slti o0 o1 _ | .sltiu o0 o1 _ | .slli o0 o1 _
  | .srli o0 o1 _ | .srai o0 o1 _ | .bextiZ o0 o1 _ _ | .bextiS o0 o1 _ _ | .binsi o0 o1 _ _ | .clz o0 o1 | .ctz o0 o1
  | .popc o0 o1 | .brev o0 o1 | .beq o0 o1 _ | .bne o0 o1 _ | .blt o0 o1 _ | .bge o0 o1 _ | .bltu o0 o1 _
  | .bgeu o0 o1 _ | .ldS8 o0 o1 _ | .ldZ8 o0 o1 _ | .ldS16 o0 o1 _ | .ldZ16 o0 o1 _ | .ldS32 o0 o1 _ | .ldZ32 o0 o1 _
  | .ld64 o0 o1 _ | .st8 o0 o1 _ | .st16 o0 o1 _ | .st32 o0 o1 _ | .st64 o0 o1 _ | .ldgS8 o0 o1 _ _ | .ldgZ8 o0 o1 _ _
  | .ldgS16 o0 o1 _ _ | .ldgZ16 o0 o1 _ _ | .ldgS32 o0 o1 _ _ | .ldgZ32 o0 o1 _ _ | .ldg64 o0 o1 _ _ | .stg8 o0 o1 _ _
  | .stg16 o0 o1 _ _ | .stg32 o0 o1 _ _ | .stg64 o0 o1 _ _ | .swset o0 o1 | .waitG o0 o1 | .soRte o0 o1 | .soThr o0 o1
  | .soStat o0 o1 | .mbld o0 o1 _ _ _ _ _ _ _ | .mmma o0 o1 _ _ _ _ _ _ _ _ _ | .mread o0 o1 _ _ _ _ | .mwrite o0 o1 _
  | .mscale o0 o1 _ | .gcfg o0 o1 | .prefetch o0 o1 | .viewAck o0 o1 | .viewJoin o0 o1 => [.x o0, .x o1]
  | .lui o0 _ | .li o0 _ | .lih o0 _ | .adpc o0 _ | .jr o0 | .callr o0 | .twait o0 | .waitw o0 
  | .lease o0 | .mlat o0 _ | .mzero o0 _ | .mtile o0 _ | .mprog o0 | .mstat o0 _ | .gstat o0 _ =>
    [.x o0]
  | .loop _ o1 _ | .barw _ o1 | .barrw _ o1 => [.x o1]
  | .vld o0 o1 _ _ _ | .vst o0 o1 _ _ | .vldg o0 o1 _ _ _ | .vstg o0 o1 _ _ | .vsplat o0 o1 _ | .soCfg o0 o1
  | .soSend o0 o1 | .soRecv o0 o1 => [.v o0, .x o1]
  | .kld o0 o1 _ | .kst o0 o1 _ | .kpop o0 o1 | .kffs o0 o1 => [.k o0, .x o1]
  | .bld o0 o1 _ | .bst o0 o1 _ => [.b o0, .x o1]
  | .vmov o0 o1 o2 | .vnot o0 o1 o2 | .vsqrt o0 o1 o2 _ | .vrsqrt o0 o1 o2 _ | .viabs o0 o1 o2 _ | .vsumr o0 o1 o2 _
  | .vmaxr o0 o1 o2 _ | .vminr o0 o1 o2 _ | .vsumc o0 o1 o2 _ | .vmaxc o0 o1 o2 _ | .vminc o0 o1 o2 _ =>
    [.v o0, .v o1] ++ maskName o2
  | .vsel o0 o1 o2 o3 | .vand o0 o1 o2 o3 | .vor o0 o1 o2 o3 | .vxor o0 o1 o2 o3 | .vsll o0 o1 o2 o3 | .vsrl o0 o1 o2 o3
  | .vsra o0 o1 o2 o3 | .vadd o0 o1 o2 o3 _ | .vsub o0 o1 o2 o3 _ | .vmul o0 o1 o2 o3 _ | .vfma o0 o1 o2 o3 _
  | .vfms o0 o1 o2 o3 _ | .vmin o0 o1 o2 o3 _ | .vmax o0 o1 o2 o3 _ | .vdiv o0 o1 o2 o3 _ | .viadd o0 o1 o2 o3 _
  | .visub o0 o1 o2 o3 _ | .vimul o0 o1 o2 o3 _ | .vimad o0 o1 o2 o3 _ | .vimin o0 o1 o2 o3 _ | .vimax o0 o1 o2 o3 _
  | .viminu o0 o1 o2 o3 _ | .vimaxu o0 o1 o2 o3 _ => [.v o0, .v o1, .v o2] ++ maskName o3
  | .vins o0 o1 o2 | .vext o0 o1 o2 | .ghist o0 o1 o2 => [.v o0, .x o1, .x o2]
  | .vceq o0 o1 o2 o3 | .vcne o0 o1 o2 o3 | .vclt o0 o1 o2 o3 | .vcle o0 o1 o2 o3 | .vcgt o0 o1 o2 o3
  | .vcge o0 o1 o2 o3 => [.k o0, .v o1, .v o2] ++ maskName o3
  | .kand o0 o1 o2 | .kor o0 o1 o2 | .kxor o0 o1 o2 => [.k o0, .k o1, .k o2]
  | .knot o0 o1 => [.k o0, .k o1]
  | .vcvt o0 o1 _ _ _ _ _ | .vtolns o0 o1 _ _ | .vfromlns o0 o1 _ _ _ | .vlsqrt o0 o1 _ | .vlrsqrt o0 o1 _
  | .vrotr o0 o1 _ | .vbcr o0 o1 _ | .vrotc o0 o1 _ | .vbcc o0 o1 _ => [.v o0, .v o1]
  | .vqnt o0 o1 o2 o3 _ | .vdqnt o0 o1 o2 o3 _ => [.v o0, .v o1, .v o2, .b o3]
  | .vlmul o0 o1 o2 _ | .vldiv o0 o1 o2 _ | .vlpow o0 o1 o2 _ | .vgath o0 o1 o2 _
  | .vscat o0 o1 o2 _ => [.v o0, .v o1, .v o2]
  | .vpart o0 o1 o2 o3 => [.v o0, .x o1, .x o2, .k o3]
  | .vcomp o0 o1 _ o3 | .vexpd o0 o1 _ o3 => [.v o0, .v o1] ++ maskName o3
  | .mgemv o0 o1 o2 o3 _ _ _ _ | .gisect o0 o1 o2 o3 => [.x o0, .x o1, .x o2, .x o3]
  | .gscadd o0 o1 o2 o3 => [.v o0, .v o1, .x o2, .x o3]
  | .gtopk o0 o1 o2 => [.v o0, .v (evenPair o0), .v o1, .x o2]
  | .gsortk o0 o1 _ => [.v o0, .v (evenPair o0), .v o1]
  | .vtbl o0 o1 o2 n _ _ => [.v o0, .v o2] ++ (List.range (n.toNat + 1)).map fun i => .v (Fin.ofNat 16 (o1.val + i))
  | .enq o0 w => [.x o0, .x w.d, .x w.a, .x w.b]
  | .csrr d r => if r = 0x010 then [.x d, .flags] else [.x d]
  | .csrw a r => if r = 0x010 then [.x a, .flags] else [.x a]
  | _ => []

/-- Whether a pending write of kernel code of a strand is to a register. -/
def PendAct.isTo (a : PendAct) (strand : Nat) (n : RegName) : Bool :=
  match a with
  | .x i sup r _ => i == strand && !sup && n == .x r
  | .v i r _ _ _ => i == strand && n == .v r
  | .k i r _ => i == strand && n == .k r
  | .b i r _ _ => i == strand && n == .b r
  | .flags i _ => i == strand && n == .flags
  | .atomic _ _ _ _ _ _ _ (some (i, sup, r)) => i == strand && !sup && n == .x r
  | .isectLand _ i sup r _ _ => i == strand && ((!sup && n == .x r) || n == .flags)
  | .mstat i sup r _ | .gstat i sup r _ | .mprog i sup r => i == strand && !sup && n == .x r
  | .event (.flagsWrite i _) => i == strand && n == .flags
  | _ => false

/-- A word of a hook that reads or writes a register for which a write stands still in the frozen pipelines (R365). -/
def Hw.clashes (h : Hw) (i : Instr) : Bool :=
  h.inHook && (regNames i).any fun n => h.pend.any fun q => !q.wall && q.act.isTo h.cur n

end Sys2Proof.Machine
end

