-- ==== Sys2Proof/Machine/Phases.lean ====
section
/-! DEFINITION. The phases of a wall tick: which events take place in it and in which order, and the advance to the next tick
(R2, R34, R37, R88, R376, R422; notes/assumptions/9.md). -/
namespace Sys2Proof.Machine
open Sys2Proof

def allParts : List Nat := List.range 8
def phaseCount : Nat := 9

def Hw.push (h : Hw) (es : List Event) : Hw := { h with agenda := h.agenda ++ es }

/-- Parts whose timed pipelines move in this tick: no hold, no freeze. -/
def Hw.moving (h : Hw) (p : Nat) : Bool := (h.part p).live && !(h.part p).frozen
/-- A healthy bound die whose partition is not frozen; and one whose timed pipelines move. -/
def Hw.dieRuns (h : Hw) (d : Nat) : Bool := h.healthy d && (h.die d).mix.bound && !(h.part (h.partOf d)).frozen
def Hw.dieMoves (h : Hw) (d : Nat) : Bool := h.dieRuns d && h.moving (h.partOf d)
def Hw.diesWith (h : Hw) (f : Nat → Bool) : List Nat := (h.dies.map (·.1)).filter f

/-! ### Phase 0: ends of holds, masks of retired strands -/

def Hw.holdEnds (h : Hw) : List Event :=
  (allParts.filter fun p =>
    match (h.part p).kernel with
    | none => false
    | some k => match k.phase with
      | .running => k.strict && !(h.part p).live && !h.heldAt p h.wtick
      | .going w => decide (w ≤ h.wtick)
      | _ => false).map .holdEnd

/-- The SYNCMASK bit of a strand is cleared at the tick after its retire (R26). -/
def Hw.clearRetired (h : Hw) : Hw :=
  let gone := (h.strands.filter fun x => match x.2.retiredAt with | some t => decide (t < h.wtick) | none => false).map (·.1)
  gone.foldl (fun (g : Hw) k =>
    (g.updCore (coreOf k) fun c =>
      { c with syncmask := c.syncmask &&& ~~~ ((1 : BitVec 4) <<< clusterOf k) }).updStrand k fun st => { st with retiredAt := none }) h

/-! ### Phase 1: array and gather statuses, untimed completions -/

/-- Every status due is taken as it stands at the end of the tick before its landing, its value a register write of this tick; then those
that ask for it are cleared (R137, R264, R299). -/
def Hw.statsLand (h : Hw) : Hw :=
  let due := h.pend.filter fun q => h.isDue q.part q
  let value := fun (q : Pend) => match q.act with
    | .mstat k sup d _ => { q with act := .x k sup d (h.mstatValue k) }
    | .gstat k sup d _ => { q with act := .x k sup d (h.gstatValue k) }
    | _ => q
  let g : Hw := { h with pend := h.pend.map fun (q : Pend) => if h.isDue q.part q then value q else q }
  due.foldl (fun (g : Hw) q => match q.act with
    | .mstat k _ _ true => g.updCore (coreOf k) Core.clearStatus
    | .gstat k _ _ true => g.updCore (coreOf k) Core.clearCounts
    | _ => g) g

def Hw.completions (h : Hw) : List Event :=
  (h.untimed.filter fun u => h.canComplete u && !(h.part (h.partOf (slotOf u.strand))).frozen).map fun u => .untimedCompletion u.id

/-! ### Phase 2: register writes by csrw, timed landings -/

def PendAct.event? : PendAct → Option Event
  | .event e => some e
  | _ => none

def Event.isKxval : Event → Bool
  | .kxvalWrite _ _ _ => true
  | _ => false

def Hw.landings (h : Hw) : Hw :=
  allParts.foldl (fun (g : Hw) p =>
    let due := g.pend.filter (g.isDue p)
    let evs := due.filterMap fun q => q.act.event?
    let land : List Event := if due.any fun q => q.act.rank.isSome then [.timedWriteLanding p] else []
    { g with
      pend := g.pend.filter fun q => !(g.isDue p q && q.act.event?.isSome)
      agenda := g.agenda ++ evs.filter (fun e => !e.isKxval) ++ land ++ evs.filter Event.isKxval }) h

/-! ### Phase 3: what is in flight -/

def Event.isBarrier : Event → Bool
  | .barrierArrival _ _ _ _ => true
  | .barrierErrorCompletion _ _ _ => true
  | _ => false
/-- Measurements asked for over DOE come after those over I3C (R420). -/
def Event.isDoe : Event → Bool
  | .getMeasurements true _ => true
  | _ => false

/-- At the broadcast tick of a publish the pairs flip before any access of the tick is translated (R119). -/
def Event.isFlip : Event → Bool
  | .publishFlip _ _ _ _ => true
  | _ => false

def Hw.arrivals (h : Hw) : Hw :=
  let now := fun (f : Nat × Event) => decide (f.1 ≤ h.wtick) && !f.2.isBarrier
  let es := (h.flight.filter now).map (·.2)
  let rest := es.filter fun e => !e.isFlip
  { h with
    flight := h.flight.filter fun f => !now f
    agenda := h.agenda ++ es.filter Event.isFlip ++ rest.filter (fun e => !e.isDoe) ++ rest.filter Event.isDoe }

/-! ### Phase 4: starts -/

def Hw.arrayStarts (h : Hw) : List Event :=
  (h.diesWith fun d => Config.slotType d == .mx && h.dieMoves d).flatMap fun d => [0, 1, 2].flatMap fun a =>
    let busy := (h.arrCmds d a).any fun c => !c.started && c.admitted || c.halted.isSome
    let wait := fun (load : Bool) =>
      (match (if load then (h.arr d a).load else (h.arr d a).prologue) with | some p => p.deferred | none => false) &&
        !(h.waitingBanks d a load).any (inWindow (h.die d).wsph)
    (if wait true then [Event.refreshWaitEnd d a true] else []) ++ (if wait false then [Event.refreshWaitEnd d a false] else []) ++
      (if busy then [Event.arrayCommandStart d a false, Event.arrayCommandStart d a true] else [])

def Hw.isectStarts (h : Hw) : List Event :=
  (h.diesWith fun d => Config.slotType d == .gs && h.dieMoves d).flatMap fun d =>
    ([0, 1, 2, 3].filter (h.isectReady d)).map fun u => .intersectStart d u

/-- Numbers of the queues of a die, its GEMV queue as 15. -/
def queueNumbers (d : Nat) : List Nat :=
  match Config.slotType d with
  | .nb => [0, 1, 2, 3, 4, 5, 6, 7, 15]
  | .fb => [0]
  | .sw => [0, 1, 2, 3, 4, 5, 6, 7, 8]
  | .gs => [0, 1]
  | _ => []

def Hw.engineStarts (h : Hw) : List Event :=
  (h.diesWith h.dieRuns).flatMap fun d => ((queueNumbers d).filter (h.engineReady d)).map fun q => .engineCommandStart d q

/-- Rows that links deliver, in the order in which they left. -/
def Hw.rowArrivals (h : Hw) : List Event :=
  (h.diesWith h.dieMoves).flatMap fun d =>
    ((h.die d).links.filter fun l => decide (l.1 ≤ h.ptick d)).map fun l => .streamRowAccept d l.2.1.dst l.2.1.port l.2.2.tag l.2.2.data

/-- Operators that emit a row in this tick: each at most one. Where rows of two instances of one operator fall due at one tick, the older
instance's goes first and the other's a tick later (DESIGN CHOICE, notes/assumptions/97.md). -/
def Hw.emissions (h : Hw) : List Event :=
  (h.diesWith h.dieMoves).flatMap fun d =>
    ((List.range 48).filter fun n => (((h.die d).op n).emitting (h.ptick d)).isSome && ((h.die d).routeFrom n).isSome).map fun n =>
      .operatorEmit d n

/-- Collectives whose start time has come, unless they are held (R275, R282, R314). -/
def Hw.collectiveStarts (h : Hw) : List Event :=
  (h.diesWith h.dieRuns).flatMap fun d => (h.die d).queues.filterMap fun q =>
    match q.2.cmds with
    | c :: _ =>
      if xIsColl c.op && c.started && c.waiting && c.move.isNone && decide ((collDesc c.desc).tstart ≤ h.ftime) &&
          (match h.collOf c with | some (f, k) => !k.sent && !f.holds k.seq | none => false) then some (.collectiveStart d q.1) else none
    | [] => none

/-- The end of a collective begins: its outputs are on their way, those of a time-triggered move already, block by block (R285); one
in error, or that writes nothing here, completes; and one whose end came while its group was held does so now (R275). -/
def Hw.collectiveEnd (h : Hw) (f : FabGroup) (k : Coll) : Hw :=
  let p := h.partOf k.slot
  let g := h.updFab p f.num fun f => f.updColl k.seq fun k => { k with closing := true, ended := false }
  let outs := h.collOuts f k
  if k.ended then g.push [.engineCommandComplete k.slot k.queue]
  else if k.err ≠ 0 ∨ outs = [] then g.scheduleComplete k.slot k.queue
  else if k.timed && k.moves then g
  else
    let m : Moving := { begun := true, segs := outs, ready := h.wtick + (if k.timed then 0 else 1), prompt := k.timed }
    (g.updHead k.slot k.queue fun c => { c with move := some m }).used

/-- Blocks of time-triggered moves that have come go on to their outputs (R285). -/
def Hw.placeBlocks (h : Hw) : Hw :=
  allParts.foldl (fun (g : Hw) p => (g.part p).fabs.foldl (fun (g : Hw) f => f.colls.foldl (fun (g : Hw) k =>
    let new := f.newBlocks k
    let head := ((g.die k.slot).queue k.queue).cmds.head?.any fun c => c.id == k.cmd && c.started
    if new = [] || !head || f.holds k.seq || (g.part p).frozen then g
    else
      let segs := new.map fun x => (f.blockAt k x.1, x.2)
      (g.updHead k.slot k.queue fun c => { c with move := match c.move with
        | some m => some { m with begun := true, segs := m.segs ++ segs }
        | none => some { begun := true, segs := segs, ready := h.wtick, prompt := true } }).updFab p f.num fun f =>
          f.updColl k.seq fun k => { k with placed := k.placed ++ new.map (·.1) }) g) g) h

/-- The engines' commands that waited for peers and can end now. -/
def Hw.collectiveEnds (h : Hw) : Hw :=
  let h := h.placeBlocks
  allParts.foldl (fun (g : Hw) p => (g.part p).fabs.foldl (fun (g : Hw) f =>
    match f.colls with
    | k :: _ =>
      let started := ((g.die k.slot).queue k.queue).cmds.head?.any fun c => c.id == k.cmd && c.started
      if started && !k.closing && f.canPublish k && !g.lowerHolder f k && !(g.part p).frozen then g.collectiveEnd f k else g
    | [] => g) g) h

/-- view.join commands whose rank has become a member. -/
def Hw.joinEnds (h : Hw) : List Event :=
  (h.diesWith fun d => isSw d && h.dieRuns d).filterMap fun d =>
    match ((h.die d).queue 8).cmds with
    | c :: _ =>
      if c.op == .viewJoin && c.started && c.waiting &&
          (match h.fab? c.part (c.a.toNat % 256) with | some f => f.members.contains f.self | none => false) then
        some (.engineCommandComplete d 8)
      else none
    | [] => none

/-! ### Phase 4: agents, heartbeats, clocks -/

/-- Packages of a rank table other than this one, in which a member is not yet suspect. -/
def Hw.watched (h : Hw) : List Nat :=
  (allParts.flatMap fun p => (h.part p).fabs.flatMap fun f =>
    if f.agent = .lost then [] else
      (f.members.filter fun r => !f.suspects.contains r).filterMap fun r => (f.ranks[r]?).map (·.1)).eraseDups.filter (· != h.pkg.pkgId)

/-- Peer packages silent for more than 20 µs (R273). -/
def Hw.silent (h : Hw) : List Nat :=
  let late := fun (p : Nat) => decide ((amGet h.pkg.peers p {}).lastBeat + heartbeatLimit h.pkg.mode < h.wtick)
  (h.watched ++ (h.pkg.peers.filter fun x => !x.2.lost).map (·.1)).eraseDups.filter late

/-- Senders of time-triggered collectives that missed their bound, in FTIME units of 1/256 ns (R285). -/
def Hw.lateDeliveries (h : Hw) : List Event :=
  allParts.flatMap fun p => (h.part p).fabs.flatMap fun f => f.colls.flatMap fun c =>
    if c.timed && decide (c.d.tstart.toNat + (f.flat + 120) * 256 ≤ h.ftime.toNat) && f.agent != .lost then
      ((f.needs c).filter fun r => r != f.self && !h.delivered f c r && f.members.contains r && !f.suspects.contains r).map fun r =>
        .ttDeliveryDeadline p f.num c.seq r
    else []

def Hw.agentTimers (h : Hw) : List Event :=
  allParts.flatMap fun p => (h.part p).fabs.flatMap fun f =>
    (if f.agent = .proposing ∧ f.since + usTicks h.pkg.mode 100 ≤ h.wtick then [Event.proposeTimeout p f.num] else []) ++
      (if f.agent = .changing ∧ f.since + usTicks h.pkg.mode 200 ≤ h.wtick then [Event.commitTimeout p f.num] else [])

def Hw.clockEvents (h : Hw) : List Event :=
  (if h.wtick % heartbeatPeriod h.pkg.mode = 0 ∧ 6 ≤ h.pkg.bootStep then
    (h.diesWith fun d => isSw d && h.healthy d).map Event.heartbeatSend else []) ++
    (if h.pkg.clock = .holdover ∧ h.pkg.clockSince + usTicks h.pkg.mode 1000 ≤ h.wtick then [Event.holdoverExpiry] else [])

/-- A coordinator in STEADY that holds a suspicion or an admission proposes at once (R275). -/
def State.proposals (s : State) : State :=
  allParts.foldl (fun s p => (s.hw.part p).fabs.foldl (fun s f =>
    if f.agent = .steady ∧ f.coordinator = some f.self ∧ (f.suspects ≠ [] ∨ f.admitted ≠ []) then s.act p f.num else s) s) s

/-! ### Phase 5: sampling -/

def Hw.arrayTicks (m : Memory) (h : Hw) : Hw :=
  (h.diesWith fun d => Config.slotType d == .mx && h.dieMoves d).foldl (fun (g : Hw) d =>
    [0, 1, 2].foldl (fun (g : Hw) a => (g.loadTick m d a).prologueTick d a) g) h

/-! ### Phase 6: barriers -/

def Event.barrierKey : Event → Nat × Nat × Nat
  | .barrierArrival p g t _ => (p, g, t)
  | .barrierErrorCompletion p g c => (p, g, c)
  | _ => (0, 0, 0)

/-- Of the error codes that reach a group in one tick the lowest (R45). -/
def lowestErrors (es : List Event) : List Event :=
  es.filter fun e => match e with
    | .barrierErrorCompletion p g c => es.all fun x => match x with
      | .barrierErrorCompletion q k d => p != q || g != k || decide (c ≤ d)
      | _ => true
    | _ => false

def insertArrival (e : Event) (l : List Event) : List Event :=
  match l with
  | [] => [e]
  | x :: t =>
    let a := e.barrierKey
    let b := x.barrierKey
    if a.1 = b.1 ∧ a.2.1 = b.2.1 ∧ a.2.2 < b.2.2 then e :: x :: t else x :: insertArrival e t

def Hw.barriers (h : Hw) : Hw :=
  let now := fun (f : Nat × Event) => decide (f.1 ≤ h.wtick) && f.2.isBarrier
  let es := (h.flight.filter now).map (·.2)
  let isErr := fun (e : Event) => match e with | .barrierErrorCompletion _ _ _ => true | _ => false
  let g := { h with flight := h.flight.filter fun f => !now f }
  let g := g.push ((lowestErrors es).eraseDups ++ (es.filter fun e => !isErr e).foldl (fun l e => insertArrival e l) [])
  allParts.foldl (fun (g : Hw) p => (g.part p).fabs.foldl (fun (g : Hw) f => g.tryFabric p f.num) g) g

/-! ### Phase 7: waits, reports, launches -/

/-- A wait that is over, as its event. -/
def Hw.waitEvent (m : Memory) (h : Hw) (k : Nat) : Option Event :=
  let st := h.strand k
  if (h.part (h.partOf (slotOf k))).frozen then none
  else
    match st.wait with
    | .token t => if (st.token st.sup t).pend = 0 then some (.tokenWaitSatisfied k) else none
    | .sync off g => if syncMet m h k off g then some (.syncWaitSatisfied k) else none
    | .drain => if h.settled k then some (.drainSatisfied k) else none
    | .retire => if h.settled k then some (.drainSatisfied k) else none
    | .park => if h.canPark k then some (.strandPark k) else none
    | .ftime _ => if h.timeMet k then some (.timeWaitSatisfied k) else none
    | .wtick _ => if h.timeMet k then some (.timeWaitSatisfied k) else none
    | _ => none

def Hw.waitEvents (m : Memory) (h : Hw) : List Event := (h.strands.map (·.1)).filterMap (h.waitEvent m)

def Hw.rendezvous (m : Memory) (h : Hw) : List Event :=
  ((h.cores.map (·.1)).filter (h.rendezvousMet m)).map .syncRendezvous

/-- A lease that expires now (R252). -/
def Hw.expiries (h : Hw) : List Event :=
  (h.diesWith fun d => Config.slotType d == .mx && h.dieMoves d).flatMap fun d => [0, 1, 2].filterMap fun a =>
    match (h.arr d a).holder with
    | some c =>
      if (h.core c).lease = .held ∧ (32 ≤ (h.core c).used ∨ (h.core c).granted + 8192 ≤ h.leaseClock d) then some (.leaseExpiry c) else none
    | none => none

/-- Reports to the partition master, and what the master does at an anchor's ticks (R33). -/
def Hw.anchorsNow (h : Hw) (p : Nat) : Hw :=
  if h.strictOf p = false ∨ (h.part p).frozen = true then h
  else
    let g := (h.reportsDue p).foldl (fun (g : Hw) d => g.sendReport p d) h
    if (g.part p).live = false then g
    else
      let t := (g.part p).stick
      let g := g.updAnchors p fun a => if a.at_ + 95 = t ∧ a.w95 = none then { a with w95 := some g.wtick } else a
      if (g.part p).anchors.any fun a => a.at_ + 48 == t && a.late.isNone then g.push [.anchorDeadline p] else g

def Hw.stops (h : Hw) (p : Nat) : List Event :=
  match (h.part p).kernel with
  | some k =>
    if k.phase = .stopping ∧ h.allParked p = true then (if k.restoring then [.resumeGo p] else [.stopComplete p]) else []
  | none => []

def Hw.housekeeping (h : Hw) : List Event :=
  (h.diesWith h.scrubWork).map Event.scrubStep ++ (h.diesWith h.retires).map Event.writebackRetire ++
    (h.diesWith h.resetReady).map Event.swResetApply ++
    (h.diesWith fun d => h.resetOverdue d && !h.resetReady d).map Event.swResetLimit ++
    (if h.wtick % 2 ^ 32 = 0 ∧ h.wtick ≠ 0 then (h.diesWith fun d => Config.slotType d != .none).map Event.ageingUpdate else []) ++
    (if h.canSwitch then [Event.modeSwitch] else [])

def State.graphTimeouts (s : State) : List Event := ((List.range 16).filter s.waitvOver).map .waitvTimeout

/-! ### One phase -/

/-- The order of a tick: holds end; untimed accesses complete; timed writes land; messages arrive; commands start; what engines write
lands; sources are sampled and engines take their steps; barriers; waits end and launches are selected; the strands that can issue. -/
def State.runPhase (s : State) : State :=
  match s.hw.phase with
  | 0 => (s.updHw fun h => (h.push h.holdEnds).clearRetired).bootTick
  | 1 => s.updHw fun h => let g := h.statsLand; g.push g.completions
  | 2 => s.updHw Hw.landings
  | 3 => (s.updHw Hw.arrivals).serveInbox
  | 4 =>
    let s1 := (s.updHw fun h =>
      (h.push (h.clockEvents ++ h.silent.map Event.heartbeatTimeout ++ h.lateDeliveries ++ h.agentTimers ++ h.arrayStarts ++ h.isectStarts ++
        h.engineStarts ++ h.collectiveStarts ++ h.joinEnds ++ h.rowArrivals ++ h.emissions)).collectiveEnds.ptpSends).walkerTurn
    s1.proposals
  | 5 =>
    let s0 := s.landPieces
    let s1 := s0.updHw fun h => (h.sampleDue s0.mem).arrayTicks s0.mem
    s1.engineTick (s1.hw.diesWith s1.hw.dieRuns)
  | 6 => s.updHw Hw.barriers
  | 7 =>
    s.updHw fun h =>
      let h := allParts.foldl Hw.settle h
      let g := h.push (h.expiries ++ h.waitEvents s.mem ++ s.releases ++ h.rendezvous s.mem ++ s.graphTimeouts ++
        h.housekeeping ++ (h.diesWith s.canRefreshSelf).map Event.selfRefreshEntry)
      allParts.foldl (fun (g : Hw) p =>
        let g := g.anchorsNow p
        let g := g.push (g.stops p)
        let g := if g.wantsPreempt p then g.askPreempt p else g
        if g.canSelect p then g.push [.launchSelect p] else g) g
  | _ =>
    s.updHw fun h =>
      let first := h.todo.filter h.canIssue
      { h with todo := first ++ ((h.strands.map (·.1)).filter fun k => h.canIssue k && !first.contains k) }

def nextPhase (s : State) : State := s.runPhase.updHw fun h => { h with phase := h.phase + 1 }

/-! ### The end of a tick -/

/-- Arrays whose lease is to be granted or refused at the end of this tick (R252). -/
def Hw.leaseEvents (h : Hw) : List Event :=
  (h.diesWith fun d => Config.slotType d == .mx).flatMap fun d => ([0, 1, 2].filter fun a =>
    h.leaseAsks d a != [] || ((h.arr d a).holder.isNone && h.dieMoves d && (arrCores d a).any fun c => (h.core c).lease == .pend)).map fun a =>
      .leaseGrant d a

/-- The partition of an event that a breakpoint freeze keeps waiting (R376). -/
def Event.part? (h : Hw) : Event → Option Nat
  | .kernelT0 p | .goBroadcast p | .readyReport p _ | .barrierArrival p _ _ _ | .barrierErrorCompletion p _ _ => some p
  | .barrierRelease p _ _ _ _ _ | .publishRequest p _ _ _ | .publishFlip p _ _ _ | .preemptPending p => some p
  | .collectivePacket p _ _ _ _ _ => some p
  | .engineCommandComplete d _ | .collectiveStart d _ | .migrationPageFlip d | .afencePromotion _ _ d => some (h.partOf d)
  | .syncWordArrival c _ _ _ _ => some (h.partOf (c / 32))
  | _ => none

/-- A frozen partition stands still for a tick: everything of it that counts wall ticks moves on by one (R376). -/
def Hw.standStill (h : Hw) (p : Nat) : Hw :=
  let mine := fun (k : Nat) => h.partOf (slotOf k) == p
  let g : Hw := { h with
    pend := h.pend.map fun q => if q.part = p ∧ q.wall = true then { q with due := q.due + 1 } else q
    untimed := h.untimed.map fun u => if mine u.strand then { u with due := u.due + 1 } else u
    transit := h.transit.map fun t => if t.part = p then { t with ready := t.ready + 1 } else t
    flight := h.flight.map fun f => if f.2.part? h = some p then (f.1 + 1, f.2) else f
    cores := h.cores.map fun c => if h.partOf (c.1 / 32) = p then (c.1, { c.2 with gatherWall := c.2.gatherWall + 1 }) else c }
  let later := fun (o : Option Nat) => o.map (· + 1)
  let g := (g.updAnchors p fun a => { a with late := later a.late, w95 := later a.w95 }).updPart p fun q =>
    { q with hold := q.hold.map fun x => ⟨later x.until_⟩ }
  g.updStrandsOf p fun _ st =>
    { st with
      notBefore := st.notBefore + 1, startTick := st.startTick + 1
      wunits := ⟨st.wunits.div + 1, st.wunits.vec + 1, st.wunits.mask + 1, st.wunits.gpath + 1, st.wunits.port + 1, st.wunits.stream + 1⟩ }

/-- The refresh phase of a partition's dies moves by one, outside a strict kernel (R88). -/
def Hw.turnPhase (h : Hw) (p : Nat) : Hw :=
  { h with dies := h.dies.map fun d =>
      if d.2.mix.bound = true ∧ d.2.mix.part = p then (d.1, { d.2 with wsph := (d.2.wsph + 1) % 32768 }) else d }

def Hw.tickPart (h : Hw) (p : Nat) : Hw := h.updPart p fun q => { q with pclk := q.pclk + 1, live := true }

/-- A breakpoint freeze begins (R376). -/
def Hw.freezePart (h : Hw) (p : Nat) : Hw := h.updPart p fun q => { q with frozen := true, freezeNext := false }

/-- A partition at the tick that begins (R34, R37). In a freeze PHASE goes on where it counts wall ticks (R88, R376). -/
def Hw.advancePart (h : Hw) (p : Nat) : Hw :=
  let h := if (h.part p).thawNext then h.thawPart p else if (h.part p).freezeNext then h.freezePart p else h
  let q := h.part p
  if q.frozen then (if h.strictOf p then h.standStill p else (h.standStill p).turnPhase p)
  else
    match q.kernel with
    | none => (h.tickPart p).turnPhase p
    | some k =>
      match k.phase with
      | .running =>
        if k.strict = false then (h.tickPart p).turnPhase p
        else
          let g := if q.live then h else h.updPart p fun q => { q with holds := q.holds + 1 }
          if g.heldAt p g.wtick then g.updPart p fun q => { q with live := false } else g.nextSchedule p
      | .going _ => if k.strict then h else h.turnPhase p
      | .stopping => if k.strict then h.tickPart p else (h.tickPart p).turnPhase p
      | .loading => (h.updPart p fun q => { q with pclk := q.pclk + 1, live := !k.strict }).turnPhase p
      | .ending => (h.tickPart p).turnPhase p

/-- Parts of 1/256 ns that fabric time is counted in: a tick is a whole number of them in every power mode. -/
def ftimeParts : Nat := 16800 * 1000000
/-- What a wall tick adds to fabric time, slewed by at most 100 ppm (R283). -/
def Hw.ftimeStep (h : Hw) : Nat := 256000 * (16800 / usTicks h.pkg.mode 1) * (999900 + Config.slew h.wtick % 201)

/-- The next tick: WTICK, fabric time, the partitions, the end of a mode switch. -/
def Hw.nextTick (h : Hw) : Hw :=
  let f := h.fsub + h.ftimeStep
  let g : Hw := { h with
    phase := 0, wtick := h.wtick + 1, ftime := h.ftime + BitVec.ofNat 64 (f / ftimeParts), fsub := f % ftimeParts }
  let g := allParts.foldl Hw.advancePart g
  let g : Hw := { g with dies := g.dies.map fun d => if d.2.mix.bound then d else (d.1, { d.2 with wsph := (d.2.wsph + 1) % 32768 }) }
  g.updPkg fun k => match k.modeSwitch with
    | some e => if e ≤ g.wtick then { k with modeSwitch := none } else k
    | none => k

/-- When every strand has issued: leases are settled, what is sampled at latency 0 is, collectives are numbered, and the next
tick begins. -/
def State.endTick (s : State) : State :=
  if s.hw.leaseEvents = [] then ((s.updHw fun h => h.sampleDue s.mem).numberColls).updHw Hw.nextTick
  else s.updHw fun h => h.push h.leaseEvents

/-- Events that the management controller serves while the package is frozen (R422). -/
def Event.managed : Event → Bool
  | .packageReset | .status | .reset | .dieReset _ | .freeze | .thaw | .readout _ | .write _ _ | .withdraw _ | .restore _ => true
  | .setmode _ | .ageing _ | .resume _ | .flashwr _ _ | .flashrd _ | .mctpControl _ | .getVersion _ | .getCapabilities _ => true
  | .negotiateAlgorithms _ | .getDigests _ | .getCertificate _ _ _ _ | .challenge _ _ | .getMeasurements _ _ => true
  | .bindLd _ _ | .unbindLd _ => true
  | _ => false

end Sys2Proof.Machine
end

