-- ==== Sys2Proof/Machine/Run.lean ====
section
/-! DEFINITION. How the machine moves: the events due in a tick, then each strand's group in turn, then the next tick
(notes/assumptions/9.md). Fetching, decoding, lock-step bundles (R26-R29), the strict timetable's checks (R38, R185, R368)
stand here; `Step` calls `move`. -/
namespace Sys2Proof.Machine
open Sys2Proof

/-- The row that an event is. -/
noncomputable def Event.toInstr (e : Event) : Instr :=
  match e with
  | .syncmaskWrite x0 x1 => .syncmaskWrite x0 x1
  | .flagsWrite x0 x1 => .flagsWrite x0 x1
  | .rndmWrite x0 x1 => .rndmWrite x0 x1
  | .srseedWrite x0 x1 => .srseedWrite x0 x1
  | .loopRegisterWrite x0 x1 x2 => .loopRegisterWrite x0 x1 x2
  | .kxvalWrite x0 x1 x2 => .kxvalWrite x0 x1 x2
  | .kernelEnd x0 => .kernelEnd x0
  | .kernelRestart x0 => .kernelRestart x0
  | .sdbgResume x0 => .sdbgResume x0
  | .graphContextStart x0 => .graphContextStart x0
  | .registerWrite x0 x1 x2 => .registerWrite x0 x1 x2
  | .launchSubmit x0 x1 x2 => .launchSubmit x0 x1 x2
  | .launchSelect x0 => .launchSelect x0
  | .goBroadcast x0 => .goBroadcast x0
  | .kernelT0 x0 => .kernelT0 x0
  | .readyReport x0 x1 => .readyReport x0 x1
  | .anchorDeadline x0 => .anchorDeadline x0
  | .holdEnd x0 => .holdEnd x0
  | .syncRendezvous x0 => .syncRendezvous x0
  | .tokenWaitSatisfied x0 => .tokenWaitSatisfied x0
  | .syncWaitSatisfied x0 => .syncWaitSatisfied x0
  | .drainSatisfied x0 => .drainSatisfied x0
  | .timeWaitSatisfied x0 => .timeWaitSatisfied x0
  | .untimedCompletion x0 => .untimedCompletion x0
  | .spaceBlockRelease x0 => .spaceBlockRelease x0
  | .barrierArrival x0 x1 x2 x3 => .barrierArrival x0 x1 x2 x3
  | .barrierErrorCompletion x0 x1 x2 => .barrierErrorCompletion x0 x1 x2
  | .barrierRelease x0 x1 x2 x3 x4 x5 => .barrierRelease x0 x1 x2 x3 x4 x5
  | .dieCompletion x0 => .dieCompletion x0
  | .leaseGrant x0 x1 => .leaseGrant x0 x1
  | .leaseExpiry x0 => .leaseExpiry x0
  | .arrayCommandStart x0 x1 x2 => .arrayCommandStart x0 x1 x2
  | .refreshWaitEnd x0 x1 x2 => .refreshWaitEnd x0 x1 x2
  | .intersectStart x0 x1 => .intersectStart x0 x1
  | .engineCommandStart x0 x1 => .engineCommandStart x0 x1
  | .engineCommandComplete x0 x1 => .engineCommandComplete x0 x1
  | .syncWordArrival x0 x1 x2 x3 x4 => .syncWordArrival x0 x1 x2 x3 x4
  | .streamRowAccept x0 x1 x2 x3 x4 => .streamRowAccept x0 x1 x2 x3 x4
  | .operatorEmit x0 x1 => .operatorEmit x0 x1
  | .publishRequest x0 x1 x2 x3 => .publishRequest x0 x1 x2 x3
  | .publishFlip x0 x1 x2 x3 => .publishFlip x0 x1 x2 x3
  | .afencePromotion x0 x1 x2 => .afencePromotion x0 x1 x2
  | .preemptPending x0 => .preemptPending x0
  | .strandPark x0 => .strandPark x0
  | .stopComplete x0 => .stopComplete x0
  | .resumeGo x0 => .resumeGo x0
  | .viewChangeTrap x0 x1 => .viewChangeTrap x0 x1
  | .heartbeatSend x0 => .heartbeatSend x0
  | .heartbeatReceive x0 x1 => .heartbeatReceive x0 x1
  | .heartbeatTimeout x0 => .heartbeatTimeout x0
  | .collectivePacket x0 x1 x2 x3 x4 x5 => .collectivePacket x0 x1 x2 x3 x4 x5
  | .collectiveNak x0 x1 x2 => .collectiveNak x0 x1 x2
  | .collectiveStart x0 x1 => .collectiveStart x0 x1
  | .ttDeliveryDeadline x0 x1 x2 x3 => .ttDeliveryDeadline x0 x1 x2 x3
  | .suspect x0 x1 x2 x3 => .suspect x0 x1 x2 x3
  | .propose x0 x1 x2 x3 x4 => .propose x0 x1 x2 x3 x4
  | .accept x0 x1 x2 x3 x4 x5 => .accept x0 x1 x2 x3 x4 x5
  | .commit x0 x1 x2 x3 x4 x5 => .commit x0 x1 x2 x3 x4 x5
  | .join x0 x1 x2 x3 => .join x0 x1 x2 x3
  | .joinAck x0 x1 x2 => .joinAck x0 x1 x2
  | .proposeTimeout x0 x1 => .proposeTimeout x0 x1
  | .commitTimeout x0 x1 => .commitTimeout x0 x1
  | .ptpSync x0 x1 => .ptpSync x0 x1
  | .ptpPdelayReq x0 => .ptpPdelayReq x0
  | .ptpPdelayResp x0 x1 => .ptpPdelayResp x0 x1
  | .ptpAnnounce x0 x1 x2 => .ptpAnnounce x0 x1 x2
  | .timeSourceLoss => .timeSourceLoss
  | .holdoverExpiry => .holdoverExpiry
  | .lineRequest x0 x1 x2 x3 x4 x5 => .lineRequest x0 x1 x2 x3 x4 x5
  | .lineRequestTimeout x0 => .lineRequestTimeout x0
  | .hostAccess x0 x1 x2 x3 x4 x5 => .hostAccess x0 x1 x2 x3 x4 x5
  | .tableDrainTimeout x0 => .tableDrainTimeout x0
  | .migrationDirect x0 x1 x2 x3 => .migrationDirect x0 x1 x2 x3
  | .migrationLogClear x0 => .migrationLogClear x0
  | .bindLd x0 x1 => .bindLd x0 x1
  | .unbindLd x0 => .unbindLd x0
  | .swResetApply x0 => .swResetApply x0
  | .swResetLimit x0 => .swResetLimit x0
  | .scrubStep x0 => .scrubStep x0
  | .writebackRetire x0 => .writebackRetire x0
  | .seamCrcFailure x0 x1 => .seamCrcFailure x0 x1
  | .dieLost x0 => .dieLost x0
  | .errorBankAck x0 x1 => .errorBankAck x0 x1
  | .packageReset => .packageReset
  | .status => .status
  | .reset => .reset
  | .dieReset x0 => .dieReset x0
  | .freeze => .freeze
  | .thaw => .thaw
  | .readout x0 => .readout x0
  | .write x0 x1 => .write x0 x1
  | .withdraw x0 => .withdraw x0
  | .restore x0 => .restore x0
  | .setmode x0 => .setmode x0
  | .modeSwitch => .modeSwitch
  | .ageing x0 => .ageing x0
  | .ageingUpdate x0 => .ageingUpdate x0
  | .resume x0 => .resume x0
  | .flashwr x0 x1 => .flashwr x0 x1
  | .flashrd x0 => .flashrd x0
  | .mctpControl x0 => .mctpControl x0
  | .getVersion x0 => .getVersion x0
  | .getCapabilities x0 => .getCapabilities x0
  | .negotiateAlgorithms x0 => .negotiateAlgorithms x0
  | .getDigests x0 => .getDigests x0
  | .getCertificate x0 x1 x2 x3 => .getCertificate x0 x1 x2 x3
  | .challenge x0 x1 => .challenge x0 x1
  | .getMeasurements x0 x1 => .getMeasurements x0 x1
  | .selfRefreshEntry x0 => .selfRefreshEntry x0
  | .endNode x0 => .endNode x0
  | .launchNode x0 => .launchNode x0
  | .waitvNode x0 => .waitvNode x0
  | .waitvTimeout x0 => .waitvTimeout x0
  | .condNode x0 => .condNode x0
  | .whileNode x0 => .whileNode x0
  | .signalNode x0 => .signalNode x0
  | .xferNode x0 => .xferNode x0
  | .hostNode x0 => .hostNode x0
  | .timedWriteLanding x0 => .timedWriteLanding x0
  | .migrationPageFlip x0 => .migrationPageFlip x0

/-! ### Fetch and decode -/

/-- The group at a strand's program counter. -/
noncomputable def fetch (m : Memory) (h : Hw) (k : Nat) : Decoded :=
  let st := h.strand k
  decodeGroup st.unit st.sup (codeWord m h k) st.pc.toNat

/-- The trap of a decode fault (R136, R363). -/
def DecodeFault.trap : DecodeFault → TrapInfo
  | .outside => { cause := Cause.access }
  | .orphan => { cause := Cause.prefix_ }
  | .illegal => { cause := Cause.illegal }
  | .unbound => { cause := Cause.prefix_, info := 1 }
  | .outsideSecond => { cause := Cause.access }
  | .reserved => { cause := Cause.reserved }

/-! ### The strict timetable (R38, R185, R368) -/

/-- A planned group of a strict kernel: not a stub's, not one inside a trap. -/
def Hw.planned (h : Hw) (k : Nat) : Bool :=
  h.strictOf (h.partOf (slotOf k)) && (h.strand k).mode == .kernel && !(h.strand k).inTrap && !(h.strand k).stub

/-- The deviation of a group other than an anchor at a listed anchor tick, or other than a chkpt at a listed CTICK. -/
def Hw.offPlan (h : Hw) (k : Nat) (i : Instr) : Option Nat :=
  if h.planned k then
    let p := h.part (h.partOf (slotOf k))
    let anch := match p.kernel with | some kn => kn.anchors | none => []
    if anch.contains p.stick && !(match i with | .anchor _ => true | _ => false) then some 0
    else if (h.chkEntries k).any (·.ctick == p.stick) && !(match i with | .chkpt _ => true | _ => false) then some 4
    else none
  else none

/-! ### View changes and lost quorums (R280, R281) -/

/-- The explicit waits of R40. -/
def isExplicitWait : Instr → Bool
  | .waitK _ | .waitG _ _ | .barw _ _ | .barrw _ _ | .twait _ | .waitw _ | .drain | .retire => true
  | _ => false

/-- A strand in kernel code outside any trap, which may be owed a view change. -/
def Hw.atLarge (h : Hw) (k : Nat) : Bool := (h.strand k).mode == .kernel && !(h.strand k).inTrap
/-- A lost quorum is delivered at the next group of kernel code, a hook's too; in queued mode a view change at an explicit
wait, the sync rendezvous among them (notes/assumptions/70.md). -/
def Hw.owesLost (h : Hw) (k : Nat) : Bool := (h.strand k).mode == .kernel && (h.strand k).quorumLost.isSome
def Hw.owesView (h : Hw) (k : Nat) : Bool :=
  h.atLarge k && (h.strand k).viewTrap.isSome && !h.strictOf (h.partOf (slotOf k))
def Hw.deliver (h : Hw) (k : Nat) : Hw := if h.owesLost k then h.takeLost k else h.takeView k

/-! ### Configuration words of one tick (R234) -/

/-- The configuration word that an instruction is, with its operands. -/
def Hw.soOf (h : Hw) (k : Nat) : Instr → Option SoWord
  | .soCfg v a => some ⟨k, 0, ((h.strand k).v.get v).data, (h.strand k).bank.readX a, 0⟩
  | .soRte a b => some ⟨k, 1, 0, (h.strand k).bank.readX a, (h.strand k).bank.readX b⟩
  | .soThr a b => some ⟨k, 2, 0, (h.strand k).bank.readX a, (h.strand k).bank.readX b⟩
  | _ => none

/-- A member of the bundle that strand k issues now: it has its own turn, waits for it in this tick, or waits at the rendezvous. -/
def Hw.joins (m : Memory) (h : Hw) (k i : Nat) : Bool :=
  h.ready m i && (i == k || h.todo.contains i || (h.strand i).wait == .rendezvous)

/-- Configuration words that strands of lower requester key of the die of strand k are still to issue in this tick. -/
noncomputable def soAhead (m : Memory) (h : Hw) (k : Nat) : List SoWord :=
  (h.todo.filter fun j => decide (j < k) && slotOf j == slotOf k && h.canIssue j &&
      !(h.member j && nextSync m h j && !(h.members j).all (h.joins m j))).filterMap fun j =>
    match fetch m h j with
    | .group g _ _ => h.soOf j g.instr
    | .fault _ => none

/-- What a configuration word of the group about to issue is checked against stands in the state. -/
noncomputable def State.foresee (s : State) (k : Nat) (i : Instr) : State :=
  if (s.hw.soOf k i).isSome then s.updHw fun h => { h with soAhead := soAhead s.mem h k } else s

/-! ### One group -/

/-- The state in which strand k issues a group of a given extent. -/
def State.issuing (s : State) (k len pre : Nat) : State :=
  { s with hw := { s.hw with cur := k }.updStrand k fun st => { st with glen := len, gpre := pre, gsync := nextSync s.mem s.hw k } }

/-- The checks before a group's own meaning: two loop ends in it (R168), the timetable (R38). -/
def Hw.before (h : Hw) (k : Nat) (i : Instr) : Option TrapInfo :=
  if (h.strand k).twoEnds then some { cause := Cause.loop, info := 5 }
  else (h.offPlan k i).map fun n => { cause := Cause.deviation, info := n }

/-- Issues the group at the program counter of strand k: a fault of decoding, of the timetable or of two loop ends, an
undefined effect (R365), or the meaning of the instruction. A group that does not decode has the extent that LEN gives it
(R126). -/
noncomputable def issueOne (k : Nat) (s : State) : Out :=
  match fetch s.mem s.hw k with
  | .fault f =>
    .next ((s.issuing k (groupLen (codeWord s.mem s.hw k) (s.hw.strand k).pc.toNat) 0).updHw fun h => h.trap (DecodeFault.trap f))
  | .group g len pre =>
    let t := (s.foresee k g.instr).issuing k len pre
    match t.hw.before k g.instr with
    | some x => .next (t.updHw fun h => h.trap x)
    | none => if t.hw.clashes g.instr then .next (t.updHw Hw.undefined) else exec g.instr t

/-- Whether the group at the program counter of strand k is an explicit wait. -/
noncomputable def atWait (k : Nat) (s : State) : Bool :=
  match fetch s.mem s.hw k with
  | .group g _ _ => isExplicitWait g.instr
  | .fault _ => false

/-! ### Lock-step bundles (R26-R29) -/

/-- Runs the members' groups one after another; they take effect in one tick. -/
noncomputable def runMembers (ks : List Nat) (s : State) : Out :=
  match ks with
  | [] => .next s
  | k :: t =>
    match issueOne k (s.updHw fun h => h.updStrand k fun st => { st with wait := .none }) with
    | .next s' => runMembers t s'
    | .fault f => .fault f
    | .refused r => .refused r

/-- The trap that a member of a bundle has taken, or will take at the end of a freeze (R376). -/
def Strand.trapTaken (st : Strand) : Option HeldTrap :=
  match st.held with
  | some t => some t
  | none => if st.mode == .supervisor then some ⟨st.cause, st.info, st.dcode, st.stval, st.clu, true⟩ else none

/-- A member of a bundle in which cluster c has trapped: it takes its own trap, or records a bundle abort that names c; where
a freeze comes first, the entry waits for its end. -/
def Strand.abort (st : Strand) (w k c : Nat) (own : Option HeldTrap) (cause : HeldTrap) (freeze : Bool) : Strand :=
  let t : HeldTrap := match own with
    | some t => { t with bnd := true }
    | none => { cause := Cause.bundle, info := cause.info, dcode := cause.dcode, clu := BitVec.ofNat 2 c, bnd := true }
  if freeze then { st with held := some t, wait := .none } else { st.enterHeld w k t with thawed := st.thawed }

/-- A strand past its word of a bundle that takes no effect: its program counter, its loops and its return addresses go on. -/
def Strand.passed (old new : Strand) : Strand :=
  let c := if new.wait = .none then new else ({ old with glen := new.glen, gpre := new.gpre }).fallThrough
  { old with
    pc := c.pc, glen := new.glen, gpre := new.gpre, gsync := new.gsync, units := new.units, wunits := new.wunits
    kb := { old.kb with loops := c.kb.loops, rets := c.kb.rets } }

def PendAct.isLining : PendAct → Bool
  | .lining _ _ _ _ => true
  | _ => false

/-- A bundle in which a vector result has diverged from its lining. Nothing of it lands: its members go on after their words until
the divergence is found, at the landing tick of that result, with the groups that trap and abort then (R29, R409). -/
def bundleLined (after : List (Nat × Strand)) (s s' : State) : State :=
  let mates := after.map fun x => (x.1, (s.hw.strand x.1).pc)
  let diverging := s'.hw.pend.filterMap fun q => match q.act with
    | .lining k pc info _ => if s.hw.seq ≤ q.seq then some { q with act := .lining k pc info mates } else none
    | _ => none
  s.updHw fun h =>
    let g := after.foldl (fun (g : Hw) x => g.updStrand x.1 (·.passed x.2)) h
    { g with pend := g.pend ++ diverging, seq := s'.hw.seq, fresh := s'.hw.fresh }

/-- The members of a bundle whose words wait: a fault of one of them is still a trap of the bundle (R29). -/
def Hw.joinWaits (h : Hw) (after : List (Nat × Strand)) (before : Hw) (hi : Nat) : Hw :=
  let ws := after.filter fun x => x.2.wait != .none
  if ws = [] then h
  else
    (ws.foldl (fun (g : Hw) x => g.updStrand x.1 fun st => { st with joined := some before.seq }) h).updCore
      (coreOf ((after.headD (0, {})).1)) fun c =>
        { c with bundle := some { before := after.map fun x => (x.1, before.strand x.1), lo := before.seq, hi := hi } }

/-- What a bundle comes to (R28, R29, R40, R371): when a member traps, none of its words takes effect and every member takes
a trap entry, the others recording a bundle abort that names the lowest causing cluster, and errors stay recorded; when a member finds no
room, the whole bundle waits; otherwise all take effect, a diversion takes every member along, and a view change owed to a member that issued
its anchor is delivered (R280) (notes/assumptions/67.md). -/
def bundleEnd (ks : List Nat) (s s' : State) : State :=
  let after := ks.map fun k => (k, s'.hw.strand k)
  match after.findSome? fun x => x.2.trapTaken.map fun t => (x.1, t) with
  | some (c, t) =>
    let freeze := after.any fun x => x.2.held.isSome
    s.updHw fun h =>
      let g := after.foldl (fun (g : Hw) x =>
        g.updStrand x.1 fun st => st.abort g.wtick x.1 (clusterOf c) x.2.trapTaken t freeze) h
      let e := s'.hw.die (slotOf c)
      let g := g.updDie (slotOf c) fun d => { d with bank := e.bank, noted := e.noted, notedAt := e.notedAt, bankWas := e.bankWas }
      if freeze then g.updPart (g.partOf (slotOf c)) fun p => { p with freezeNext := true } else g
  | none =>
    if after.any fun x => match x.2.wait with | .space _ _ => true | _ => false then
      s.updHw fun h => after.foldl (fun (g : Hw) x =>
        g.updStrand x.1 fun st => { st with wait := match x.2.wait with | .space a b => .space a b | _ => .rendezvous }) h
    else
      if s'.hw.pend.any fun q => q.act.isLining && decide (s.hw.seq ≤ q.seq) then bundleLined after s s'
      else s'.updHw fun h =>
        let h := h.joinWaits after s.hw s'.hw.seq
        let stick := (h.part (h.partOf (slotOf (ks.headD 0)))).stick
        ks.foldl (fun (g : Hw) k =>
          if g.strictOf (g.partOf (slotOf k)) && (g.strand k).anchored == some stick then g.takeView k else g)
          (h.divertBundle ks (ks.map fun k => (k, s.hw.strand k)))

noncomputable def issueBundle (ks : List Nat) (s : State) : Out :=
  let s0 := s.updHw fun h => { h with todo := h.todo.filter fun k => !ks.contains k }
  match runMembers ks s0 with
  | .next s' => .next (bundleEnd ks s0 s')
  | o => o

/-- The turn of a member before an S = 1 word: its bundle; or, when a partner does not stand before one, the deviation trap in
strict mode (R27) and the rendezvous in queued mode (R28). A view change or a lost quorum comes first. -/
noncomputable def turnMember (k : Nat) (s : State) : Out :=
  let h := s.hw
  let ms := h.members k
  let owed := (ms.filter (h.joins s.mem k)).filter fun i => h.owesLost i || h.owesView i
  if owed ≠ [] then
    .next (s.updHw fun h =>
      let g := owed.foldl Hw.deliver h
      if owed.contains k || h.strictOf (h.partOf (slotOf k)) then g else g.updStrand k fun st => { st with wait := .rendezvous })
  else if ms.all (h.joins s.mem k) then issueBundle ms s
  else if h.strictOf (h.partOf (slotOf k)) then
    .next (s.updHw fun h => ((ms.filter (h.joins s.mem k)).foldl (fun (g : Hw) i =>
      g.trapOf i { cause := Cause.deviation, info := 1 }) h))
  else .next (s.updHw fun h => h.updStrand k fun st => { st with wait := .rendezvous })

/-- Whether the group of strand k, or a word of the bundle that it issues with, is a `lease`. -/
noncomputable def atLease (k : Nat) (s : State) : Bool :=
  (if s.hw.member k && nextSync s.mem s.hw k then s.hw.members k else [k]).any fun i =>
    match fetch s.mem s.hw i with
    | .group g _ _ => (match g.instr with | .lease _ => true | _ => false)
    | .fault _ => false

/-- Whether the `lease` of strand k waits, in this tick, for another strand's turn: in strict mode those words issue last, in
lease order (R252). -/
noncomputable def yields (k : Nat) (s : State) : Bool :=
  let h := s.hw
  let c := coreOf k
  h.strictOf (h.partOf (slotOf k)) && atLease k s &&
    (h.todo.any fun i => h.canIssue i && coreOf i != c && (!(atLease i s) ||
      (arrCores (slotOf k) (arrOf c)).contains (coreOf i) &&
        ((leaseOrder (slotOf k) (arrOf c) (h.arr (slotOf k) (arrOf c)).ptr).takeWhile (· != c)).contains (coreOf i)))

/-- The turn of strand k: nothing when it cannot issue; a later turn; what it is owed; its bundle, or its own group. -/
noncomputable def turn (k : Nat) (s : State) : Out :=
  let h := s.hw
  if h.canIssue k = false then .next s
  else if yields k s then .next (s.updHw fun h => { h with todo := h.todo ++ [k] })
  else if h.member k && nextSync s.mem h k then turnMember k s
  else if h.owesLost k || (h.owesView k && atWait k s) then .next (s.updHw fun h => h.deliver k)
  else issueOne k s

/-! ### The order of a tick (notes/assumptions/9.md) -/

/-- The management message that comes next to a frozen package: WTICK stands still, so the ticks of those that are to come say only
in which order they come; of two at one tick that over I3C comes first (R420). -/
def nextManaged (fs : List (Nat × Event)) : Option (Nat × Event) :=
  (fs.filter (·.2.managed)).foldl (fun best x => match best with
    | none => some x
    | some b => if x.1 < b.1 ∨ (x.1 = b.1 ∧ b.2.isDoe = true ∧ x.2.isDoe = false) then some x else some b) none

/-- While the package is frozen only the management controller acts (R422). -/
noncomputable def moveFrozen (s : State) : Out :=
  match s.hw.agenda.find? Event.managed with
  | some e => exec e.toInstr { s with hw := { s.hw with agenda := s.hw.agenda.erase e } }
  | none =>
    match nextManaged s.hw.flight with
    | some f => exec f.2.toInstr { s with hw := { s.hw with flight := s.hw.flight.erase f } }
    | none => .next s.serveInbox

/-- One move: the first event on the agenda, the next phase of the tick, the next strand's turn, or the next tick. -/
noncomputable def move (s : State) : Out :=
  if s.hw.pkg.frozen then moveFrozen s
  else
    match s.hw.agenda with
    | e :: rest => exec e.toInstr { s with hw := { s.hw with agenda := rest } }
    | [] =>
      if s.hw.phase < phaseCount then .next (nextPhase s)
      else
        match s.hw.todo with
        | k :: rest => turn k { s with hw := { s.hw with todo := rest } }
        | [] => .next s.endTick

/-! ### Placing an instruction for the next step -/

/-- The strand on which a table word runs: cluster 0 of the first core of an MX, VN or GS die, or the sequencer of an NB
die. -/
def unitStrand : UnitClass → Nat
  | .m => 14 * 128 | .v => 26 * 128 | .g => 34 * 128 | .seq => seqOf 4

/-- The bytes of a table word, its words in little-endian order, the bits above it zero. -/
def tableBytes (nbits w : Nat) : List Byte := leBytes 12 (w % 2 ^ nbits)

/-- A strand placed to issue, next, the group at offset 0 of the code of partition 0. -/
noncomputable def placeWord (s : State) (nbits w : Nat) : State :=
  let u := match decodeTableUnit nbits w with | some (u, _) => u | none => .m
  let k := unitStrand u
  let ws := [w % 2 ^ nbits % 2 ^ 32, w % 2 ^ nbits / 2 ^ 32 % 2 ^ 32, 0]
  let sup :=
    match decodeGroup u false (codeOf ws) 0, decodeGroup u true (codeOf ws) 0 with
    | .fault _, .group _ _ _ => true
    | _, _ => false
  let st : Strand :=
    { s.hw.strand k with
      status := .running, unit := u, codeStart := 0, codeLen := 64, pc := 0, wait := .none, notBefore := 0
      mode := if sup then .supervisor else .kernel, inTrap := sup }
  { mem := Memory.writeBytes s.mem (if sup then supKey 0 0 else codeKey 0 0) (tableBytes nbits w)
    hw := { ((s.hw.setStrand k st).updDie (slotOf k) fun d =>
              { d with mix := { d.mix with health := .good, bound := true, part := 0 } }).updPart 0 (fun p =>
                { p with kernel := some {}, supLen := 64, live := true, frozen := false }) with
            agenda := [], phase := phaseCount, todo := [k], cur := k } }

end Sys2Proof.Machine
end

