-- ==== Sys2Proof/Machine/Step.lean ====
section
/-! DEFINITION. The step function, and the placing of an instruction for the next step. -/
namespace Sys2Proof.Machine
open Sys2Proof

/-- One step of the package: one event, one phase of a tick, one strand's turn, or the next tick. -/
noncomputable def step (s : State) : Host.Outcome State Fault Refusal := move s

/-- The state with a table word placed where the next step issues it (notes/assumptions/9.md). -/
noncomputable def State.withFetchWord (s : State) (nbits w : Nat) : State := placeWord s nbits w

end Sys2Proof.Machine
end

