-- ==== Sys2Proof/Safety.lean ====
section
/-! DEFINITION. What counts as a safe run: a step that answers a next state whose memory keeps its canonical form. -/
namespace Sys2Proof.Machine
open Sys2Proof

/-- The memory is in canonical form. -/
def State.Canonical (s : State) : Prop := Memory.wf s.mem = true

/-- A step that stops with neither a fault nor a refusal. -/
def State.Goes (s : State) : Prop := ∃ t, step s = .next t

end Sys2Proof.Machine
end

