-- ==== Sys2Proof/Certificates/Slice0/Obligations.lean ====
section
/-! DEFINITION. The statements for the provers, and the words they are written in. A statement about an instruction says what
the group does at its issue tick: where the strand stands afterwards, which writes it has scheduled and for which ticks, and
that nothing else of the machine differs; what a scheduled write does when it lands is stated once, for every kind of write. -/
namespace Sys2Proof.Claims
open Sys2Proof Sys2Proof.Machine

/-! ### Words for what an issue does -/

/-- Pending writes without their places in issue order: partition, clock, tick, action. -/
def landings (l : List Pend) : List (Nat × Bool × Nat × PendAct) := l.map fun q => (q.part, q.wall, q.due, q.act)

/-- A write scheduled by the current group, a number of ticks from now on the strand's clock (R7, R137). -/
def inTicks (h : Hw) (a : Nat × PendAct) : Nat × Bool × Nat × PendAct := (h.myPart, h.useWall h.cur, h.tick + a.1, a.2)

/-- `t` is `s` after the issue of a group that leaves the current strand as `st` and schedules the writes `acts`, in that
order: memory, every other strand, the cores, the dies, the partitions, the package, the accesses in flight, the events to
come, the clocks and the free-value counter are as they were. -/
def Issued (s t : State) (st : Strand) (acts : List (Nat × PendAct)) : Prop :=
  t = { s with hw := { s.hw with strands := t.hw.strands, pend := t.hw.pend, seq := t.hw.seq } } ∧
  t.hw.st = st ∧ (∀ k, k ≠ s.hw.cur → t.hw.strand k = s.hw.strand k) ∧
  landings t.hw.pend = landings s.hw.pend ++ acts.map (inTicks s.hw)

/-- The write of a scalar result: none for x0 (R128). -/
def xWrite (h : Hw) (d : XReg) (v : W64) (lat : Nat) : List (Nat × PendAct) :=
  if d = 0 then [] else [(lat, .x h.cur h.st.sup d v)]
/-- The FLAGS bits that a group raises, set when its result lands (R68). -/
def flagWrite (h : Hw) (bits : BitVec 6) (lat : Nat) : List (Nat × PendAct) :=
  if bits = 0 then [] else [(lat, .flags h.cur bits)]

/-- The group completes: control falls through it, and its scalar result and flags land `lat` ticks later. -/
def Computes (s : State) (i : Instr) (d : XReg) (v : W64) (fl : BitVec 6) (lat : Nat) : Prop :=
  ∃ t, exec i s = .next t ∧ Issued s t s.hw.st.fallThrough (xWrite s.hw d v lat ++ flagWrite s.hw fl lat)

/-- The group completes, leaving the strand as `st` and scheduling `acts`. -/
def Does (s : State) (i : Instr) (st : Strand) (acts : List (Nat × PendAct)) : Prop :=
  ∃ t, exec i s = .next t ∧ Issued s t st acts

/-- The group takes a trap in kernel mode: the strand stands after trap entry, and nothing else differs. -/
def Traps (s : State) (i : Instr) (x : TrapInfo) : Prop :=
  ∃ t, exec i s = .next t ∧ Issued s t (s.hw.st.enterTrap s.hw.wtick s.hw.cur x) []

/-- A 64-bit value from an integer, modulo 2^64. -/
def w64 (v : Int) : W64 := BitVec.ofInt 64 v
/-- One for a condition that holds, else zero. -/
def one (b : Prop) [Decidable b] : W64 := if b then 1 else 0

/-! ### Words of the encoding forms (R126, R130) -/

/-- A word of R form without prefix and without the S bit. -/
def rWord (maj fn d a b : Nat) : Nat := maj * 2 ^ 24 + d * 2 ^ 19 + a * 2 ^ 14 + b * 2 ^ 9 + fn * 2 ^ 4
/-- A word of I form. -/
def iWord (maj d a i : Nat) : Nat := maj * 2 ^ 24 + d * 2 ^ 19 + a * 2 ^ 14 + i * 2 ^ 4
/-- A word of L form. -/
def lWord (maj d i : Nat) : Nat := maj * 2 ^ 24 + d * 2 ^ 19 + i * 2 ^ 4
/-- On every unit and in both modes the words, the second of them 0 where there is none, are the instruction. -/
def Reads (w w2 : Nat) (i : Instr) : Prop := ∀ (u : UnitClass) (sup : Bool), decodeWord u sup w w2 none = .ok i
/-- On every unit, in both modes and under any prefix the words are a reserved encoding. -/
def Reserved (w w2 : Nat) : Prop := ∀ (u : UnitClass) (sup : Bool) (p : Option Nat), decodeWord u sup w w2 p = .error .reserved

end Sys2Proof.Claims

open Sys2Proof Sys2Proof.Machine Sys2Proof.Claims

/-! ### Class C: arithmetic (R150-R161) -/

/-- R154: the eighteen members of major 0x01 without a prefix, their results with the latencies of R151, and their words; FN 18-31
are reserved. -/
def Obligations.IntegerRegisterOps : Prop :=
  (∀ (s : State) (d a b : XReg),
    let x := s.hw.rx a
    let y := s.hw.rx b
    Computes s (.add d a b none) d (w64 (x.toNat + y.toNat)) 0 1 ∧
    Computes s (.sub d a b none) d (w64 ((x.toNat : Int) - y.toNat)) 0 1 ∧
    Computes s (.and d a b) d (x &&& y) 0 1 ∧
    Computes s (.or d a b) d (x ||| y) 0 1 ∧
    Computes s (.xor d a b) d (x ^^^ y) 0 1 ∧
    Computes s (.andn d a b) d (x &&& ~~~y) 0 1 ∧
    Computes s (.sll d a b) d (w64 (x.toNat * 2 ^ (y.toNat % 64))) 0 1 ∧
    Computes s (.srl d a b) d (w64 (x.toNat / 2 ^ (y.toNat % 64))) 0 1 ∧
    Computes s (.sra d a b) d (w64 (x.toInt / 2 ^ (y.toNat % 64))) 0 1 ∧
    Computes s (.slt d a b) d (one (x.toInt < y.toInt)) 0 1 ∧
    Computes s (.sltu d a b) d (one (x.toNat < y.toNat)) 0 1 ∧
    Computes s (.min d a b) d (w64 (min x.toInt y.toInt)) 0 1 ∧
    Computes s (.max d a b) d (w64 (max x.toInt y.toInt)) 0 1 ∧
    Computes s (.minu d a b) d (w64 (min x.toNat y.toNat : Nat)) 0 1 ∧
    Computes s (.maxu d a b) d (w64 (max x.toNat y.toNat : Nat)) 0 1 ∧
    Computes s (.mul d a b none) d (w64 (x.toNat * y.toNat)) 0 3 ∧
    Computes s (.mulh d a b) d (w64 (x.toInt * y.toInt / 2 ^ 64)) 0 3 ∧
    Computes s (.mulhu d a b) d (w64 (x.toNat * y.toNat / 2 ^ 64 : Nat)) 0 3) ∧
  (∀ d a b : XReg,
    let reads := fun (fn : Nat) (i : Instr) => Reads (rWord 0x01 fn d.val a.val b.val) 0 i
    reads 0 (.add d a b none) ∧ reads 1 (.sub d a b none) ∧ reads 2 (.and d a b) ∧
    reads 3 (.or d a b) ∧ reads 4 (.xor d a b) ∧ reads 5 (.andn d a b) ∧
    reads 6 (.sll d a b) ∧ reads 7 (.srl d a b) ∧ reads 8 (.sra d a b) ∧
    reads 9 (.slt d a b) ∧ reads 10 (.sltu d a b) ∧ reads 11 (.min d a b) ∧
    reads 12 (.max d a b) ∧ reads 13 (.minu d a b) ∧ reads 14 (.maxu d a b) ∧
    reads 15 (.mul d a b none) ∧ reads 16 (.mulh d a b) ∧ reads 17 (.mulhu d a b)) ∧
  ∀ w w2, fld w 24 8 = 0x01 → 18 ≤ fld w 4 5 → Reserved w w2

/-- R155: with a bound prefix, add, sub, mul and addi deliver the exact signed result through SAT, and FLAGS.SAT is raised
when SAT changes it; a prefix whose SAT is none leaves the wrapping result. -/
def Obligations.SaturatingArithmetic : Prop :=
  ∀ (s : State) (d a b : XReg) (i : BitVec 10) (p : Prefix), p.sat.toNat ≤ 4 →
    let x := (s.hw.rx a).toInt
    let y := (s.hw.rx b).toInt
    let clamp := fun (v lo hi : Int) => max lo (min hi v)
    let saturate := fun (v : Int) =>
      if p.sat = 1 then clamp v (-2 ^ 63) (2 ^ 63 - 1) else if p.sat = 2 then clamp v 0 (2 ^ 63 - 1)
      else if p.sat = 3 then clamp v 0 1 else if p.sat = 4 then clamp v (-1) 1 else v
    let raised := fun (v : Int) => if saturate v = v then (0 : BitVec 6) else fSAT
    Computes s (.add d a b (some p)) d (w64 (saturate (x + y))) (raised (x + y)) 1 ∧
    Computes s (.sub d a b (some p)) d (w64 (saturate (x - y))) (raised (x - y)) 1 ∧
    Computes s (.mul d a b (some p)) d (w64 (saturate (x * y))) (raised (x * y)) 3 ∧
    Computes s (.addi d a i (some p)) d (w64 (saturate (x + i.toInt))) (raised (x + i.toInt)) 1

/-- R156: the immediate forms of majors 0x03-0x0B, their results and their words; shift counts of 64 and more are reserved. -/
def Obligations.ImmediateOps : Prop :=
  (∀ (s : State) (d a : XReg) (i : BitVec 10),
    let x := s.hw.rx a
    let n := w64 i.toInt
    Computes s (.addi d a i none) d (w64 (x.toNat + i.toInt)) 0 1 ∧
    Computes s (.andi d a i) d (x &&& n) 0 1 ∧
    Computes s (.ori d a i) d (x ||| n) 0 1 ∧
    Computes s (.xori d a i) d (x ^^^ n) 0 1 ∧
    Computes s (.slti d a i) d (one (x.toInt < i.toInt)) 0 1 ∧
    Computes s (.sltiu d a i) d (one (x.toNat < n.toNat)) 0 1 ∧
    (i.toNat < 64 →
      Computes s (.slli d a i) d (w64 (x.toNat * 2 ^ i.toNat)) 0 1 ∧
      Computes s (.srli d a i) d (w64 (x.toNat / 2 ^ i.toNat)) 0 1 ∧
      Computes s (.srai d a i) d (w64 (x.toInt / 2 ^ i.toNat)) 0 1)) ∧
  (∀ (d a : XReg) (i : BitVec 10),
    let reads := fun (maj : Nat) (k : Instr) => Reads (iWord maj d.val a.val i.toNat) 0 k
    reads 0x03 (.addi d a i none) ∧ reads 0x04 (.andi d a i) ∧ reads 0x05 (.ori d a i) ∧ reads 0x06 (.xori d a i) ∧
    reads 0x07 (.slti d a i) ∧ reads 0x08 (.sltiu d a i) ∧
    (i.toNat < 64 → reads 0x09 (.slli d a i) ∧ reads 0x0A (.srli d a i) ∧ reads 0x0B (.srai d a i))) ∧
  ∀ w w2, (fld w 24 8 = 0x09 ∨ fld w 24 8 = 0x0A ∨ fld w 24 8 = 0x0B) → 64 ≤ fld w 4 10 → Reserved w w2

/-- R157, with the divider free: the quotient towards zero, its remainder, all ones and FLAGS.DZ for a zero divisor; the
divider is taken for 16 ticks (R151). Their words; FN 4-31 are reserved. -/
def Obligations.Division : Prop :=
  (∀ w w2, fld w 24 8 = 0x02 → 4 ≤ fld w 4 5 → Reserved w w2) ∧
  ∀ (s : State) (d a b : XReg),
    let reads := fun (fn : Nat) (i : Instr) => Reads (rWord 0x02 fn d.val a.val b.val) 0 i
    reads 0 (.div d a b) ∧ reads 1 (.divu d a b) ∧ reads 2 (.rem d a b) ∧ reads 3 (.remu d a b) ∧
    (s.hw.divBusy = false →
    let x := s.hw.rx a
    let y := s.hw.rx b
    let st := s.hw.takeDiv.st.fallThrough
    let lands := fun (i : Instr) (v : W64) (fl : BitVec 6) => Does s i st (xWrite s.hw d v 18 ++ flagWrite s.hw fl 18)
    (y = 0 → lands (.div d a b) (w64 (-1)) fDZ ∧ lands (.divu d a b) (w64 (-1)) fDZ ∧ lands (.rem d a b) (w64 (-1)) fDZ ∧
      lands (.remu d a b) (w64 (-1)) fDZ) ∧
    (y ≠ 0 →
      lands (.div d a b) (w64 (x.toInt.tdiv y.toInt)) 0 ∧ lands (.divu d a b) (w64 (x.toNat / y.toNat : Nat)) 0 ∧
      lands (.rem d a b) (w64 (x.toInt - x.toInt.tdiv y.toInt * y.toInt)) 0 ∧
      lands (.remu d a b) (w64 (x.toNat % y.toNat : Nat)) 0) ∧
    s.hw.takeDiv.units.div = s.hw.tick + 16)

/-- R158, R161: the constants, the counts and the scaled additions. -/
def Obligations.ConstantsCountsScaledAdds : Prop :=
  ∀ (s : State) (d a b : XReg) (i : BitVec 15) (imm : BitVec 32),
    let x := s.hw.rx a
    let y := s.hw.rx b
    Computes s (.lui d i) d (w64 (i.toInt * 1024)) 0 1 ∧
    Computes s (.li d imm) d (w64 imm.toInt) 0 1 ∧
    Computes s (.lih d imm) d (w64 (imm.toNat * 2 ^ 32 + (s.hw.rx d).toNat % 2 ^ 32 : Nat)) 0 1 ∧
    Computes s (.adpc d i) d (w64 (s.hw.st.wordAddr.toNat + i.toInt * 4)) 0 1 ∧
    Computes s (.shadd1 d a b) d (w64 (x.toNat * 2 + y.toNat : Nat)) 0 1 ∧
    Computes s (.shadd2 d a b) d (w64 (x.toNat * 4 + y.toNat : Nat)) 0 1 ∧
    Computes s (.shadd3 d a b) d (w64 (x.toNat * 8 + y.toNat : Nat)) 0 1 ∧
    (∃ n, Computes s (.clz d a) d (BitVec.ofNat 64 n) 0 1 ∧ n ≤ 64 ∧ (∀ j, 64 - n ≤ j → x.getLsbD j = false) ∧
      (n < 64 → x.getLsbD (63 - n) = true)) ∧
    (∃ n, Computes s (.ctz d a) d (BitVec.ofNat 64 n) 0 1 ∧ n ≤ 64 ∧ (∀ j, j < n → x.getLsbD j = false) ∧
      (n < 64 → x.getLsbD n = true)) ∧
    Computes s (.popc d a) d (BitVec.ofNat 64 ((List.range 64).countP fun j => x.getLsbD j)) 0 1 ∧
    (∃ v : W64, Computes s (.brev d a) d v 0 1 ∧ ∀ j, j < 64 → v.getLsbD j = x.getLsbD (63 - j)) ∧
    -- their words; a B field that is not zero, and an IMM15 that is not zero beside a second word, are reserved
    (let r := fun (maj fn b : Nat) (k : Instr) => Reads (rWord maj fn d.val a.val b) 0 k
     r 0x12 0 0 (.clz d a) ∧ r 0x12 1 0 (.ctz d a) ∧ r 0x12 2 0 (.popc d a) ∧ r 0x12 3 0 (.brev d a) ∧
     r 0x13 0 b.val (.shadd1 d a b) ∧ r 0x13 1 b.val (.shadd2 d a b) ∧ r 0x13 2 b.val (.shadd3 d a b) ∧
     Reads (lWord 0x0C d.val i.toNat) 0 (.lui d i) ∧ Reads (lWord 0x0F d.val i.toNat) 0 (.adpc d i) ∧
     Reads (lWord 0x0D d.val 0 + 1) imm.toNat (.li d imm) ∧ Reads (lWord 0x0E d.val 0 + 1) imm.toNat (.lih d imm)) ∧
    ∀ w w2, (fld w 24 8 = 0x12 ∧ fld w 9 5 ≠ 0) ∨ ((fld w 24 8 = 0x0D ∨ fld w 24 8 = 0x0E) ∧ fld w 4 15 ≠ 0) → Reserved w w2

/-- R159, R160: extracting and inserting bit fields; bits beyond 63 read 0, and bits that do not fit are not written. -/
def Obligations.BitFields : Prop :=
  ∀ (s : State) (d a b : XReg) (wc off : BitVec 6),
    let x := s.hw.rx a
    let y := s.hw.rx b
    let field := fun (o w : Nat) => x.toNat / 2 ^ o % 2 ^ w
    let signed := fun (o w : Nat) =>
      if 0 < w ∧ 2 ^ (w - 1) ≤ field o w then (field o w : Int) - 2 ^ w else (field o w : Int)
    let inserted := fun (v : W64) (o w : Nat) =>
      ∀ j, j < 64 → v.getLsbD j = if o ≤ j ∧ j < o + w then x.getLsbD (j - o) else (s.hw.rx d).getLsbD j
    let o := y.toNat % 256
    let w := min (y.toNat / 256 % 256) 64
    let n := if wc = 0 then 64 else wc.toNat
    Computes s (.bextZ d a b) d (w64 (field o w)) 0 1 ∧
    Computes s (.bextS d a b) d (w64 (signed o w)) 0 1 ∧
    (∃ v, Computes s (.bins d a b) d v 0 1 ∧ inserted v o w) ∧
    Computes s (.bextiZ d a wc off) d (w64 (field off.toNat n)) 0 1 ∧
    Computes s (.bextiS d a wc off) d (w64 (signed off.toNat n)) 0 1 ∧
    (∃ v, Computes s (.binsi d a wc off) d v 0 1 ∧ inserted v off.toNat n) ∧
    -- their words; what must be zero and is not is reserved
    (let r := fun (fn : Nat) (k : Instr) => Reads (rWord 0x10 fn d.val a.val b.val) 0 k
     let r2 := fun (fn : Nat) (k : Instr) => Reads (rWord 0x11 fn d.val a.val 0 + 1) (wc.toNat * 64 + off.toNat) k
     r 0 (.bextZ d a b) ∧ r 1 (.bextS d a b) ∧ r 2 (.bins d a b) ∧
     r2 0 (.bextiZ d a wc off) ∧ r2 1 (.bextiS d a wc off) ∧ r2 2 (.binsi d a wc off)) ∧
    ∀ w w2, fld w 24 8 = 0x11 → fld w 9 5 ≠ 0 ∨ fld w2 12 20 ≠ 0 → Reserved w w2

/-! ### Class C: control transfer and loops (R162-R170) -/

/-- R162, R163: the six conditional branches and `jmp`, with offsets in words from the address of the word that holds them. -/
def Obligations.Branches : Prop :=
  ∀ (s : State) (d a : XReg) (i : BitVec 10) (j : BitVec 20),
    let x := s.hw.rx d
    let y := s.hw.rx a
    let st := s.hw.st
    let tgt := w64 (st.wordAddr.toNat + i.toInt * 4)
    let goes := fun (k : Instr) (c : Bool) => Does s k (if c then st.branchTo tgt else st.fallThrough) []
    goes (.beq d a i) (decide (x = y)) ∧ goes (.bne d a i) (decide (x ≠ y)) ∧
    goes (.blt d a i) (decide (x.toInt < y.toInt)) ∧ goes (.bge d a i) (decide (y.toInt ≤ x.toInt)) ∧
    goes (.bltu d a i) (decide (x.toNat < y.toNat)) ∧ goes (.bgeu d a i) (decide (y.toNat ≤ x.toNat)) ∧
    Does s (.jmp j) (st.branchTo (w64 (st.wordAddr.toNat + j.toInt * 4))) [] ∧
    (let reads := fun (maj : Nat) (k : Instr) => Reads (iWord maj d.val a.val i.toNat) 0 k
     reads 0x18 (.beq d a i) ∧ reads 0x19 (.bne d a i) ∧ reads 0x1A (.blt d a i) ∧ reads 0x1B (.bge d a i) ∧
     reads 0x1C (.bltu d a i) ∧ reads 0x1D (.bgeu d a i))

/-- A loop that a transfer to `t` leaves (R169). -/
def Sys2Proof.Claims.leaves (l : Loop) (t : W64) : Prop := l.act = true ∧ (t.toNat < l.start.toNat ∨ l.last.toNat < t.toNat)

/-- R169: a taken branch, `jmp` or `jr` ends exactly the active loops that its target leaves; the return-address store, the
registers, the tokens and the other bank stay. -/
def Sys2Proof.Claims.TakenBranchEndsLoopsLeft : Prop :=
  ∀ (st : Strand) (t : W64),
    let u := st.branchTo t
    u.pc = t ∧ u.mode = st.mode ∧ u.bank.x = st.bank.x ∧ u.bank.tok = st.bank.tok ∧ u.bank.rets = st.bank.rets ∧
    u.bankOf (!st.sup) = st.bankOf (!st.sup) ∧
    ∀ n : LoopNo,
      (leaves (st.bank.loops.get n) t →
        u.bank.loops.get n = { st.bank.loops.get n with act := false, count := 0 }) ∧
      (¬ leaves (st.bank.loops.get n) t → u.bank.loops.get n = st.bank.loops.get n)

/-- The group holds the last word of loop `l` (R166). -/
def Sys2Proof.Claims.endsAt (st : Strand) (l : Loop) : Prop :=
  l.act = true ∧ st.pc.toNat ≤ l.last.toNat ∧ l.last.toNat < st.pc.toNat + st.glen

/-- R168: a group that holds no loop's end is followed by the group in address order; the last group of one active loop takes
the back-edge while iterations remain, and otherwise ends the loop. Groups are of at most 12 bytes (R133). -/
def Sys2Proof.Claims.BackEdge : Prop :=
  ∀ (st : Strand), st.glen ≤ 12 →
    ((∀ n : LoopNo, ¬ endsAt st (st.bank.loops.get n)) →
      st.fallThrough = { st with pc := w64 (st.pc.toNat + st.glen) }) ∧
    ∀ n : LoopNo, endsAt st (st.bank.loops.get n) → (∀ m : LoopNo, m ≠ n → ¬ endsAt st (st.bank.loops.get m)) →
      let l := st.bank.loops.get n
      (1 < l.count.toNat →
        st.fallThrough.pc = l.start ∧ st.fallThrough.bank.loops.get n = { l with count := l.count - 1 }) ∧
      (l.count.toNat ≤ 1 →
        st.fallThrough.pc = w64 (st.pc.toNat + st.glen) ∧
        st.fallThrough.bank.loops.get n = { l with act := false, count := 0 }) ∧
      (∀ m : LoopNo, m ≠ n → st.fallThrough.bank.loops.get m = st.bank.loops.get m) ∧
      st.fallThrough.bank.x = st.bank.x ∧ st.fallThrough.bank.tok = st.bank.tok ∧
      st.fallThrough.bank.rets = st.bank.rets ∧ st.fallThrough.mode = st.mode ∧
      st.fallThrough.bankOf (!st.sup) = st.bankOf (!st.sup)

/-- R168, R169: loops end by transfers that leave them and by their own back-edges. -/
def Obligations.LoopControl : Prop := TakenBranchEndsLoopsLeft ∧ BackEdge

/-- The strand after a call to `t` (R163): the address of the word after the call's first word is pushed; loop state stays. -/
def Sys2Proof.Claims.called (st : Strand) (t : W64) : Strand :=
  { st.updBank (fun b => { b with rets := w64 (st.wordAddr.toNat + 4) :: b.rets }) with pc := t }

/-- R163-R165: `call`, `callr`, `jr` and `ret` within the depth of the return-address store and to targets on the word grid.
A `ret` that ends the hook of a reflected trap ends that trap too (R365); here, in queued mode. -/
def Sys2Proof.Claims.CallsReturn : Prop :=
  ∀ (s : State) (a : XReg) (j : BitVec 20),
    let st := s.hw.st
    let tgt := s.hw.rx a
    (st.bank.rets.length < 16 → st.wordAddr.toNat % 4 = 0 → Does s (.call j) (called st (w64 (st.wordAddr.toNat + j.toInt * 4))) []) ∧
    (st.bank.rets.length < 16 → tgt.toNat % 4 = 0 → Does s (.callr a) (called st tgt) []) ∧
    (tgt.toNat % 4 = 0 → Does s (.jr a) (st.branchTo tgt) []) ∧
    ∀ (t : W64) (rest : List W64), st.bank.rets = t :: rest → t.toNat % 4 = 0 →
      let back : Strand := { st.updBank (fun b => { b with rets := rest }) with pc := t }
      ((∀ holds more, st.mode = .kernel → st.hooks ≠ (rest.length, holds) :: more) → Does s .ret back []) ∧
      (∀ holds more, st.mode = .kernel → st.hooks = (rest.length, holds) :: more → s.hw.strict = false →
        Does s .ret { back with inTrap := !more.isEmpty, hooks := more, notBefore := s.hw.wtick + 1
                                thawed := st.thawed && !more.isEmpty } [])

/-- R164, R165 in kernel mode: a call at depth 16 overflows the return-address store and a `ret` at depth 0 underflows it,
before a target off the word grid is an access fault; in every case nothing but the trap entry happens. -/
def Sys2Proof.Claims.CallAndReturnTraps : Prop :=
  ∀ (s : State) (a : XReg) (j : BitVec 20), s.hw.st.mode = .kernel →
    let st := s.hw.st
    (16 ≤ st.bank.rets.length →
      Traps s (.call j) { cause := 0x08, info := 16 } ∧ Traps s (.callr a) { cause := 0x08, info := 16 }) ∧
    (st.bank.rets.length < 16 → (s.hw.rx a).toNat % 4 ≠ 0 → Traps s (.callr a) { cause := 0x06 }) ∧
    ((s.hw.rx a).toNat % 4 ≠ 0 → Traps s (.jr a) { cause := 0x06 }) ∧
    (st.bank.rets = [] → Traps s .ret { cause := 0x09 }) ∧
    (∀ t rest, st.bank.rets = t :: rest → t.toNat % 4 ≠ 0 → Traps s .ret { cause := 0x06 })

/-- R163-R165: calls and returns, and where they trap. -/
def Obligations.CallsAndReturns : Prop := CallsReturn ∧ CallAndReturnTraps

/-- R166, R167: `loop` and `loopi` take their checks in order, each failing check the loop-nesting fault with its number; a
count of 0 goes to the group after the loop's last, any other count activates the loop. -/
def Obligations.HardwareLoops : Prop :=
  ∀ (s : State) (n : LoopNo) (a : XReg) (cnt : BitVec 15) (ofs : BitVec 32), s.hw.st.mode = .kernel →
    let st := s.hw.st
    let b := st.bank
    let o := ofs.toInt
    let ls := w64 (st.wordAddr.toNat + 8)
    let le := w64 (st.wordAddr.toNat + 4 * o)
    let nests := ∀ j : LoopNo, (b.loops.get j).act = true →
      (b.loops.get j).start.toNat ≤ ls.toNat ∧ le.toNat < (b.loops.get j).last.toNat
    let runs := fun (i : Instr) (c : BitVec 32) =>
      (o < 2 → Traps s i { cause := 0x0A, info := 1 }) ∧
      (2 ≤ o → 257 < o → Traps s i { cause := 0x0A, info := 2 }) ∧
      (2 ≤ o → o ≤ 257 → (b.loops.get n).act = true → Traps s i { cause := 0x0A, info := 3 }) ∧
      (2 ≤ o → o ≤ 257 → (b.loops.get n).act = false → ¬ nests → Traps s i { cause := 0x0A, info := 4 }) ∧
      (2 ≤ o → o ≤ 257 → (b.loops.get n).act = false → nests →
        (c = 0 → Does s i
          { st with pc := BitVec.ofNat 64 (groupAfter 256 (codeWord s.mem s.hw s.hw.cur) ls.toNat le.toNat) } []) ∧
        (c ≠ 0 → Does s i
          { st.updBank (fun b => { b with loops := b.loops.set n { act := true, count := c, start := ls, last := le } }) with
            pc := ls } []))
    runs (.loop n a ofs) ((s.hw.rx a).setWidth 32) ∧ runs (.loopi n cnt ofs) (cnt.setWidth 32)

/-! ### Class C: scratchpad and global accesses (R171-R176, R82, R91-R95) -/

/-- An access of n bytes at `ea` that the strand may make: it has a scratchpad, the address is inside it and aligned to n (R81),
and its port is free. -/
def Sys2Proof.Claims.mayAccess (h : Hw) (ea : W64) (n : Nat) : Prop :=
  hasSpad h.cur = true ∧ ea.toNat < 0x200000 ∧ ea.toNat % n = 0 ∧ h.portBusy = false

/-- No word of the n bytes at an offset of the strand's scratchpad holds an error (R84). -/
def Sys2Proof.Claims.clean (h : Hw) (off n : Nat) : Prop :=
  let k := spadKey (coreOf h.cur) off
  ∀ b, b ∈ h.pkg.bad ∨ b ∈ h.pkg.single ∨ b ∈ h.pkg.poison → ¬ (k < b + wordBytes b ∧ b < k + n)

/-- The n bytes of the strand's scratchpad at an offset, as a number, low byte first (R3). -/
def Sys2Proof.Claims.spadNat (s : State) (off n : Nat) : Nat :=
  ((List.range n).map fun j => (Memory.read s.mem (spadKey (coreOf s.hw.cur) (off + j))).toNat * 256 ^ j).sum
/-- A number of n bytes as a signed one. -/
def Sys2Proof.Claims.signedBytes (n v : Nat) : Int := if 2 ^ (8 * n - 1) ≤ v then (v : Int) - 2 ^ (8 * n) else v

/-- R171, R82: a scratchpad load samples its bytes at issue, takes the port for one tick, and its register is written three
ticks later, sign- or zero-extended. -/
def Obligations.ScratchpadLoads : Prop :=
  ∀ (s : State) (d a : XReg) (i : BitVec 10),
    let ea := w64 ((s.hw.rx a).toNat + i.toInt)
    let v := fun n => spadNat s ea.toNat n
    let loads := fun (k : Instr) (n : Nat) (x : Int) => mayAccess s.hw ea n → clean s.hw ea.toNat n →
      Does s k (s.hw.takePort 1).st.fallThrough (xWrite s.hw d (w64 x) 3)
    loads (.ldS8 d a i) 1 (signedBytes 1 (v 1)) ∧ loads (.ldZ8 d a i) 1 (v 1) ∧
    loads (.ldS16 d a i) 2 (signedBytes 2 (v 2)) ∧ loads (.ldZ16 d a i) 2 (v 2) ∧
    loads (.ldS32 d a i) 4 (signedBytes 4 (v 4)) ∧ loads (.ldZ32 d a i) 4 (v 4) ∧
    loads (.ld64 d a i) 8 (v 8) ∧ (s.hw.takePort 1).units.port = s.hw.tick + 1

/-- R172, R82: a store of whole words is visible three ticks after its issue and takes the port for one tick; a byte or a half
word is merged into its word five ticks after and takes it for two. -/
def Obligations.ScratchpadStores : Prop :=
  ∀ (s : State) (d a : XReg) (i : BitVec 10),
    let ea := w64 ((s.hw.rx a).toNat + i.toInt)
    let x := (s.hw.rx d).toNat
    let byte := fun j => BitVec.ofNat 8 (x / 256 ^ j)
    let wr := fun (lat n : Nat) => [(lat, PendAct.store (coreOf s.hw.cur) (clusterOf s.hw.cur) ea.toNat ((List.range n).map byte))]
    (mayAccess s.hw ea 1 → clean s.hw (ea.toNat / 4 * 4) 4 → Does s (.st8 d a i) (s.hw.takePort 2).st.fallThrough (wr 5 1)) ∧
    (mayAccess s.hw ea 2 → clean s.hw (ea.toNat / 4 * 4) 4 → Does s (.st16 d a i) (s.hw.takePort 2).st.fallThrough (wr 5 2)) ∧
    (mayAccess s.hw ea 4 → Does s (.st32 d a i) (s.hw.takePort 1).st.fallThrough (wr 3 4)) ∧
    (mayAccess s.hw ea 8 → Does s (.st64 d a i) (s.hw.takePort 1).st.fallThrough (wr 3 8))

/-- R173, R82: a scratchpad atomic is one act of its operation on the bytes at xa, with xb and xd as operands, at t+4, or at t+5
below a word; its port is taken for one or two ticks. -/
def Sys2Proof.Claims.AtomicsIssue : Prop :=
  ∀ (s : State) (d a b : XReg),
    let ea := s.hw.rx a
    let h := s.hw
    let acts := fun (k : Instr) (op : AtomOp) (n : Nat) => mayAccess h ea n → clean h ea.toNat n →
      Does s k (h.takePort (if n < 4 then 2 else 1)).st.fallThrough
        [(if n < 4 then 5 else 4, .atomic (coreOf h.cur) (clusterOf h.cur) ea.toNat n op ((h.rx b).toNat % 2 ^ (8 * n))
          ((h.rx d).toNat % 2 ^ (8 * n)) (if d = 0 then none else some (h.cur, h.st.sup, d)))]
    acts (.aadd8 d a b) .add 1 ∧ acts (.aswp8 d a b) .swp 1 ∧ acts (.aand8 d a b) .and 1 ∧ acts (.aor8 d a b) .or 1 ∧ acts (.axor8 d a b) .xor 1 ∧
    acts (.amin8 d a b) .min 1 ∧ acts (.amax8 d a b) .max 1 ∧ acts (.aminu8 d a b) .minu 1 ∧ acts (.amaxu8 d a b) .maxu 1 ∧ acts (.acas8 d a b) .cas 1 ∧
    acts (.aadd16 d a b) .add 2 ∧ acts (.aswp16 d a b) .swp 2 ∧ acts (.aand16 d a b) .and 2 ∧ acts (.aor16 d a b) .or 2 ∧ acts (.axor16 d a b) .xor 2 ∧
    acts (.amin16 d a b) .min 2 ∧ acts (.amax16 d a b) .max 2 ∧ acts (.aminu16 d a b) .minu 2 ∧ acts (.amaxu16 d a b) .maxu 2 ∧ acts (.acas16 d a b) .cas 2 ∧
    acts (.aadd32 d a b) .add 4 ∧ acts (.aswp32 d a b) .swp 4 ∧ acts (.aand32 d a b) .and 4 ∧ acts (.aor32 d a b) .or 4 ∧ acts (.axor32 d a b) .xor 4 ∧
    acts (.amin32 d a b) .min 4 ∧ acts (.amax32 d a b) .max 4 ∧ acts (.aminu32 d a b) .minu 4 ∧ acts (.amaxu32 d a b) .maxu 4 ∧ acts (.acas32 d a b) .cas 4 ∧
    acts (.aadd64 d a b) .add 8 ∧ acts (.aswp64 d a b) .swp 8 ∧ acts (.aand64 d a b) .and 8 ∧ acts (.aor64 d a b) .or 8 ∧ acts (.axor64 d a b) .xor 8 ∧
    acts (.amin64 d a b) .min 8 ∧ acts (.amax64 d a b) .max 8 ∧ acts (.aminu64 d a b) .minu 8 ∧ acts (.amaxu64 d a b) .maxu 8 ∧ acts (.acas64 d a b) .cas 8

/-- R173: the new value that each atomic leaves; min and max compare signed, minu and maxu unsigned, cas stores its operand
when the old value is xd's. -/
def Sys2Proof.Claims.AtomicResults : Prop :=
  ∀ (n old y cmp : Nat), 0 < n → old < 2 ^ (8 * n) → y < 2 ^ (8 * n) →
    let lt := fun a b => signedBytes n a < signedBytes n b
    atomNew .add n old y cmp = (old + y) % 2 ^ (8 * n) ∧ atomNew .swp n old y cmp = y ∧
    (∀ j, (atomNew .and n old y cmp).testBit j = (old.testBit j && y.testBit j)) ∧
    (∀ j, (atomNew .or n old y cmp).testBit j = (old.testBit j || y.testBit j)) ∧
    (∀ j, (atomNew .xor n old y cmp).testBit j = (old.testBit j ^^ y.testBit j)) ∧
    atomNew .minu n old y cmp = min old y ∧ atomNew .maxu n old y cmp = max old y ∧
    (lt old y → atomNew .min n old y cmp = old ∧ atomNew .max n old y cmp = y) ∧
    (lt y old → atomNew .min n old y cmp = y ∧ atomNew .max n old y cmp = old) ∧
    atomNew .cas n old y cmp = if old = cmp then y else old

/-- R173, R82: scratchpad atomics: what they schedule, and the values that they write. -/
def Obligations.ScratchpadAtomics : Prop := AtomicsIssue ∧ AtomicResults

/-- The scalar scratchpad loads and stores (R171, R172), each with its size in bytes, whether it stores and whether it extends the
sign. -/
def Sys2Proof.Claims.spadTransfers (d a : XReg) (i : BitVec 10) : List (Instr × Nat × Bool × Bool) :=
  [(.ldS8 d a i, 1, false, true), (.ldZ8 d a i, 1, false, false), (.ldS16 d a i, 2, false, true), (.ldZ16 d a i, 2, false, false),
   (.ldS32 d a i, 4, false, true), (.ldZ32 d a i, 4, false, false), (.ld64 d a i, 8, false, false),
   (.st8 d a i, 1, true, false), (.st16 d a i, 2, true, false), (.st32 d a i, 4, true, false), (.st64 d a i, 8, true, false)]
/-- The scratchpad atomics of each width (R173), each with its size in bytes. -/
def Sys2Proof.Claims.spadAtomics (d a b : XReg) : List (Instr × Nat) :=
  [(.aadd8 d a b, 1), (.aswp8 d a b, 1), (.aand8 d a b, 1), (.aor8 d a b, 1), (.axor8 d a b, 1),
   (.amin8 d a b, 1), (.amax8 d a b, 1), (.aminu8 d a b, 1), (.amaxu8 d a b, 1), (.acas8 d a b, 1),
   (.aadd16 d a b, 2), (.aswp16 d a b, 2), (.aand16 d a b, 2), (.aor16 d a b, 2), (.axor16 d a b, 2),
   (.amin16 d a b, 2), (.amax16 d a b, 2), (.aminu16 d a b, 2), (.amaxu16 d a b, 2), (.acas16 d a b, 2),
   (.aadd32 d a b, 4), (.aswp32 d a b, 4), (.aand32 d a b, 4), (.aor32 d a b, 4), (.axor32 d a b, 4),
   (.amin32 d a b, 4), (.amax32 d a b, 4), (.aminu32 d a b, 4), (.amaxu32 d a b, 4), (.acas32 d a b, 4),
   (.aadd64 d a b, 8), (.aswp64 d a b, 8), (.aand64 d a b, 8), (.aor64 d a b, 8), (.axor64 d a b, 8),
   (.amin64 d a b, 8), (.amax64 d a b, 8), (.aminu64 d a b, 8), (.amaxu64 d a b, 8), (.acas64 d a b, 8)]

/-- R81, R122, R171-R173 in kernel mode: where the address of a scalar scratchpad access traps, for every load, store and atomic. An
address outside the scratchpad is an access fault; a misaligned load or store is the misaligned trap, whose INFO holds size, store,
sign and data register; a misaligned atomic is an access fault. -/
def Obligations.ScratchpadAccessTraps : Prop :=
  ∀ (s : State) (d a b : XReg) (i : BitVec 10), s.hw.st.mode = .kernel →
    let ea := w64 ((s.hw.rx a).toNat + i.toInt)
    let out := fun (x : W64) => hasSpad s.hw.cur = false ∨ 0x200000 ≤ x.toNat
    (∀ k n store sgn, (k, n, store, sgn) ∈ spadTransfers d a i →
      (out ea → Traps s k { cause := 0x06, stval := ea }) ∧
      (¬ out ea → ea.toNat % n ≠ 0 →
        Traps s k { cause := 0x07, stval := ea
                    info := n + (if store then 16 else 0) + (if sgn then 32 else 0) + d.val * 1024 })) ∧
    ∀ k n, (k, n) ∈ spadAtomics d a b →
      (out (s.hw.rx a) ∨ (s.hw.rx a).toNat % n ≠ 0 → Traps s k { cause := 0x06, stval := s.hw.rx a })

/-- `t` is `s` after the issue of an untimed access that passes its checks: control falls through the group, the token counts
it, the access is in flight with its pieces and no earlier than the next tick, behind the accesses and the scratchpad stores that
fences and barrier releases order before it, the die's table counters move, and a line request to another package gets its time limit, or fails at once
where that package is unreachable (R389); memory and every register stay (R91-R95, R106). -/
def Sys2Proof.Claims.InFlight (s t : State) (tok : Fin 8) (op : UntimedOp) (va : W64) (n : Nat) (ps : List (Place × Nat))
    (taken : Hw → Hw) : Prop :=
  let h := s.hw
  let d := slotOf h.cur
  t.mem = s.mem ∧
  t.hw = { h with strands := t.hw.strands, dies := t.hw.dies, untimed := t.hw.untimed, fresh := t.hw.fresh, flight := t.hw.flight } ∧
  t.hw.flight = h.flight ++ (if ps.any (fun x => match x.1 with | .remote _ _ _ => true | _ => false) then
      [(h.wtick + usTicks h.pkg.mode 100, .lineRequestTimeout h.fresh)] else []) ∧
  t.hw.st = ((taken h).st.updToken h.st.sup tok fun x => { x with pend := x.pend + 1 }).fallThrough ∧
  (∀ k, k ≠ h.cur → t.hw.strand k = h.strand k) ∧
  t.hw.die d = (h.die d).touch va.toNat n ∧ (∀ j, j ≠ d → t.hw.die j = h.die j) ∧
  ∃ u : Untimed, t.hw.untimed = h.untimed ++ [u] ∧ u.id = h.fresh ∧ u.strand = h.cur ∧ u.sup = h.st.sup ∧ u.tok = tok ∧ u.op = op ∧
    u.va = va.toNat ∧ u.pieces = (ps.map fun x => (h.placed x.1, x.2)) ∧ h.wtick < u.due ∧
    u.after = (if op.isWrite then h.st.fencedW else h.st.fencedR) ∧ u.afterSeq = (if op.isWrite then h.st.fencedSeq else h.st.fencedSeqR) ∧
    u.afterAcq = h.st.acqSeq

/-- R175, R176, R91-R94: a global load, store or atomic whose address is translated with the permission it needs, aligned, and
whose token holds fewer than 63 accesses, is accepted; its data are read at issue. -/
def Obligations.GlobalScalarAccesses : Prop :=
  ∀ (s : State) (d a b : XReg) (disp : BitVec 24) (tok : BitVec 3) (p : Place),
    let h := s.hw
    let va := w64 ((h.rx a).toNat + disp.toInt)
    let k : Fin 8 := ⟨tok.toNat, tok.isLt⟩
    let ok := fun (need : Need) (n : Nat) =>
      (h.die (slotOf h.cur)).piece va.toNat need false = .ok p ∧ va.toNat % n = 0 ∧ (h.st.token h.st.sup k).pend < 63
    let starts := fun (i : Instr) (need : Need) (n : Nat) (op : UntimedOp) =>
      ok need n → ∃ t, exec i s = .next t ∧ InFlight s t k op va n [(p, n)] id
    let ld := fun (i : Instr) (n : Nat) (sgn : Bool) => starts i .read n (.load d n sgn)
    let st := fun (i : Instr) (n : Nat) =>
      starts i .write n (.store ((List.range n).map fun j => BitVec.ofNat 8 ((h.rx d).toNat / 256 ^ j)))
    let at_ := fun (i : Instr) (op : AtomOp) (n : Nat) =>
      starts i .both n (.atomic d n op ((h.rx b).toNat % 2 ^ (8 * n)) ((h.rx d).toNat % 2 ^ (8 * n)))
    ld (.ldgS8 d a disp tok) 1 true ∧ ld (.ldgZ8 d a disp tok) 1 false ∧ ld (.ldgS16 d a disp tok) 2 true ∧
    ld (.ldgZ16 d a disp tok) 2 false ∧ ld (.ldgS32 d a disp tok) 4 true ∧ ld (.ldgZ32 d a disp tok) 4 false ∧
    ld (.ldg64 d a disp tok) 8 false ∧
    st (.stg8 d a disp tok) 1 ∧ st (.stg16 d a disp tok) 2 ∧ st (.stg32 d a disp tok) 4 ∧ st (.stg64 d a disp tok) 8 ∧
    at_ (.aaddG32 d a b disp tok) .add 4 ∧ at_ (.aswpG32 d a b disp tok) .swp 4 ∧ at_ (.aandG32 d a b disp tok) .and 4 ∧ at_ (.aorG32 d a b disp tok) .or 4 ∧
    at_ (.axorG32 d a b disp tok) .xor 4 ∧ at_ (.aminG32 d a b disp tok) .min 4 ∧ at_ (.amaxG32 d a b disp tok) .max 4 ∧
    at_ (.aminuG32 d a b disp tok) .minu 4 ∧ at_ (.amaxuG32 d a b disp tok) .maxu 4 ∧ at_ (.acasG32 d a b disp tok) .cas 4 ∧
    at_ (.aaddG64 d a b disp tok) .add 8 ∧ at_ (.aswpG64 d a b disp tok) .swp 8 ∧ at_ (.aandG64 d a b disp tok) .and 8 ∧ at_ (.aorG64 d a b disp tok) .or 8 ∧
    at_ (.axorG64 d a b disp tok) .xor 8 ∧ at_ (.aminG64 d a b disp tok) .min 8 ∧ at_ (.amaxG64 d a b disp tok) .max 8 ∧
    at_ (.aminuG64 d a b disp tok) .minu 8 ∧ at_ (.amaxuG64 d a b disp tok) .maxu 8 ∧ at_ (.acasG64 d a b disp tok) .cas 8

/-! ### Class C: sync words, tokens, fences and barriers (R98-R116, R177-R184) -/

/-- A strand after a wait that is satisfied: the next group issues at the next tick (R179); a member of a bundle that was
diverted while its own word waited goes to its stub, its resume point being that next group (R371). -/
def Sys2Proof.Claims.resumes (w : Nat) (st : Strand) : Strand :=
  let g : Strand := { st.fallThrough with wait := .none, notBefore := w + 1, joined := none }
  match st.diverting with
  | none => g
  | some (n, stub, restore) =>
    { g with stub := true, chk := n, resume := g.pc, restorePc := restore, pc := onGrid stub, diverting := none }
/-- The current strand after a wait that is satisfied. -/
def Sys2Proof.Claims.goesOn (s : State) : Strand := resumes s.hw.wtick s.hw.st
/-- The strand waits at its group from now on. -/
def Sys2Proof.Claims.waits (s : State) (w : Wait) : Strand := { s.hw.st with wait := w, joined := none }

/-- The sync word at xa is where it may be (R177): inside the strand's scratchpad, aligned to 16 bytes. -/
def Sys2Proof.Claims.syncPlace (h : Hw) (a : XReg) : Prop :=
  hasSpad h.cur = true ∧ (h.rx a).toNat < 0x200000 ∧ (h.rx a).toNat % 16 = 0

/-- R99, R100, R177-R179: `swset` is one write of the sync word's TARGET, three ticks later; `wait` on a sync
word goes on when (GEN − G*) mod 2^32 < 2^31 and waits otherwise; `wait` on a token goes on when its PEND is 0 and it holds no
error, takes the data fault of its code when it does, with ERR and the code cleared, and waits while PEND is not 0. The wait of a
token that counted an asymmetric fence ends as a full fence, whether or not it takes the trap (R116). -/
def Obligations.SyncWordsAndTokenWaits : Prop :=
  ∀ (s : State) (a b : XReg) (k : Fin 8),
    let h := s.hw
    let off := (h.rx a).toNat
    let gen := BitVec.ofNat 32 (spadNat s (off + 4) 4)
    let g := (h.rx b).setWidth 32
    let tok := h.st.token h.st.sup k
    (syncPlace h a → h.portBusy = false →
      Does s (.swset a b) (h.takePort 1).st.fallThrough
        [(3, .swset (coreOf h.cur) (clusterOf h.cur) off ((h.rx b).toNat % 2 ^ 32))]) ∧
    (syncPlace h a → clean h off 16 → (gen - g).toNat < 2 ^ 31 → Does s (.waitG a b) (goesOn s) []) ∧
    (syncPlace h a → clean h off 16 → ¬ (gen - g).toNat < 2 ^ 31 → Does s (.waitG a b) (waits s (.sync off g)) []) ∧
    (tok.pend = 0 → tok.err = false → tok.fence = false → Does s (.waitK (BitVec.ofNat 5 k.val)) (goesOn s) []) ∧
    (tok.pend = 0 → tok.fence = true →
      ∃ (w r : List Nat),
        let fenced : Strand := { h.st with fencedW := w, fencedR := r, fencedSeq := h.seq, fencedSeqR := h.seq }
        (tok.err = false → Does s (.waitK (BitVec.ofNat 5 k.val))
          (resumes h.wtick (fenced.updToken h.st.sup k fun x => { x with fence := false })) []) ∧
        (tok.err = true → h.st.mode = .kernel → h.st.joined = none → Does s (.waitK (BitVec.ofNat 5 k.val))
          (({ fenced.updToken false k (fun _ => {}) with wait := .none } : Strand).enterTrap h.wtick h.cur (dataTrap tok.code)) []) ∧
        (∀ id, id ∈ w ↔ id ∈ h.st.fencedW ∨ ∃ u ∈ h.untimed, u.id = id ∧ u.strand = h.cur) ∧
        ∀ id, id ∈ r ↔ id ∈ h.st.fencedR ∨ ∃ u ∈ h.untimed, u.id = id ∧ u.strand = h.cur) ∧
    (tok.pend = 0 → tok.err = true → tok.fence = false → h.st.mode = .kernel → h.st.joined = none →
      Does s (.waitK (BitVec.ofNat 5 k.val))
        (({ h.st.updToken false k (fun _ => {}) with wait := .none } : Strand).enterTrap h.wtick h.cur (dataTrap tok.code)) []) ∧
    (tok.pend ≠ 0 → Does s (.waitK (BitVec.ofNat 5 k.val)) (waits s (.token k)) [])

/-- R106, R180: `fence` issues in one tick and holds back nothing but later accesses: rel holds later untimed writes and commands
behind every access of the strand in flight, acq holds later accesses behind its reads in flight, full does both and holds
later reads behind its writes too; beyond strand scope rel and full hold later writes and commands behind the strand's earlier
scratchpad stores, and full its later reads too. A release at die scope is counted for promotion (R116). -/
def Sys2Proof.Claims.FencesIssue : Prop :=
  ∀ (s : State) (sc : BitVec 3) (kd : BitVec 2), kd ≠ 0 → sc.toNat < 5 →
    let h := s.hw
    let mine := fun (id : Nat) (readsOnly : Bool) =>
      ∃ u ∈ h.untimed, u.id = id ∧ u.strand = h.cur ∧ (readsOnly = true → u.op.isRead = true)
    ∃ (w r : List Nat),
      Does s (.fence sc kd)
        ({ h.st with
          fencedW := w, fencedR := r, fencedSeq := if (kd = 1 ∨ kd = 3) ∧ sc ≠ 0 then h.seq else h.st.fencedSeq
          fencedSeqR := if kd = 3 ∧ sc ≠ 0 then h.seq else h.st.fencedSeqR
          dieReleases := if (kd = 1 ∨ kd = 3) ∧ sc = 2 then h.st.dieReleases + 1 else h.st.dieReleases } : Strand).fallThrough [] ∧
      (∀ id, id ∈ w ↔ id ∈ h.st.fencedW ∨ mine id (decide (kd = 2))) ∧
      (∀ id, id ∈ r ↔ id ∈ h.st.fencedR ∨ (kd = 2 ∧ mine id true) ∨ (kd = 3 ∧ mine id false))

/-- R116, R181: an `afence` to a die that a route reaches counts on its token and promotes the die's earlier releases when the
request arrives; to a slot that is no healthy die of the partition, or that no route reaches, the token is to end in error with
code 0x0408. Either way control falls through the group. Where the request is sent, the token remembers the fence, which its wait
ends. -/
def Sys2Proof.Claims.AsymmetricFence : Prop :=
  ∀ (s : State) (tk : BitVec 3) (l : BitVec 6),
    let h := s.hw
    let k : Fin 8 := ⟨tk.toNat, tk.isLt⟩
    let own := slotOf h.cur
    let counted := h.st.updToken h.st.sup k fun x => { x with pend := x.pend + 1 }
    let asked := h.st.updToken h.st.sup k fun x => { x with pend := x.pend + 1, fence := true }
    (h.st.token h.st.sup k).pend < 63 →
      ∃ t u, exec (.afence tk l) s = .next t ∧ t.mem = s.mem ∧ t.hw.untimed = h.untimed ++ [u] ∧ u.strand = h.cur ∧ u.tok = k ∧
        u.op = .afence l.toNat ∧ (∀ j, j ≠ h.cur → t.hw.strand j = h.strand j) ∧ t.hw.pend = h.pend ∧ t.hw.dies = h.dies ∧
        t.hw.cores = h.cores ∧ t.hw.parts = h.parts ∧
        (h.reaches h.myPart own l.toNat = false →
          t.hw.st = counted.fallThrough ∧ u.pieces = [(.fail 0x0408, 0)] ∧ t.hw.flight = h.flight ∧ t.hw.agenda = h.agenda) ∧
        (h.reaches h.myPart own l.toNat = true → l.toNat ≠ own →
          t.hw.st = asked.fallThrough ∧ u.pieces = [] ∧ u.after = h.inFlight h.cur false ∧
          h.wtick + 2 * h.latency h.myPart own l.toNat < u.due ∧
          t.hw.flight = h.flight ++ [(h.wtick + h.latency h.myPart own l.toNat, .afencePromotion h.cur k.val l.toNat)]) ∧
        (h.reaches h.myPart own l.toNat = true → l.toNat = own →
          u.pieces = [] ∧ t.hw.st.fencedSeq = h.seq ∧ t.hw.st.fencedSeqR = h.seq ∧ t.hw.agenda = h.agenda ++ [.afencePromotion h.cur k.val l.toNat] ∧
          ∀ v ∈ h.untimed, v.strand = h.cur → v.id ∈ t.hw.st.fencedW ∧ v.id ∈ t.hw.st.fencedR)

/-- R106, R116, R180, R181: fences, and the asymmetric fence. -/
def Obligations.MemoryFences : Prop := FencesIssue ∧ AsymmetricFence

/-- R42-R44, R109, R182-R184 in kernel mode, for a group of a valid GRPSET slot: `barr` sends one arrival a phase, after the
strand's earlier accesses and, in queued mode, its earlier scratchpad stores, and merges the others, those of the same tick with
what they wait for; an arrival at a partition master that no route reaches is never delivered (R436); `barw` goes on when no arrival is pending and delivers the status of the last
release at the next tick, and waits otherwise; `barrw` does both in one group. -/
def Sys2Proof.Claims.BarrierInstructions : Prop :=
  ∀ (s : State) (g : BitVec 8) (d : XReg) (x : GrpSlot),
    let h := s.hw
    let c := coreOf h.cur
    let p := h.myPart
    let w := h.wtick + h.latency p (slotOf h.cur) (h.master p)
    let routed := (h.route p (slotOf h.cur) (h.master p)).isSome
    -- what the arrival waits for
    let busy := h.inFlight h.cur false ≠ [] ∨ (h.strict = false ∧ h.storesInFlight h.cur = true)
    let behind := fun (a : Untimed) => (∀ i ∈ h.inFlight h.cur false, i ∈ a.after) ∧ a.afterSeq = (if h.strict then 0 else h.seq)
    let sent : Core := (h.core c).updGrp g.toNat fun y => { y with pending := true, arrivedAt := some h.wtick }
    let mine := UntimedOp.arrival p g.toNat (h.teamIndex c) x.phase.toNat
    h.st.mode = .kernel → (h.core c).grp g.toNat = some x →
      (x.pending = true → Does s (.barw g d) (waits s (.barrier g.toNat d)) []) ∧
      (x.pending = true → x.arrivedAt ≠ some h.wtick ∨ ¬ busy →
        Does s (.barr g) h.st.fallThrough [] ∧ Does s (.barrw g d) (waits s (.barrier g.toNat d)) []) ∧
      (x.pending = true → x.arrivedAt = some h.wtick → busy →
        ∃ t u, exec (.barr g) s = .next t ∧ exec (.barrw g d) s = .next u ∧
          (∀ r, r = t ∨ r = u →
            r.mem = s.mem ∧ r.hw.cores = h.cores ∧ r.hw.pend = h.pend ∧ r.hw.parts = h.parts ∧ r.hw.dies = h.dies ∧
            (∀ j, j ≠ h.cur → r.hw.strand j = h.strand j) ∧
            ∃ a ∈ r.hw.untimed, a.op = mine ∧ behind a) ∧
          t.hw.st = h.st.fallThrough ∧ u.hw.st = waits s (.barrier g.toNat d)) ∧
      (x.pending = false →
        Does s (.barw g d) (goesOn s) (xWrite h d (w64 ((if x.err then 65536 else 0) + x.code.toNat : Nat)) 1) ∧
        ∃ t u, exec (.barr g) s = .next t ∧ exec (.barrw g d) s = .next u ∧
          (∀ r, r = t ∨ r = u →
            r.mem = s.mem ∧ r.hw.core c = sent ∧ (∀ j, j ≠ c → r.hw.core j = h.core j) ∧ r.hw.pend = h.pend ∧
            r.hw.parts = h.parts ∧ r.hw.dies = h.dies ∧ (∀ j, j ≠ h.cur → r.hw.strand j = h.strand j) ∧
            (¬ busy → r.hw.untimed = h.untimed ∧ r.hw.flight =
              h.flight ++ (if routed then [(w, .barrierArrival p g.toNat (h.teamIndex c) x.phase.toNat)] else [])) ∧
            (busy → r.hw.flight = h.flight ∧
              ∃ a, r.hw.untimed = h.untimed ++ [a] ∧ a.op = mine ∧ behind a ∧ a.due = h.wtick)) ∧
          t.hw.st = h.st.fallThrough ∧ u.hw.st = waits s (.barrier g.toNat d))

/-- R44, R183: a barrier instruction whose group is in no valid GRPSET slot is an access fault in kernel mode; in supervisor mode
the barrier instructions are ignored (R357). -/
def Sys2Proof.Claims.BarrierGroupsAndModes : Prop :=
  ∀ (s : State) (g : BitVec 8) (d : XReg),
    ((s.hw.core (coreOf s.hw.cur)).grp g.toNat = none → s.hw.st.mode = .kernel →
      Traps s (.barr g) { cause := 0x06 } ∧ Traps s (.barw g d) { cause := 0x06 } ∧ Traps s (.barrw g d) { cause := 0x06 }) ∧
    (s.hw.st.mode = .supervisor →
      Does s (.barr g) s.hw.st.fallThrough [] ∧ Does s (.barw g d) s.hw.st.fallThrough [] ∧ Does s (.barrw g d) s.hw.st.fallThrough [] ∧
      (∀ n, Does s (.anchor n) s.hw.st.fallThrough []) ∧ (∀ n, Does s (.chkpt n) s.hw.st.fallThrough []) ∧
      Does s .retire s.hw.st.fallThrough [])

/-- R182-R184, R42: the barrier instructions, with their group checks and modes. -/
def Obligations.TeamBarriers : Prop := BarrierInstructions ∧ BarrierGroupsAndModes

/-! ### Class C: the timetable, drain and retire, time waits, system instructions (R30, R46, R185-R194, R356-R376) -/

/-- R193, R194, R376, R387: `nop` has no effect; `trap` and `brk` enter the supervisor with their number; with SDBG.BKEN set,
`brk` freezes the partition at the next tick, and its trap is held back; in supervisor mode `trap` and `brk` are a machine check
(R357); `wcinv` empties the walker caches of the issuing die. -/
def Obligations.SystemInstructions : Prop :=
  ∀ (s : State) (n : BitVec 15),
    let h := s.hw
    let q := h.part h.myPart
    Does s .nop h.st.fallThrough [] ∧
    (h.st.mode = .kernel → Traps s (.trap n) { cause := 0x38, info := n.toNat }) ∧
    (h.st.mode = .kernel → q.bken = false → Traps s (.brk n) { cause := 0x39, info := n.toNat }) ∧
    (h.st.mode = .kernel → q.bken = true → ∃ t, exec (.brk n) s = .next t ∧ t.mem = s.mem ∧
      t.hw.st = { h.st with held := some { cause := 0x39, info := n.setWidth 16, clu := BitVec.ofNat 2 (clusterOf h.cur) } } ∧
      (∀ j, j ≠ h.cur → t.hw.strand j = h.strand j) ∧
      t.hw = { h with strands := t.hw.strands, parts := (h.updPart h.myPart fun p => { p with freezeNext := true }).parts }) ∧
    (h.st.mode = .supervisor → ∀ i, i = .trap n ∨ i = .brk n →
      exec i s = .next { s with hw := h.machineCheck (slotOf h.cur) 0x0702 [h.partOf (slotOf h.cur)] }) ∧
    ∃ t, exec .wcinv s = .next t ∧ t.mem = s.mem ∧ t.hw.st = h.st.fallThrough ∧ (t.hw.die (slotOf h.cur)).wcache = [] ∧
      (∀ j, j ≠ slotOf h.cur → t.hw.die j = h.die j) ∧ (∀ j, j ≠ h.cur → t.hw.strand j = h.strand j) ∧
      t.hw = { h with strands := t.hw.strands, dies := t.hw.dies } ∧
      { t.hw.die (slotOf h.cur) with wcache := (h.die (slotOf h.cur)).wcache } = h.die (slotOf h.cur)

/-- R359: what trap entry from kernel mode does to a strand, and that it does nothing else: SEPC is the group's address, the
cause and its records are written, NXT is 1 for trap, brk and misaligned, BND, EMU and RFL are 0, the mode is the
supervisor's, and the group at SVEC issues at t+2; no register of either bank, no flag and no token changes. -/
def Obligations.TrapEntry : Prop :=
  ∀ (st : Strand) (w k : Nat) (x : TrapInfo),
    let e := st.enterTrap w k x
    e.sepc = st.pc ∧ e.cause = x.cause ∧ e.info.toNat = x.info % 65536 ∧ e.dcode.toNat = x.dcode % 65536 ∧
    e.clu.toNat = clusterOf k ∧ e.stval = x.stval ∧
    e.nxt = decide (x.cause = 0x38 ∨ x.cause = 0x39 ∨ x.cause = 0x07) ∧ e.bnd = false ∧ e.emu = false ∧ e.rfl_ = false ∧
    e.mode = .supervisor ∧ e.pc = st.svec ∧ e.notBefore = w + 2 ∧ e.kb = st.kb ∧ e.sb = st.sb ∧ e.flags = st.flags ∧
    e.rndm = st.rndm ∧ e.srseed = st.srseed ∧ e.v = st.v ∧ e.k = st.k ∧ e.b = st.b ∧ e.svec = st.svec ∧ e.semu = st.semu ∧
    e.sfcode = st.sfcode ∧ e.sflt = st.sflt ∧ e.ssave = st.ssave ∧ e.kxsel = st.kxsel ∧ e.status = st.status

/-- R357: in supervisor mode an access fault, a brim miss, a misaligned access and an uncorrectable word have no effect but to
set SSTAT.SFLT and the fault code, and the strand goes on at the next tick; every other trap is a machine check, which ends the kernel. -/
def Sys2Proof.Claims.SupervisorModeFaults : Prop :=
  ∀ (h : Hw) (k : Nat) (x : TrapInfo), (h.strand k).mode = .supervisor →
    let goes := fun (c : BitVec 16) =>
      (h.trapOf k x).strand k = { (h.strand k).fallThrough with sflt := true, sfcode := c, notBefore := h.wtick + 1 } ∧
      (∀ j, j ≠ k → (h.trapOf k x).strand j = h.strand j) ∧ h.trapOf k x = { h with strands := (h.trapOf k x).strands }
    (x.cause = 0x05 → goes 0x0401) ∧ (x.cause = 0x06 → goes 0x0402) ∧ (x.cause = 0x07 → goes 0x0402) ∧
    (x.cause = 0x22 → goes 0x0403) ∧
    (x.cause ∉ [0x05, 0x06, 0x07, 0x22] →
      h.trapOf k x = h.machineCheck (slotOf k) 0x0702 [h.partOf (slotOf k)])

/-- R360, R363, R365, R366: `sret` in queued mode, by what SSTAT holds. Without EMU and reflection: back to kernel mode at SEPC, or
at the group after it when NXT is 1, at the next tick, and into the hook that the trap was taken in, if any. With RFL and HOOK.EN
and room, for a cause that can be reflected: to the hook, with the return address pushed and x31 receiving SCAUSE. With EMU and no
fault: the load's register receives SEMU first, and a store writes none. A SEPC off the word grid is an access fault (R127). -/
def Sys2Proof.Claims.SupervisorReturn : Prop :=
  ∀ (s : State), s.hw.strict = false →
    let st := s.hw.st
    let after := kernelAfter s.mem s.hw s.hw.cur st.sepc
    let reflects := st.cause ∉ [0x10, 0x11, 0x12, 0x13, 0x31]
    let plain := st.rfl_ = false ∨ st.hookEn = false ∨ ¬ reflects
    let tgt := if st.nxt then after else st.sepc
    let back := fun (b : Bank) =>
      ({ st with kb := b, mode := .kernel, pc := tgt, notBefore := s.hw.wtick + 1, inTrap := !st.hooks.isEmpty
                 thawed := st.thawed && !st.hooks.isEmpty, trapHold := false, emu := false, rfl_ := false } : Strand)
    (st.emu = false → plain → st.sepc.toNat % 4 = 0 → Does s .sret (back st.kb) []) ∧
    (st.emu = false → plain → st.sepc.toNat % 4 ≠ 0 → st.mode = .supervisor →
      Does s .sret { st.fallThrough with sflt := true, sfcode := 0x0402, notBefore := s.hw.wtick + 1 } []) ∧
    (st.emu = false → st.rfl_ = true → st.hookEn = true → reflects → st.kb.rets.length < 16 →
      Does s .sret
        { st with
          kb := { (st.kb.writeX 31 st.scauseVal) with rets := tgt :: st.kb.rets }, pc := st.hookAddr, mode := .kernel, rfl_ := false
          emu := false, hooks := (st.kb.rets.length, st.trapHold) :: st.hooks, trapHold := false, notBefore := s.hw.wtick + 1 } []) ∧
    (st.emu = true → st.sflt = false → plain → st.sepc.toNat % 4 = 0 →
      (st.info.getLsbD 4 = false → Does s .sret (back (st.kb.writeX (Fin.ofNat 32 (st.info.toNat / 1024)) st.semu)) []) ∧
      (st.info.getLsbD 4 = true → Does s .sret (back st.kb) []))

/-- R357, R360, R365, R366, R413: faults in supervisor mode, and the return from it. -/
def Obligations.SupervisorMode : Prop := SupervisorModeFaults ∧ SupervisorReturn

/-- R30, R185: in queued mode an `anchor` is ignored; in strict mode with the right stamp the strand's first anchor of the tick
closes the segment and control falls through; with a wrong stamp it is a deviation trap with INFO 0 (R38). -/
def Sys2Proof.Claims.AnchorInstruction : Prop :=
  ∀ (s : State) (n : BitVec 20), s.hw.st.mode = .kernel →
    let h := s.hw
    let q := h.part h.myPart
    (h.strict = false → Does s (.anchor n) h.st.fallThrough []) ∧
    (h.strict = true → q.stick % 2 ^ 20 ≠ n.toNat → Traps s (.anchor n) { cause := 0x10, info := 0 }) ∧
    (h.strict = true → q.stick % 2 ^ 20 = n.toNat → h.st.viewTrap = none →
      ∃ t, exec (.anchor n) s = .next t ∧ t.mem = s.mem ∧
        t.hw.st = ({ h.st with anchored := some q.stick } : Strand).fallThrough ∧
        (∀ j, j ≠ h.cur → t.hw.strand j = h.strand j) ∧
        t.hw = { h with strands := t.hw.strands, parts := t.hw.parts } ∧
        (∀ j, j < 8 → j ≠ h.myPart % 8 → t.hw.part j = h.part j) ∧
        ((∃ a ∈ q.anchors, a.at_ = q.stick) → t.hw.part h.myPart = q) ∧
        ((∀ a ∈ q.anchors, a.at_ ≠ q.stick) →
          t.hw.part h.myPart =
            { q with anchors := q.anchors ++ [{ at_ := q.stick, wall := h.wtick, seg := q.seg }], seg := q.seg + 1 }))

/-- R186, R368-R372 in kernel mode: a `chkpt` whose number is not in the strand's checkpoint table is a reserved encoding; with no
pre-emption pending it has no further effect; with one pending the strand diverts to the drain stub that covers the group, its
resume point being the group after it; at the end of a stub the strand waits to be parked. -/
def Sys2Proof.Claims.CheckpointInstruction : Prop :=
  ∀ (s : State) (n : BitVec 20), s.hw.st.mode = .kernel →
    let h := s.hw
    let q := h.part h.myPart
    let found := (h.chkEntries h.cur).find? fun e => e.n == n.toNat
    (found = none → Traps s (.chkpt n) { cause := 0x02 }) ∧
    ∀ e, found = some e →
      (h.st.stub = true → Does s (.chkpt n) (waits s .park) []) ∧
      (h.st.stub = false → h.strict = true → e.ctick ≠ q.stick → Traps s (.chkpt n) { cause := 0x10, info := 4 }) ∧
      (h.st.stub = false → (h.strict = true → e.ctick = q.stick) → q.preemptPend = false →
        Does s (.chkpt n) h.st.fallThrough []) ∧
      ∀ d, h.st.stub = false → h.st.wait = .none → (h.strict = true → e.ctick = q.stick) → q.preemptPend = true →
        h.stubFor h.cur h.st.pc.toNat = some d →
        ∃ t, exec (.chkpt n) s = .next t ∧ t.mem = s.mem ∧
          t.hw.st =
            { h.st.fallThrough with
              stub := true, chk := n, resume := h.st.fallThrough.pc, restorePc := BitVec.ofNat 64 d.restore
              pc := onGrid (BitVec.ofNat 64 d.stub), diverting := none } ∧
          (∀ j, j ≠ h.cur → t.hw.strand j = h.strand j) ∧ t.hw = { h with strands := t.hw.strands, parts := t.hw.parts } ∧
          (∀ j, j < 8 → j ≠ h.myPart % 8 → t.hw.part j = h.part j)

/-- R30, R38, R185, R186: anchors and checkpoints. -/
def Obligations.AnchorsAndCheckpoints : Prop := AnchorInstruction ∧ CheckpointInstruction

/-- R46, R47, R188, R265: `drain` and `retire` of a strand whose team has nothing outstanding and that is owed no operand-fetch
fault: `drain` goes on; `retire` ends the strand, and with the last strand of its team the die's counter falls, down to the
die's completion. With work outstanding both wait. -/
def Sys2Proof.Claims.DrainAndRetire : Prop :=
  ∀ (s : State), s.hw.st.mode = .kernel →
    let h := s.hw
    let gone : Strand := { h.st with status := .retired, wait := .none, retiredAt := some h.wtick }
    let last := (h.setStrand h.cur gone).teamDone (coreOf h.cur)
    (h.drained h.cur = true → h.st.owed = none →
      Does s .drain (goesOn s) [] ∧
      (last = false → Does s .retire gone []) ∧
      (last = true → ∃ t, exec .retire s = .next t ∧ t.mem = s.mem ∧ t.hw.st = gone ∧
        (∀ j, j ≠ h.cur → t.hw.strand j = h.strand j) ∧
        t.hw = { h with strands := t.hw.strands, dies := t.hw.dies, agenda := t.hw.agenda } ∧
        t.hw.die (slotOf h.cur) = { h.die (slotOf h.cur) with counter := (h.die (slotOf h.cur)).counter - 1 } ∧
        t.hw.agenda = h.agenda ++ (if (h.die (slotOf h.cur)).counter ≤ 1 then [.dieCompletion (slotOf h.cur)] else []))) ∧
    (h.drained h.cur = false → Does s .drain (waits s .drain) [] ∧ Does s .retire (waits s .retire) [])

/-- R189: `twait` and `waitw` are satisfied at issue when FTIME or WTICK has reached xa, compared as unsigned values, at no cost;
otherwise the strand waits. -/
def Sys2Proof.Claims.TimeWaits : Prop :=
  ∀ (s : State) (a : XReg),
    let h := s.hw
    ((h.rx a).toNat ≤ h.ftime.toNat → Does s (.twait a) h.st.fallThrough []) ∧
    (h.ftime.toNat < (h.rx a).toNat → Does s (.twait a) (waits s (.ftime (h.rx a))) []) ∧
    ((h.rx a).toNat ≤ h.wtick → Does s (.waitw a) h.st.fallThrough []) ∧
    (h.wtick < (h.rx a).toNat → Does s (.waitw a) (waits s (.wtick (h.rx a))) [])

/-- R188, R189, R191: drain, retire and the waits for a time. -/
def Obligations.DrainRetireAndTimeWaits : Prop := DrainAndRetire ∧ TimeWaits

/-! ### Special registers (R190-R192, R358) -/

/-- The special registers that a kernel may name (R191), and those that the supervisor may name beside them (R358). -/
def Sys2Proof.Claims.kernelRegs : List Nat :=
  [0x000, 0x001, 0x002, 0x003, 0x004, 0x005, 0x006, 0x008, 0x009, 0x00A, 0x00B, 0x00C, 0x00D, 0x010, 0x011, 0x012, 0x013, 0x014,
    0x015, 0x018, 0x020, 0x021, 0x022, 0x024, 0x025, 0x026, 0x028, 0x029, 0x02A]
def Sys2Proof.Claims.supRegs : List Nat :=
  [0x800, 0x801, 0x802, 0x803, 0x804, 0x805, 0x806, 0x808, 0x809, 0x80A, 0x80B, 0x80C, 0x80D, 0x810, 0x811, 0x812, 0x814, 0x820,
    0x821, 0x822, 0x823, 0x824, 0x825, 0x826, 0x827, 0x828, 0x829, 0x82A, 0x82B, 0x82C, 0x82D, 0x82E, 0x82F]
/-- A register that the current strand may name in its mode. -/
def Sys2Proof.Claims.mayName (h : Hw) (r : BitVec 12) : Prop :=
  r.toNat ∈ kernelRegs ∨ (h.st.mode = .supervisor ∧ r.toNat ∈ supRegs)

/-- R190, R191, R358: `csrr` of a register that the tables list and the mode allows completes, its value landing at t+1. In kernel
mode the numbers from 0x800 up are illegal instructions for reads and writes alike; a number that no table lists is a reserved
encoding. -/
def Sys2Proof.Claims.SpecialRegisterReads : Prop :=
  ∀ (s : State) (d : XReg) (r : BitVec 12),
    let h := s.hw
    let b := h.st.bank
    let reads := fun (n : BitVec 12) (v : Nat) => Computes s (.csrr d n) d (BitVec.ofNat 64 v) 0 1
    (mayName h r → ∃ v t, exec (.csrr d r) s = .next t ∧ Issued s t h.st.fallThrough (xWrite h d v 1)) ∧
    (0x800 ≤ r.toNat → h.st.mode = .kernel →
      Traps s (.csrr d r) { cause := 0x01 } ∧ Traps s (.csrw d r) { cause := 0x01 }) ∧
    (h.st.mode = .kernel → r.toNat < 0x800 → r.toNat ∉ kernelRegs →
      Traps s (.csrr d r) { cause := 0x02 } ∧ Traps s (.csrw d r) { cause := 0x02 }) ∧
    reads 0x009 h.wtick ∧ reads 0x00A h.ftime.toNat ∧ reads 0x010 h.st.flags.toNat ∧ reads 0x011 h.st.rndm.toNat ∧
    reads 0x012 h.st.srseed.toNat ∧ reads 0x018 b.rets.length ∧ reads 0x005 h.st.mixsel.toNat ∧
    (h.strict = true → reads 0x008 (h.part h.myPart).stick ∧ reads 0x00B (h.part h.myPart).holds) ∧
    (h.strict = false → reads 0x00B 0) ∧
    (isSeq h.cur = false → reads 0x013 (h.core (coreOf h.cur)).syncmask.toNat) ∧ (isSeq h.cur = true → reads 0x013 0) ∧
    (∀ n : LoopNo,
      reads (BitVec.ofNat 12 (0x020 + n.val)) ((b.loops.get n).act.toNat * 2 ^ 63 + (b.loops.get n).count.toNat) ∧
      reads (BitVec.ofNat 12 (0x024 + n.val)) (b.loops.get n).start.toNat ∧
      reads (BitVec.ofNat 12 (0x028 + n.val)) (b.loops.get n).last.toNat) ∧
    (h.st.mode = .supervisor →
      reads 0x802 h.st.sepc.toNat ∧ reads 0x803 h.st.stval.toNat ∧ reads 0x804 h.st.svec.toNat ∧
      reads 0x805 h.st.semu.toNat ∧ reads 0x806 h.st.sfcode.toNat ∧ reads 0x80C h.st.kxsel.toNat ∧
      reads 0x80D (h.st.kb.readX (Fin.ofNat 32 h.st.kxsel.toNat)).toNat ∧
      reads 0x801 (h.st.dcode.toNat * 2 ^ 48 + h.st.info.toNat * 2 ^ 32 + h.st.clu.toNat * 2 ^ 24 + h.st.cause.toNat) ∧
      (∀ n : Fin 4, reads (BitVec.ofNat 12 (0x808 + n.val)) (h.st.ssave.get n).toNat))

/-- R190: `csrw` of a register that the tables list and the mode allows, with loop registers that nest (R170), completes: control
falls through, and but for the strand, what it has scheduled and, at KEND, the end that it asks for, nothing changes. It schedules
for the next tick the write of the register it names. -/
def Sys2Proof.Claims.SpecialRegisterWrites : Prop :=
  ∀ (s : State) (d : XReg),
    let h := s.hw
    let v := h.rx d
    let writes := fun (n : BitVec 12) (e : Event) => Does s (.csrw d n) h.st.fallThrough [(1, .event e)]
    (∀ r : BitVec 12, mayName h r → (0x020 ≤ r.toNat → r.toNat < 0x02B → (h.st.bank.writeLoop r.toNat v).loopFault = none) →
      ∃ t, exec (.csrw d r) s = .next t ∧ t.mem = s.mem ∧ t.hw.st = h.st.fallThrough ∧
        (∀ k, k ≠ h.cur → t.hw.strand k = h.strand k) ∧ t.hw.cores = h.cores ∧ t.hw.dies = h.dies ∧ t.hw.untimed = h.untimed ∧
        (r ≠ 0x811 → t.hw = { h with strands := t.hw.strands, pend := t.hw.pend, seq := t.hw.seq })) ∧
    writes 0x010 (.flagsWrite h.cur v) ∧ writes 0x011 (.rndmWrite h.cur v) ∧ writes 0x012 (.srseedWrite h.cur v) ∧
    writes 0x005 (.registerWrite h.cur 0x005 v) ∧ writes 0x014 (.registerWrite h.cur 0x014 v) ∧
    writes 0x015 (.registerWrite h.cur 0x015 v) ∧ writes 0x009 (.registerWrite h.cur 0x009 v) ∧
    (∀ n : Nat, (0x020 ≤ n ∧ n < 0x023) ∨ (0x024 ≤ n ∧ n < 0x027) ∨ (0x028 ≤ n ∧ n < 0x02B) →
      (h.st.bank.writeLoop n v).loopFault = none → writes (BitVec.ofNat 12 n) (.loopRegisterWrite h.cur (BitVec.ofNat 12 n) v)) ∧
    (isSeq h.cur = true → Does s (.csrw d 0x013) h.st.fallThrough []) ∧
    (h.st.mode = .supervisor →
      writes 0x80D (.kxvalWrite h.cur (Fin.ofNat 32 h.st.kxsel.toNat) v) ∧
      Does s (.csrw d 0x812) h.st.fallThrough
        ((1, .event (.registerWrite h.cur 0x812 v)) :: if v.getLsbD 1 then [(1, .event (.sdbgResume h.myPart))] else []) ∧
      ∀ n : BitVec 12, n ∈ [0x800, 0x801, 0x802, 0x803, 0x804, 0x805, 0x806, 0x808, 0x809, 0x80A, 0x80B, 0x80C, 0x814] →
        writes n (.registerWrite h.cur n v))

/-- R190, R192, R358: the special registers, read and written. -/
def Obligations.SpecialRegisters : Prop := SpecialRegisterReads ∧ SpecialRegisterWrites

/-! ### What lands (R7, R68, R82, R128, R137, R173) -/

/-- `t` is `s` with strand k as `st` and nothing else changed. -/
def Sys2Proof.Claims.OneStrand (s t : State) (k : Nat) (st : Strand) : Prop :=
  t = { s with hw := { s.hw with strands := t.hw.strands } } ∧ t.hw.strand k = st ∧ ∀ j, j ≠ k → t.hw.strand j = s.hw.strand j

/-- `t` is `s` with the n bytes from a memory location on replaced by `bs`: words in error that they cover whole are made good
(R84), an open tile of an array whose samples they meet may be spoiled (R408), the collectives whose input they meet have had it
written (R120), and nothing else changed. -/
def Sys2Proof.Claims.Stored (s t : State) (key : Nat) (bs : List Byte) : Prop :=
  let n := bs.length
  let covered := fun (w : Nat) => key ≤ w ∧ w + wordBytes w ≤ key + n
  let meets := fun (r : Nat × Nat) => decide (r.1 < key + n) && decide (key < r.1 + r.2)
  t.hw = { s.hw with pkg := t.hw.pkg, dies := t.hw.dies, parts := t.hw.parts } ∧
  t.hw.pkg = { s.hw.pkg with bad := t.hw.pkg.bad, single := t.hw.pkg.single, poison := t.hw.pkg.poison } ∧
  (∀ w, w ∈ t.hw.pkg.bad ↔ w ∈ s.hw.pkg.bad ∧ ¬ covered w) ∧
  (∀ w, w ∈ t.hw.pkg.single ↔ w ∈ s.hw.pkg.single ∧ ¬ covered w) ∧
  (∀ w, w ∈ t.hw.pkg.poison ↔ w ∈ s.hw.pkg.poison ∧ ¬ covered w) ∧
  (∀ d, t.hw.die d = { s.hw.die d with arrays := (t.hw.die d).arrays } ∧ ∀ i : Fin 3,
    let x := (s.hw.die d).arrays.get i
    (t.hw.die d).arrays.get i = x ∨ (t.hw.die d).arrays.get i =
      { x with tile := x.tile.map (·.hit key n), tileIssued := x.tileIssued.map (·.hit key n) }) ∧
  (∀ p, t.hw.part p = { s.hw.part p with fabs := (s.hw.part p).fabs.map fun f => { f with colls := f.colls.map fun c =>
    { c with dirty := c.dirty || c.inKeys.any meets } } }) ∧
  (∀ j, j < n → Memory.read t.mem (key + j) = bs.getD j 0) ∧
  (∀ a, a < key ∨ key + n ≤ a → Memory.read t.mem a = Memory.read s.mem a)

/-- What each kind of register write does when it lands: an x register of the bank it was issued in, never x0 (R128, R137); the
masked slots of a vector register with its tag (R61, R196); a mask register; the
masked bytes of a byte register; the FLAGS bits, ORed in (R68). A vector result that diverged from its lining raises the terminal
lining trap at its group instead, and is recorded; the other members of its bundle record a bundle abort (R29, R409). -/
def Sys2Proof.Claims.RegisterWritesLand : Prop :=
  ∀ (s : State) (q : Pend) (k : Nat),
    let st := s.hw.strand k
    (∀ sup r v, q.act = .x k sup r v →
      ∃ st', OneStrand s (s.land q) k st' ∧ st' = st.setBank sup (st'.bankOf sup) ∧
        (∀ x : XReg, (st'.bankOf sup).readX x = if x = r ∧ r ≠ 0 then v else (st.bankOf sup).readX x) ∧
        (st'.bankOf sup).tok = (st.bankOf sup).tok ∧ (st'.bankOf sup).rets = (st.bankOf sup).rets ∧
        (st'.bankOf sup).loops = (st.bankOf sup).loops) ∧
    (∀ r data slots tag, q.act = .v k r data slots tag →
      ∃ st', OneStrand s (s.land q) k st' ∧ st' = { st with v := st'.v } ∧
        (∀ j : VRegNo, j ≠ r → st'.v.get j = st.v.get j) ∧ (st'.v.get r).tag = tag.getD (st.v.get r).tag ∧
        ∀ n, n < 1024 → (st'.v.get r).slot n = if slots.getLsbD n then elemAt data 32 n else (st.v.get r).slot n) ∧
    (∀ r v, q.act = .k k r v →
      ∃ st', OneStrand s (s.land q) k st' ∧ st' = { st with k := st'.k } ∧ st'.k.get r = v ∧
        ∀ j : KRegNo, j ≠ r → st'.k.get j = st.k.get j) ∧
    (∀ r data bytes, q.act = .b k r data bytes →
      ∃ st', OneStrand s (s.land q) k st' ∧ st' = { st with b := st'.b } ∧ (∀ j : BRegNo, j ≠ r → st'.b.get j = st.b.get j) ∧
        ∀ n, n < 1024 → (st'.b.get r).extractLsb' (8 * n) 8 =
          if bytes.getLsbD n then data.extractLsb' (8 * n) 8 else (st.b.get r).extractLsb' (8 * n) 8) ∧
    (∀ b, q.act = .flags k b → OneStrand s (s.land q) k { st with flags := st.flags ||| b }) ∧
    -- the lining trap: at the group that wrote the result; in a bundle its other members abort at theirs
    (∀ pc info, q.act = .lining k pc info [] → st.mode = .kernel →
      let t := s.land q
      let w := s.hw.wtick
      t = { s with hw := { s.hw with strands := t.hw.strands, dies := t.hw.dies } } ∧
        t.hw.dies = (s.hw.record (slotOf k) 2 0x0A 0 0 (some info)).dies ∧
        t.hw.strand k = ({ st with pc := pc } : Strand).enterTrap w k { cause := 0x23, info := info } ∧
        ∀ j, j ≠ k → t.hw.strand j = s.hw.strand j) ∧
    (∀ pc info mates, q.act = .lining k pc info mates → mates ≠ [] → (mates.map (·.1)).Nodup → k ∈ mates.map (·.1) →
      st.mode = .kernel →
        let t := s.land q
        let w := s.hw.wtick
        let mine := fun (x : Pend) => match x.act with | .lining _ _ _ m => m == mates | _ => false
        t = { s with hw := { s.hw with strands := t.hw.strands, dies := t.hw.dies, pend := t.hw.pend } } ∧
          t.hw.dies = (s.hw.record (slotOf k) 2 0x0A 0 0 (some info)).dies ∧
          t.hw.pend = s.hw.pend.filter (fun x => !mine x) ∧
          t.hw.strand k =
            { ({ st with pc := pc } : Strand).enterTrap w k { cause := 0x23, info := info } with bnd := true } ∧
          (∀ x ∈ mates, x.1 ≠ k → (s.hw.strand x.1).status = .running → (s.hw.strand x.1).mode = .kernel →
            t.hw.strand x.1 = { ({ s.hw.strand x.1 with pc := x.2 } : Strand).enterTrap w x.1 { cause := 0x0C, info := info } with
              clu := BitVec.ofNat 2 (clusterOf k), bnd := true }) ∧
          ∀ j, j ∉ mates.map (·.1) → t.hw.strand j = s.hw.strand j)

/-- R82, R99, R173, R201: what a scratchpad write does when it lands. A store leaves its bytes at its address. A `swset` stores both
double words of its sync word: TARGET, GEN as it was, and the rest 0. An atomic reads the old
value at its address and leaves the new one, at one tick, and the old value is a write of the same tick to its destination, if it
has one. The later KiBs of `vst` are read from the register when their turn comes, and are visible three ticks after. -/
def Sys2Proof.Claims.ScratchpadWritesLand : Prop :=
  ∀ (s : State) (q : Pend) (core port off : Nat), Memory.wf s.mem = true →
    (∀ bs, q.act = .store core port off bs → Stored s (s.land q) (spadKey core off) bs) ∧
    (∀ target, q.act = .swset core port off target → Stored s (s.land q) (spadKey core off)
      ([0, 0, 0, 0] ++ Memory.readBytes s.mem (spadKey core off + 4) 4 ++ [0, 0, 0, 0] ++ leBytes 4 target)) ∧
    (∀ n op y cmp, q.act = .atomic core port off n op y cmp none →
      Stored s (s.land q) (spadKey core off) (leBytes n (atomNew op n (Memory.readNat s.mem (spadKey core off) n) y cmp))) ∧
    (∀ k r i n, q.act = .vstRead k r i core port off n →
      ∃ t : State, s.land q = t ∧ t = { s with hw := { s.hw with pend := t.hw.pend, seq := t.hw.seq } } ∧
        landings t.hw.pend = landings s.hw.pend ++ [(q.part, q.wall, q.due + 3,
          .store core port off ((List.range n).map fun j =>
            BitVec.ofNat 8 (elemAt ((s.hw.strand k).v.get r).data 8 (1024 * i + j))))]) ∧
    (∀ n op y cmp k sup r, q.act = .atomic core port off n op y cmp (some (k, sup, r)) →
      ∃ t, Stored s t (spadKey core off) (leBytes n (atomNew op n (Memory.readNat s.mem (spadKey core off) n) y cmp)) ∧
        s.land q = { t with hw := { t.hw with
          pend := t.hw.pend ++ [{ q with act := .x k sup r (BitVec.ofNat 64 (Memory.readNat s.mem (spadKey core off) n)) }] } })

/-- R7, R82, R83, R137: what scheduled writes do when they land. -/
def Obligations.WritesLand : Prop := RegisterWritesLand ∧ ScratchpadWritesLand

/-- A write of a register or of a scratchpad whose value was fixed at its issue. -/
def Sys2Proof.Claims.plain : PendAct → Bool
  | .x _ _ _ _ | .v _ _ _ _ _ | .k _ _ _ | .b _ _ _ _ | .flags _ _ | .store _ _ _ _ | .swset _ _ _ _ => true
  | _ => false

/-- Of two writes due at one tick the first lands first: scratchpad writes in the order of their ports (R83), then register writes; and
of one port, or among register writes, in the order of their issue (R137). -/
def Sys2Proof.Claims.landsBefore (a b : Pend) : Prop :=
  ∃ i j, a.act.rank = some i ∧ b.act.rank = some j ∧ i < 12 ∧ j < 12 ∧ (i < j ∨ (i = j ∧ a.seq < b.seq))

/-- R7, R83, R137, R173: at a tick's landing event, the writes of a partition that are due land, and leave the pending writes: the one
that is due; any number of register writes, stores and `swset`s, cluster by cluster and in issue order, so that the last issued
stands; of an atomic the old value lands in its register after its write, in the same event; with nothing due the event changes
nothing. -/
def Obligations.TimedWriteLanding : Prop :=
  ∀ (s : State) (p : Nat), p < 8 →
    let isDue := fun (q : Pend) => q.act.rank.isSome && s.hw.isDue p q
    let rest := s.hw.pend.filter fun q => !isDue q
    (∀ q, s.hw.pend.filter isDue = [q] →
      let one := State.land { s with hw := { s.hw with pend := rest } } q
      ((∃ r, r < 12 ∧ q.act.rank = some r) → (∀ x ∈ one.hw.pend, x.act.rank = none ∨ one.hw.isDue p x = false) →
        exec (.timedWriteLanding p) s = .next one) ∧
      ∀ core port off n op y cmp k sup r, q.act = .atomic core port off n op y cmp (some (k, sup, r)) → port < 6 →
        exec (.timedWriteLanding p) s = .next (State.land { one with hw := { one.hw with pend := rest } }
          { q with act := .x k sup r (BitVec.ofNat 64 (Memory.readNat s.mem (spadKey core off) n)) })) ∧
    (∀ l : List Pend, (s.hw.pend.filter isDue).Perm l → l.Pairwise landsBefore → (∀ q ∈ l, plain q.act = true) → 2 ≤ l.length →
      exec (.timedWriteLanding p) s = .next (l.foldl State.land { s with hw := { s.hw with pend := rest } })) ∧
    (s.hw.pend.filter isDue = [] → ∃ t, exec (.timedWriteLanding p) s = .next t ∧ t = s)

/-- R26, R65, R68, R170, R190, R358: the writes that `csrw` scheduled, when they take effect. RNDM stores 001 for 000 and 111;
SRSEED stores 1 for 0; FLAGS keeps six bits; LCn, LSn and LEn are of the bank in use; KXVAL is a kernel register; VIEWNO takes its
slot; of SSTAT, EMU and RFL are written, NXT but in strict mode, and SFLT is cleared by a 1; SCAUSE is written whole; SYNCMASK is the
core's; SDBG.BKEN and SCTX are the partition's; a graph context's NODE is written while it does not run. Nothing else changes. -/
def Obligations.RegisterWriteEvents : Prop :=
  ∀ (s : State) (k : Nat) (v : W64),
    let st := s.hw.strand k
    let sets := fun (i : Instr) (st' : Strand) => ∃ t, exec i s = .next t ∧ OneStrand s t k st'
    let p := s.hw.partOf (slotOf k)
    let setsPart := fun (i : Instr) (q : Part) => ∃ t, exec i s = .next t ∧ t = { s with hw := { s.hw with parts := t.hw.parts } } ∧
      t.hw.part p = q ∧ ∀ j, j % 8 ≠ p % 8 → t.hw.part j = s.hw.part j
    sets (.flagsWrite k v) { st with flags := v.setWidth 6 } ∧
    sets (.rndmWrite k v) { st with rndm := if v.toNat % 8 = 0 ∨ v.toNat % 8 = 7 then 1 else v.setWidth 3 } ∧
    sets (.srseedWrite k v) { st with srseed := if v.toNat % 2 ^ 32 = 0 then 1 else v.setWidth 32 } ∧
    (∀ n : XReg, sets (.kxvalWrite k n v) { st with kb := st.kb.writeX n v }) ∧
    (∀ n : LoopNo,
      let l := st.bank.loops.get n
      let with_ := fun (l' : Loop) => st.updBank fun b => { b with loops := b.loops.set n l' }
      sets (.loopRegisterWrite k (BitVec.ofNat 12 (0x020 + n.val)) v)
        (with_ { l with act := v.getLsbD 63, count := v.setWidth 32 }) ∧
      sets (.loopRegisterWrite k (BitVec.ofNat 12 (0x024 + n.val)) v) (with_ { l with start := w64 (v.toNat / 4 * 4 : Nat) }) ∧
      sets (.loopRegisterWrite k (BitVec.ofNat 12 (0x028 + n.val)) v) (with_ { l with last := w64 (v.toNat / 4 * 4 : Nat) })) ∧
    sets (.registerWrite k 0x005 v) { st with mixsel := v.setWidth 6 } ∧
    sets (.registerWrite k 0x014 v) { st with hookAddr := w64 (v.toNat / 4 * 4 : Nat), hookEn := v.getLsbD 0 } ∧
    sets (.registerWrite k 0x802 v) { st with sepc := v } ∧ sets (.registerWrite k 0x803 v) { st with stval := v } ∧
    sets (.registerWrite k 0x804 v) { st with svec := w64 (v.toNat / 4 * 4 : Nat) } ∧
    sets (.registerWrite k 0x805 v) { st with semu := v } ∧ sets (.registerWrite k 0x806 v) { st with sfcode := v.setWidth 16 } ∧
    sets (.registerWrite k 0x80C v) { st with kxsel := v.setWidth 5 } ∧
    (∀ n : Fin 4, sets (.registerWrite k (BitVec.ofNat 12 (0x808 + n.val)) v) { st with ssave := st.ssave.set n v }) ∧
    sets (.registerWrite k 0x009 v) st ∧ sets (.registerWrite k 0x015 v) { st with viewSlot := v.extractLsb' 62 2 } ∧
    sets (.registerWrite k 0x800 v)
      { st with emu := v.getLsbD 10, rfl_ := v.getLsbD 9, nxt := if s.hw.strictOf p then st.nxt else v.getLsbD 8
                sflt := st.sflt && !v.getLsbD 6 } ∧
    sets (.registerWrite k 0x801 v)
      { st with dcode := v.extractLsb' 48 16, info := v.extractLsb' 32 16, clu := v.extractLsb' 24 2, cause := v.extractLsb' 0 8 } ∧
    setsPart (.registerWrite k 0x812 v) { s.hw.part p with bken := v.getLsbD 0 } ∧
    setsPart (.registerWrite k 0x814 v) { s.hw.part p with sctx := w64 (v.toNat / 2 ^ 26 * 2 ^ 26 : Nat) } ∧
    (k = seqOf 0 → ∀ n : Fin 16,
      let c := s.hw.pkg.graphs.get n
      ∃ t, exec (.registerWrite k (BitVec.ofNat 12 (0x820 + n.val)) v) s = .next t ∧ t.mem = s.mem ∧
        t.hw = { s.hw with pkg := { s.hw.pkg with graphs := t.hw.pkg.graphs }, agenda := t.hw.agenda } ∧
        (∀ m : Fin 16, m ≠ n → t.hw.pkg.graphs.get m = s.hw.pkg.graphs.get m) ∧
        t.hw.pkg.graphs.get n =
          { c with node := if c.run then c.node else v.toNat / 2 ^ 48, limit := c.limit && !v.getLsbD 35
                   fault := c.fault && !v.getLsbD 34, refused := c.refused && !v.getLsbD 33
                   endv := v.toNat / 2 ^ 16 % 2 ^ 16, part := v.toNat % 8 } ∧
        t.hw.agenda = s.hw.agenda ++ (if v.getLsbD 4 = true ∧ c.run = false then [.graphContextStart n.val] else [])) ∧
    ∃ t, exec (.syncmaskWrite k v) s = .next t ∧ t.mem = s.mem ∧ t.hw = { s.hw with cores := t.hw.cores } ∧
      t.hw.core (coreOf k) = { s.hw.core (coreOf k) with syncmask := v.setWidth 4 } ∧
      ∀ c, c ≠ coreOf k → t.hw.core c = s.hw.core c

/-! ### Class C: what ends a wait or an access in flight (R40, R92-R95, R100, R116, R179, R188, R189, R350) -/

/-- The waits that end (R40, R94, R100, R179, R189): when its condition holds, the strand goes on, its next group issuing at the
next tick, and nothing else changes; when it does not, the event changes nothing; at the end of a pre-emption's stub commands that
stay in the array queue hold no drain. Blocked strands issue their group again when
there is room. -/
def Sys2Proof.Claims.WaitsEnd : Prop :=
  ∀ (s : State) (k : Nat),
    let h := s.hw
    let st := h.strand k
    let on : Strand := resumes h.wtick st
    let goes := fun (i : Instr) => ∃ t, exec i s = .next t ∧ OneStrand s t k on
    let stays := fun (i : Instr) => exec i s = .next s
    (∀ t, st.wait = .token t →
      ((st.token st.sup t).pend = 0 → (st.token st.sup t).err = false → (st.token st.sup t).fence = false →
        goes (.tokenWaitSatisfied k)) ∧
      ((st.token st.sup t).pend ≠ 0 → stays (.tokenWaitSatisfied k))) ∧
    (∀ off g, st.wait = .sync off g →
      (∀ b, b ∈ h.pkg.bad ∨ b ∈ h.pkg.poison →
        ¬ (spadKey (coreOf k) off < b + wordBytes b ∧ b < spadKey (coreOf k) off + 16)) →
      (((genAt s.mem (coreOf k) off) - g).toNat < 2 ^ 31 → goes (.syncWaitSatisfied k)) ∧
      (¬ ((genAt s.mem (coreOf k) off) - g).toNat < 2 ^ 31 → stays (.syncWaitSatisfied k))) ∧
    (st.wait = .drain → (h.drained k = true → st.owed = none → goes (.drainSatisfied k)) ∧
      (st.stub = false → h.drained k = false → stays (.drainSatisfied k)) ∧
      (h.settled k = false → stays (.drainSatisfied k))) ∧
    (∀ v, st.wait = .ftime v → (v.toNat ≤ h.ftime.toNat → goes (.timeWaitSatisfied k)) ∧
      (h.ftime.toNat < v.toNat → stays (.timeWaitSatisfied k))) ∧
    (∀ v, st.wait = .wtick v → (v.toNat ≤ h.wtick → goes (.timeWaitSatisfied k)) ∧
      (h.wtick < v.toNat → stays (.timeWaitSatisfied k))) ∧
    (∀ since res, st.wait = .space since res →
      (0 < h.room k res →
        ∃ t, exec (.spaceBlockRelease k) s = .next t ∧ t.mem = s.mem ∧ t.hw.strand k = { st with wait := .none } ∧
          (∀ j, j ≠ k → t.hw.strand j = h.strand j) ∧ t.hw = { h with strands := t.hw.strands, todo := h.todo ++ [k] }) ∧
      (h.room k res = 0 → stays (.spaceBlockRelease k)))

/-- A 64-bit value whose words of 32 bits are those of `new` where `m` has its bit, and of `old` elsewhere. -/
def Sys2Proof.Claims.mixed (m : Nat) (new old v : W64) : Prop :=
  ∀ i, i < 2 → v.extractLsb' (32 * i) 32 = if m.testBit i then new.extractLsb' (32 * i) 32 else old.extractLsb' (32 * i) 32

/-- R32, R92-R95, R102, R173, R176: the end of an untimed access of one piece, within a line, at a place in memory that is neither
remote nor in error. A store leaves its bytes, the token counts down, and the access leaves the machine. A load reads the bytes at
its place, an atomic reads them and leaves the new value at once; in a strict partition some of the register's elements of 32 bits
receive the value, sign- or zero-extended, in one tick and all of it in the next, with which the token counts down and the access
leaves; in a queued one the register keeps its old value until that tick, and no read finds a part of each (R94). -/
def Sys2Proof.Claims.UntimedCompletion : Prop :=
  ∀ (s : State) (u : Untimed) (slot : Option Nat) (key n : Nat),
    let h := s.hw
    let p := h.partOf (slotOf u.strand)
    let st := h.strand u.strand
    Memory.wf s.mem = true → h.untimed.find? (·.id == u.id) = some u → h.canComplete u = true → u.pieces = [(.mem slot key, n)] →
    n ≤ 64 → piecesFail h p (slotOf u.strand) u.pieces = none → u.code = none →
    (∀ b, b ∈ h.pkg.bad ∨ b ∈ h.pkg.single ∨ b ∈ h.pkg.poison → ¬ (key < b + wordBytes b ∧ b < key + n)) →
      (∀ k, slot = some k → Config.slotType k ≠ .fb) →
      let old := Memory.readNat s.mem key n
      let counted := fun (x : Strand) =>
        x.updToken u.sup u.tok fun t => { t with pend := t.pend - 1 }
      let left := fun (x : Strand) =>
        ({ x with fencedW := x.fencedW.filter (· != u.id), fencedR := x.fencedR.filter (· != u.id) } : Strand)
      let others := fun (t : State) =>
        exec (.untimedCompletion u.id) s = .next t ∧ (∀ j, j ≠ u.strand → t.hw.strand j = h.strand j) ∧ t.hw.pend = h.pend ∧
          t.hw.cores = h.cores ∧ t.hw.flight = h.flight
      let ends := fun (t : State) (x : Strand) =>
        others t ∧ t.hw.strand u.strand = left (counted x) ∧ t.hw.untimed = h.untimed.filter (·.id != u.id)
      -- the first tick of a load or an atomic: the elements of `m` receive the value
      let begins := fun (t : State) (d : XReg) (v : W64) => ∃ m w, m < 2 ^ 1024 ∧ others t ∧ (h.strictOf p = false → m = 0) ∧
        mixed m v ((st.bankOf u.sup).readX d) w ∧ t.hw.strand u.strand = st.setBank u.sup ((st.bankOf u.sup).writeX d w) ∧
        t.hw.untimed = h.untimed.map fun x => if x.id = u.id then
          { u with data := leBytes n old, begun := true, left := some (2 ^ 1024 - 1), due := Nat.max u.due (h.wtick + 1) } else x
      -- the second: those of `m` do, at the end all
      let lands := fun (t : State) (d : XReg) (v : W64) (m : Nat) => ∃ w,
        mixed m v ((st.bankOf u.sup).readX d) w ∧ ends t (st.setBank u.sup ((st.bankOf u.sup).writeX d w)) ∧ t.mem = s.mem
      let ext := fun (sgn : Bool) (x : Nat) => w64 (if sgn then signedBytes n x else (x : Int))
      (∀ bs, u.op = .store bs → bs.length = n → u.begun = false →
        ∃ t, ends t st ∧ (∀ j, j < n → Memory.read t.mem (key + j) = bs.getD j 0) ∧
          ∀ a, a < key ∨ key + n ≤ a → Memory.read t.mem a = Memory.read s.mem a) ∧
      (∀ d sgn, u.op = .load d n sgn → u.begun = false → u.left = none → ∃ t, begins t d (ext sgn old) ∧ t.mem = s.mem) ∧
      (∀ d op y cmp, u.op = .atomic d n op y cmp → u.begun = false → u.left = none →
        ∃ t, begins t d (BitVec.ofNat 64 old) ∧
          (∀ j, j < n → Memory.read t.mem (key + j) = (leBytes n (atomNew op n old y cmp)).getD j 0) ∧
          ∀ a, a < key ∨ key + n ≤ a → Memory.read t.mem a = Memory.read s.mem a) ∧
      (∀ d sgn m, u.op = .load d n sgn → u.left = some m → u.data.length = n → 0 < n → ∃ t, lands t d (ext sgn (leNat u.data)) m) ∧
      ∀ d k op y cmp m, u.op = .atomic d k op y cmp → u.left = some m → ∃ t, lands t d (BitVec.ofNat 64 (leNat u.data)) m

/-- R40, R91-R95, R179: the ends of waits and of untimed accesses. -/
def Obligations.WaitsAndUntimedAccessesEnd : Prop := WaitsEnd ∧ UntimedCompletion

/-! ### Events: barriers (R42-R45, R183, R184, R339), rendezvous (R28), promotion (R116) -/

/-- `t` is `s` with partition p as `q` and nothing else changed. -/
def Sys2Proof.Claims.OnePart (s t : State) (p : Nat) (q : Part) : Prop :=
  t = { s with hw := { s.hw with parts := t.hw.parts } } ∧ t.hw.part p = q ∧ ∀ j, j < 8 → j ≠ p → t.hw.part j = s.hw.part j
/-- `t` is `s` with die d as `x` and nothing else changed. -/
def Sys2Proof.Claims.OneDie (s t : State) (d : Nat) (x : Die) : Prop :=
  t = { s with hw := { s.hw with dies := t.hw.dies } } ∧ t.hw.die d = x ∧ ∀ j, j ≠ d → t.hw.die j = s.hw.die j
/-- `t` is `s` with the package's own state as `k` and nothing else changed. -/
def Sys2Proof.Claims.OnePkg (s t : State) (k : Package) : Prop := t = { s with hw := { s.hw with pkg := k } }

/-- A partition with one group entry replaced. -/
def Sys2Proof.Claims.withGroup (q : Part) (g : Nat) (f : GroupEntry → GroupEntry) : Part :=
  { q with groups := q.groups.map fun e => if e.num = g then f e else e }
/-- The releases that end a phase: one for every team that waits, 48 ticks later (notes/assumptions/12.md). -/
def Sys2Proof.Claims.releases (h : Hw) (p g : Nat) (e : GroupEntry) (err : Bool) (code : BitVec 16) : List (Nat × Event) :=
  e.waiting.map fun t => (h.wtick + 48, .barrierRelease p g t (e.phase + 1).toNat err code.toNat)

/-- R43-R45 at the partition master, for a group that is no fabric group: an arrival of another phase is answered at once with
the group's last status; one of the current phase is counted, and the one that reaches the target completes the phase: the
count returns to 0, the phase advances, and every waiting team is released. An error completion does the same with its code. -/
def Sys2Proof.Claims.BarrierCounting : Prop :=
  ∀ (s : State) (p g team : Nat) (phase : BitVec 16) (e : GroupEntry) (code : BitVec 16),
    let h := s.hw
    let q := h.part p
    p < 8 → team < 384 → q.group? g = some e → e.fabric = false →
      let all := { e with count := e.count + 1, waiting := e.waiting ++ [team] }
      let done := fun (err : Bool) (c : BitVec 16) (x : GroupEntry) =>
        { x with err := err, code := c, count := 0, phase := x.phase + 1, waiting := []
                 ready := x.ready.filter fun r => r % 65536 != e.phase.toNat }
      (phase ≠ e.phase →
        exec (.barrierArrival p g team phase.toNat) s =
          .next (s.updHw fun h => h.at (h.wtick + 48) (.barrierRelease p g team e.phase.toNat e.err e.code.toNat))) ∧
      (phase = e.phase → e.count + 1 ≠ e.target →
        ∃ t, exec (.barrierArrival p g team phase.toNat) s = .next t ∧
          OnePart s t p (withGroup q g fun x => { x with count := x.count + 1, waiting := x.waiting ++ [team] })) ∧
      (phase = e.phase → e.count + 1 = e.target →
        ∃ t, exec (.barrierArrival p g team phase.toNat) s = .next t ∧ t.mem = s.mem ∧
          t.hw = { h with parts := t.hw.parts, flight := h.flight ++ releases h p g all false 0 } ∧
          (t.hw.part p).group? g = some (done false 0 all) ∧ ∀ j, j < 8 → j ≠ p → t.hw.part j = h.part j) ∧
      ∃ t, exec (.barrierErrorCompletion p g code.toNat) s = .next t ∧ t.mem = s.mem ∧
        t.hw = { h with parts := t.hw.parts, flight := h.flight ++ releases h p g e true code } ∧
        (t.hw.part p).group? g = some (done true code e) ∧ ∀ j, j < 8 → j ≠ p → t.hw.part j = h.part j

/-- R183, R184, R28, R116: a release that reaches its team sets the local phase and the status and clears PENDING, and every strand of
the team that stands in `barw` or `barrw` on the group goes on, its xd receiving the status one tick later; in strict mode the
strands' later untimed work waits for the scratchpad stores issued before the release (R109); a complete rendezvous frees its members; the promotion of an asymmetric fence makes the releases at die scope of its die hold at
partition scope. -/
def Sys2Proof.Claims.ReleasesReachTeams : Prop :=
  ∀ (s : State),
    let h := s.hw
    (∀ (p g team : Nat) (phase code : BitVec 16) (err : Bool) (c : Nat), p < 8 → h.teamCore p team = some c →
      let status := if ((h.core c).grp g).isSome then w64 ((if err then 65536 else 0) + code.toNat : Nat) else 0
      let who := [0, 1, 2, 3].filterMap fun i => match (h.strand (c * 4 + i)).wait with
        | .barrier b d => if b = g then some (c * 4 + i, d) else none
        | _ => none
      let acquires := fun (k : Nat) =>
        if h.strictOf p = true ∧ coreOf k = c then ({ h.strand k with acqSeq := h.seq } : Strand) else h.strand k
      ∃ t, exec (.barrierRelease p g team phase.toNat err code.toNat) s = .next t ∧ t.mem = s.mem ∧
        t.hw = { h with cores := t.hw.cores, strands := t.hw.strands, pend := t.hw.pend, seq := t.hw.seq } ∧
        (∀ j, j ≠ c → t.hw.core j = h.core j) ∧
        t.hw.core c = ((h.core c).updGrp g fun x => { x with phase := phase, pending := false, err := err, code := code }) ∧
        (∀ k, t.hw.strand k = if ∃ d, (k, d) ∈ who then resumes h.wtick (acquires k) else acquires k) ∧
        landings t.hw.pend = landings h.pend ++ who.flatMap fun x =>
          if x.2 = 0 then [] else [(h.partOf (slotOf x.1), h.useWall x.1, h.now x.1 + 1, .x x.1 (h.strand x.1).sup x.2 status)]) ∧
    (∀ c, h.rendezvousMet s.mem c = true →
      ∃ t, exec (.syncRendezvous c) s = .next t ∧ t.mem = s.mem ∧ t.hw = { h with strands := t.hw.strands } ∧
        ∀ k, t.hw.strand k =
          if k ∈ h.members (c * 4) ∧ (h.strand k).wait = .rendezvous then { h.strand k with wait := .none } else h.strand k) ∧
    (∀ c, h.rendezvousMet s.mem c = false → exec (.syncRendezvous c) s = .next s) ∧
    ∀ (k tok slot : Nat), slot < 48 →
      ∃ t, exec (.afencePromotion k tok slot) s = .next t ∧ t.mem = s.mem ∧ t.hw = { h with strands := t.hw.strands } ∧
        ∀ j, t.hw.strand j = if slotOf j = slot then { h.strand j with dieReleases := 0 } else h.strand j

/-- R43-R45, R183, R184: barriers at the partition master, and their releases. -/
def Obligations.BarrierMaster : Prop := BarrierCounting ∧ ReleasesReachTeams

/-! ### Events: launch, anchors, completion (R30-R36, R342-R348, R367, R410) -/

/-- R342, R344: a packet that reads well waits at the end of the queue of its priority; one that cannot be read is counted as
refused; a full queue refuses it with the code 0x0606 in its completion record. -/
def Sys2Proof.Claims.LaunchSubmission : Prop :=
  ∀ (s : State) (p : Nat) (a : W64) (ctx : Option Nat), p < 8 →
    let q := s.hw.part p
    (∀ pk, s.packet? p a.toNat = some pk → (q.queues.get (Fin.ofNat 4 pk.prio)).length < 64 →
      ∃ t, exec (.launchSubmit p a ctx) s = .next t ∧
        OnePart s t p { q with
          queues := q.queues.set (Fin.ofNat 4 pk.prio) (q.queues.get (Fin.ofNat 4 pk.prio) ++ [{ packet := a, ctx := ctx }]) }) ∧
    (∀ pk, s.packet? p a.toNat = some pk → 64 ≤ (q.queues.get (Fin.ofNat 4 pk.prio)).length →
      exec (.launchSubmit p a ctx) s = .next (s.refuse p a ctx 0x0606)) ∧
    (s.packet? p a.toNat = none → ctx = none →
      ∃ t, exec (.launchSubmit p a ctx) s = .next t ∧ OnePart s t p { q with refused := q.refused + 1 })

/-- R343-R348, R395, R424: an idle partition selects the head of its queue. A plan that passes every check and needs no table rewrite
starts: the kernel of its packet is placed in the loading phase, its head leaves the queue, and the go follows at a later tick. A plan
that fails is refused with its code. One that rewrites tables while requests that the old tables placed are outstanding waits, for
2^20 ticks at most. While a mode switch is asked for or under way nothing is selected but a kernel under restart. -/
def Sys2Proof.Claims.LaunchSelection : Prop :=
  ∀ (s : State) (p k : Nat) (w : Waiting), p < 8 → k < 4 →
    let q := s.hw.part p
    let leave := s.updHw fun h => h.updLaunchQueue p k List.tail
    let steady := s.hw.pkg.modeAsked = none ∧ s.hw.pkg.modeSwitch = none
    (q.kernel = none → ¬ steady → q.restarting = false → exec (.launchSelect p) s = .next s) ∧
    (q.rewriteSince = none → exec (.tableDrainTimeout p) s = .next s) ∧
    (∀ w, q.rewriteSince = some w → s.hw.wtick < w + 2 ^ 20 → exec (.tableDrainTimeout p) s = .next s) ∧
    (q.kernel = none → steady → q.rewriteSince = none → q.pick = some k → (q.queues.get (Fin.ofNat 4 k)).head? = some w →
      w.resumed = false →
      (∀ pl x, s.plan p w.packet.toNat = .ok pl → pl.brim = some x → s.hw.rewrites p x.1 = true → s.hw.tablesDrained p = false →
        ∃ t, exec (.launchSelect p) s = .next t ∧ t.mem = s.mem ∧ t.hw = { s.hw with parts := t.hw.parts, flight := t.hw.flight } ∧
          t.hw.part p = { q with rewriteSince := some s.hw.wtick, rewritePrio := k } ∧
          (∀ j, j < 8 → j ≠ p → t.hw.part j = s.hw.part j) ∧
          t.hw.flight = s.hw.flight ++ [(s.hw.wtick + 2 ^ 20, .tableDrainTimeout p)]) ∧
      (∀ c, s.plan p w.packet.toNat = .error c →
        exec (.launchSelect p) s = .next (leave.refuse p w.packet w.ctx c)) ∧
      (∀ pl, s.plan p w.packet.toNat = .ok pl → pl.brim = none →
        ∃ t kn, exec (.launchSelect p) s = .next t ∧ (t.hw.part p).kernel = some kn ∧ kn.phase = .loading ∧
          kn.packet = w.packet ∧ kn.strict = pl.hd.strict ∧ kn.prio = k ∧ kn.nm = pl.pk.nm ∧ kn.nv = pl.pk.nv ∧
          kn.ng = pl.pk.ng ∧ kn.anchors = pl.var.anchors ∧ (t.hw.part p).stick = 0 ∧ (t.hw.part p).live = false ∧
          ((t.hw.part p).queues.get (Fin.ofNat 4 k)) = (q.queues.get (Fin.ofNat 4 k)).tail ∧
          ∃ b, s.hw.wtick < b ∧ (b, Event.goBroadcast p) ∈ t.hw.flight))

/-- R342-R348: launches submitted and selected. -/
def Obligations.LaunchQueues : Prop := LaunchSubmission ∧ LaunchSelection

/-- R30, R37, R47, R348: the go of a loaded kernel. In strict mode T0 falls 64 ticks later; in queued mode it follows in the
same tick. At T0 the kernel runs, STICK is 0, and in strict mode every strand may issue from that tick on. -/
def Sys2Proof.Claims.GoAndT0 : Prop :=
  ∀ (s : State) (p : Nat) (k : Kernel), p < 8 → (s.hw.part p).kernel = some k → k.phase = .loading → k.restoring = false →
    let h := s.hw
    (k.strict = true → exec (.goBroadcast p) s = .next (s.updHw fun h => h.at (h.wtick + 64) (.kernelT0 p))) ∧
    (k.strict = false → exec (.goBroadcast p) s = .next (s.updHw fun h => h.soon (.kernelT0 p))) ∧
    ((h.part p).crown ≠ 0 →
      ∃ t kn, exec (.kernelT0 p) s = .next t ∧ t.mem = s.mem ∧ t.hw.pend = h.pend ∧ (t.hw.part p).kernel = some kn ∧
        kn = { k with phase := .running, wstart := kn.wstart } ∧ (t.hw.part p).stick = 0 ∧ (t.hw.part p).live = true ∧
        (k.strict = true → ∀ i ∈ h.strandsOf p, (t.hw.strand i).notBefore = h.wtick ∧ (t.hw.strand i).startTick = h.wtick))

/-- R31-R36: what the partition master does about an anchor. A report is noted, and the last report after a deadline gives the
hold its length; a deadline with a report missing is noted; the end of a hold is the next schedule tick. -/
def Sys2Proof.Claims.AnchorsAndHolds : Prop :=
  ∀ (s : State) (p d : Nat), p < 8 →
    let h := s.hw
    let q := h.part p
    (∀ a, q.anchors.find? (fun a => !a.reports.contains d) = some a →
      ∃ t, exec (.readyReport p d) s = .next t ∧
        OnePart s t p { q with anchors := q.anchors.map fun x =>
          if x.at_ = a.at_ then
            { x with
              reports := d :: x.reports
              len := if ((h.diesOf p).all fun e => e == d || a.reports.contains e) then x.late.map fun w => h.wtick - w else x.len }
          else x }) ∧
    (∃ t, exec (.anchorDeadline p) s = .next t ∧
      OnePart s t p { q with anchors := q.anchors.map fun a =>
        if a.at_ + 48 = q.stick ∧ a.late = none ∧ (∃ e ∈ h.diesOf p, e ∉ a.reports) then { a with late := some h.wtick } else a }) ∧
    (∀ k, q.kernel = some k → k.phase = .running → k.strict = true → q.live = false →
      (h.heldAt p h.wtick = true → exec (.holdEnd p) s = .next s) ∧
      (h.heldAt p h.wtick = false →
        ∃ t, exec (.holdEnd p) s = .next t ∧ t.mem = s.mem ∧ t.hw.strands = h.strands ∧ t.hw.pend = h.pend ∧
          (t.hw.part p).stick = q.stick + 1 ∧ (t.hw.part p).pclk = q.pclk + 1 ∧ (t.hw.part p).live = true ∧
          (t.hw.part p).hold = none ∧ (t.hw.part p).anchors = q.anchors.filter fun a => !decide (a.at_ + 96 ≤ q.stick + 1)))

/-- R30-R37, R348: the start of a kernel, its anchors and its holds. -/
def Obligations.KernelStartAndHolds : Prop := GoAndT0 ∧ AnchorsAndHolds

/-- R46, R47, R86: the completion of a die happens in every state. While a kernel runs, the die's load window opens, its event word
receives the tick, and the partition's count of dies falls; with the last die the kernel completes and the partition is idle. With
no event words and no access counters asked for, nothing else changes before the last die. -/
def Sys2Proof.Claims.DieCompletion : Prop :=
  ∀ (s : State) (d : Nat), d < 48 →
    let h := s.hw
    let p := h.partOf d
    let q := h.part p
    (∃ t, exec (.dieCompletion d) s = .next t) ∧
    (q.kernel = none → exec (.dieCompletion d) s = .next s) ∧
    ∀ k, q.kernel = some k →
      (∃ t, exec (.dieCompletion d) s = .next t ∧ (t.hw.die d).loadWindow = true ∧
        (2 ≤ q.crown → (t.hw.part p).kernel = some k ∧ (t.hw.part p).crown = q.crown - 1 ∧
          ((h.die d).ctrAddr = 0 → k.devaddr ≠ 0 →
            t.mem = (s.writeLaunch p (k.devaddr.toNat + 8 * d) (leBytes 8 h.wtick)).mem)) ∧
        (q.crown ≤ 1 → (t.hw.part p).kernel = none ∧ (t.hw.part p).live = true)) ∧
      ((h.die d).ctrAddr = 0 → k.devaddr = 0 → 2 ≤ q.crown → p < 8 →
        ∃ t, exec (.dieCompletion d) s = .next t ∧ t.mem = s.mem ∧
          t.hw = { h with dies := t.hw.dies, parts := t.hw.parts } ∧
          t.hw.die d = { h.die d with loadWindow := true } ∧ (∀ j, j ≠ d → t.hw.die j = h.die j) ∧
          t.hw.part p = { q with crown := q.crown - 1 } ∧ ∀ j, j < 8 → j ≠ p → t.hw.part j = h.part j)

/-- The head of a queue after a kernel stopped or was restarted: the kernel's own entry, with its age, and the others, whose ages
start anew (R344, R345). -/
def Sys2Proof.Claims.requeued (k : Kernel) (l : List Waiting) : List Waiting :=
  { packet := k.packet, ctx := k.ctx, age := k.age, resumed := true } :: l.map fun w => { w with age := 0 }

/-- R367, R410: the end of a kernel and its restart happen in every state. An end that was asked for writes the completion record
with its STATUS and leaves the kernel in the ending phase, its strands issuing nothing more; in a freeze it waits for the next
tick. A restart without a context ends the kernel as KERNEL_LINING, one with a context halts it and puts it back at the head of its
queue. A kernel that is not running is neither ended nor restarted. -/
def Sys2Proof.Claims.KernelEndAndRestart : Prop :=
  ∀ (s : State) (p : Nat), p < 8 →
    let h := s.hw
    let q := h.part p
    (∃ t, exec (.kernelEnd p) s = .next t) ∧ (∃ t, exec (.kernelRestart p) s = .next t) ∧
    (q.kernel = none → exec (.kernelEnd p) s = .next s ∧ exec (.kernelRestart p) s = .next s) ∧
    (q.ending = none → exec (.kernelEnd p) s = .next s) ∧
    (∀ k st, q.kernel = some k → q.ending = some st → q.frozen = true →
      exec (.kernelEnd p) s = .next (s.updHw fun h => h.at (h.wtick + 1) (.kernelEnd p))) ∧
    (∀ k st, q.kernel = some k → q.ending = some st → q.frozen = false →
      ∃ t kn, exec (.kernelEnd p) s = .next t ∧ (t.hw.part p).kernel = some kn ∧ kn.phase = .ending ∧ (t.hw.part p).ending = none ∧
        (t.hw.part p).groups = [] ∧ t.hw.pend = h.pend ∧ t.hw.untimed = h.untimed ∧
        ((∀ d ∈ h.diesOf p, (h.die d).ctrAddr = 0) →
          t.mem = (s.completionRecord p k.packet.toNat k.ltag k.msiv st (if k.strict then q.holds else 0) k.wstart).mem) ∧
        ∀ i ∈ h.strandsOf p, (t.hw.strand i).status = .idle ∨ (t.hw.strand i).status = .retired) ∧
    (∀ k, q.kernel = some k → k.phase = .ending → exec (.kernelRestart p) s = .next s) ∧
    (∀ k, q.kernel = some k → q.context = none → k.phase ≠ .ending → q.ending = none →
      ∃ t, exec (.kernelRestart p) s = .next t ∧ t.mem = s.mem ∧ (t.hw.part p).ending = some 0x060B ∧
        t.hw.flight = h.flight ++ [(h.wtick + 1, .kernelEnd p)]) ∧
    (∀ k c, q.kernel = some k → q.context = some c → k.phase ≠ .ending →
      ∃ t, exec (.kernelRestart p) s = .next t ∧ t.mem = s.mem ∧
        (t.hw.part p).queues.get (Fin.ofNat 4 k.prio) = requeued k (q.queues.get (Fin.ofNat 4 k.prio)) ∧
        (t.hw.part p).preempted = c :: q.preempted ∧ (t.hw.part p).restarting = true ∧
        ∀ i ∈ h.strandsOf p, (t.hw.strand i).status = .idle ∨ (t.hw.strand i).status = .retired)

/-- R46, R47, R367, R410: completion of dies, and the end of a kernel. -/
def Obligations.KernelCompletion : Prop := DieCompletion ∧ KernelEndAndRestart

/-- R345, R370-R376: a pre-emption request becomes pending while the kernel runs; a strand at the end of its stub parks when
its queues and its untimed work are done, and not before, its stores and register writes on their way going on (R434); a stop leaves its kernel's context at the head of its queue and the
partition without a kernel; a resumed kernel goes on 64 ticks later; a breakpoint freeze ends at the next tick, and lets the traps
that wait for it be entered. -/
def Obligations.PreemptionAndFreeze : Prop :=
  ∀ (s : State),
    let h := s.hw
    (∀ p k, p < 8 → (h.part p).kernel = some k → k.phase = .running → (h.part p).preemptAsked = true →
      ∃ t, exec (.preemptPending p) s = .next t ∧ OnePart s t p { h.part p with preemptPend := true }) ∧
    (∀ p, p < 8 → (h.part p).preemptAsked = false → exec (.preemptPending p) s = .next s) ∧
    (∀ k, h.canPark k = false → exec (.strandPark k) s = .next s) ∧
    (∀ k kn, h.canPark k = true → (h.part (h.partOf (slotOf k))).kernel = some kn → kn.restoring = false →
      ∃ t, exec (.strandPark k) s = .next t ∧ OneStrand s t k { h.strand k with status := .parked, wait := .none }) ∧
    (∀ p kn, p < 8 → (h.part p).kernel = some kn → kn.restoring = false → h.allParked p = true →
      ∃ t c, exec (.stopComplete p) s = .next t ∧ (t.hw.part p).kernel = none ∧ (t.hw.part p).preempted = c :: (h.part p).preempted ∧
        c.kernel = kn ∧ c.stick = (h.part p).stick ∧ c.at_ = h.wtick ∧
        (t.hw.part p).queues.get (Fin.ofNat 4 kn.prio) = requeued kn ((h.part p).queues.get (Fin.ofNat 4 kn.prio))) ∧
    (∀ p kn c, p < 8 → (h.part p).kernel = some kn → (h.part p).context = some c → kn.restoring = true → kn.phase = .stopping →
      h.allParked p = true →
      ∃ t, exec (.resumeGo p) s = .next t ∧ t.mem = s.mem ∧
        (t.hw.part p).kernel = some { kn with phase := .going (h.wtick + 64) } ∧
        ∀ i ∈ h.strandsOf p, (h.strand i).status = .parked →
          (t.hw.strand i).status = .running ∧ (t.hw.strand i).mode = .kernel ∧ (t.hw.strand i).pc = (h.strand i).resume ∧
          (t.hw.strand i).notBefore = h.wtick + 64 ∧ (t.hw.strand i).stub = false) ∧
    (∀ p, p < 8 → (h.part p).frozen = false → exec (.sdbgResume p) s = .next s) ∧
    (∀ p, p < 8 → (h.part p).frozen = true →
      ∃ t, exec (.sdbgResume p) s = .next t ∧ OnePart s t p { h.part p with thawNext := true }) ∧
    (∀ p k x, p < 8 → k ∈ h.strandsOf p → (h.strand k).held = some x →
      let e := (h.thawPart p).strand k
      ((h.thawPart p).part p).frozen = false ∧ e.held = none ∧ e.mode = .supervisor ∧ e.pc = (h.strand k).svec ∧
        e.sepc = (h.strand k).pc ∧ e.cause = x.cause ∧ e.info = x.info ∧ e.clu = x.clu ∧ e.bnd = x.bnd ∧ e.thawed = true ∧ e.notBefore = h.wtick + 2)

/-! ### Class X: commands and engines (R300-R320, R99, R118, R287, R298) -/

/-- Die d of `t` is that of `s` with the commands of queue q replaced, and every other die is as it was. -/
def Sys2Proof.Claims.QueueIs (s t : State) (d q : Nat) (x : XQueue) : Prop :=
  (t.hw.die d).queue q = x ∧ (∀ r, r ≠ q → (t.hw.die d).queue r = (s.hw.die d).queue r) ∧
  t.hw.die d = { s.hw.die d with queues := (t.hw.die d).queues } ∧ ∀ e, e ≠ d → t.hw.die e = s.hw.die e

/-- `t` is `s` after a command is accepted at queue q of die `exe`: it waits behind what was accepted before it, among the commands
of its tick in the order of their requesters (R350), with the accesses and the stores that fences and barrier releases order before it, and control falls
through the group; memory, the pending writes and the rest stay. -/
def Sys2Proof.Claims.Enqueued (s t : State) (exe q : Nat) (op : XOp) (d a b : W64) (desc : BitVec 256) : Prop :=
  let h := s.hw
  t.mem = s.mem ∧ t.hw = { h with strands := t.hw.strands, dies := t.hw.dies, fresh := h.fresh + 1 } ∧
  t.hw.st = h.st.fallThrough ∧ (∀ k, k ≠ h.cur → t.hw.strand k = h.strand k) ∧
  ∃ (c : XCmd) (l r : List XCmd), ((h.die exe).queue q).cmds = l ++ r ∧
    QueueIs s t exe q { (h.die exe).queue q with cmds := l ++ c :: r } ∧
    (∀ x ∈ l, ¬ (x.issued = h.wtick ∧ x.strand ≠ walkerKey ∧ h.cur < x.strand)) ∧
    (∀ x, r.head? = some x → x.issued = h.wtick ∧ x.strand ≠ walkerKey ∧ h.cur < x.strand) ∧ c.afterSeq = h.st.fencedSeq ∧ c.afterAcq = h.st.acqSeq ∧
    c.id = h.fresh ∧ c.strand = h.cur ∧ c.op = op ∧ c.d = d ∧ c.a = a ∧ c.b = b ∧ c.desc = desc ∧ c.pre = 0 ∧ c.issued = h.wtick ∧
    c.started = false ∧ ∀ id, id ∈ c.after ↔ id ∈ h.st.fencedW ∨ id ∈ h.st.fencedR

/-- A command of an operation other than a collective that every check of R187, R301-R304 and R319 passes. -/
def Sys2Proof.Claims.mayEnqueue (h : Hw) (exe q : Nat) (op : XOp) (d a b : W64) : Prop :=
  xIsColl op = false ∧ h.xTarget h.enqueuer exe q op = true ∧ storesWeights op d = false ∧ h.xCheck h.enqueuer exe q op d a b = true ∧
  classFault h.enqueuer exe op d a b = false ∧ ¬ (h.strict = true ∧ isTimedCopy exe op d a b = true)

/-- A collective that every check of R301, R304 and R313 passes, with its descriptor of 32 bytes at xb in the strand's
scratchpad. -/
def Sys2Proof.Claims.mayCollect (s : State) (exe q : Nat) (op : XOp) (d a b : W64) (desc : BitVec 256) : Prop :=
  let h := s.hw
  xIsColl op = true ∧ h.xTarget h.enqueuer exe q op = true ∧ storesWeights op d = false ∧ hasSpad h.cur = true ∧ b.toNat % 32 = 0 ∧ b.toNat + 32 ≤ 0x200000 ∧
  desc.toNat = spadNat s b.toNat 32 ∧ h.collCheck h.enqueuer exe op d a desc = true ∧ h.badAt (spadKey (coreOf h.cur) b.toNat) 32 = false

/-- R187, R300-R304, R313: `enq` to the queue that xa names, and the X words of a die sequencer to its own die (view operations of
a SW die to queue 8, all else to queue 0). A command that passes its checks enters a queue with room; at a full queue the
strand of a queued kernel waits for room; a target that cannot take it is an access fault, as a destination in a weight store is
(R86), and a collective that a die sequencer issues itself: it has no team group (R304). -/
def Sys2Proof.Claims.EngineCommands : Prop :=
  ∀ (s : State) (d a b e : XReg),
    let h := s.hw
    let x := h.rx d
    let y := h.rx a
    let z := h.rx b
    let enters := fun (i : Instr) (exe q : Nat) (op : XOp) (vd va vb : W64) =>
      (∀ desc, (mayEnqueue h exe q op vd va vb ∧ desc = 0 ∨ mayCollect s exe q op vd va vb desc) →
        (h.queueIsFull exe q = false → ∃ t, exec i s = .next t ∧ Enqueued s t exe q op vd va vb desc) ∧
        (h.queueIsFull exe q = true → h.strict = false → Does s i (waits s (.space h.wtick (exe * 16 + q))) [])) ∧
      (h.xTarget h.enqueuer exe q op = false ∨ storesWeights op vd = true → h.st.mode = .kernel → Traps s i { cause := 0x06 })
    let own := slotOf h.cur
    let view := if isSw own then 8 else 0
    (∀ op : XOp, enters (.enq e { op := op, d := d, a := a, b := b }) ((h.rx e).toNat % 64) ((h.rx e).toNat / 256 % 16) op x y z) ∧
    enters (.copy d a b) own 0 .copy x y z ∧ enters (.copyc d a b) own 0 .copyc x y z ∧ enters (.csum d a b) own 0 .csum x y z ∧
    enters (.fill d a b) own 0 .fill x y z ∧ enters (.publish d a b) own 0 .publish x y z ∧
    enters (.prefetch a b) own 0 .prefetch 0 y z ∧ enters (.migr d a b) own 0 .migr x y z ∧
    enters (.cred d a b) own 0 .cred x y z ∧ enters (.crs d a b) own 0 .crs x y z ∧ enters (.cag d a b) own 0 .cag x y z ∧
    enters (.cbc d a b) own 0 .cbc x y z ∧ enters (.ca2a d a b) own 0 .ca2a x y z ∧
    enters (.viewRd d a b) own view .viewRd x y z ∧ enters (.viewAck a b) own view .viewAck 0 y z ∧
    enters (.viewJoin a b) own view .viewJoin 0 y z ∧ enters (.viewAdm d a b) own view .viewAdm x y z ∧
    enters (.xstat d a b) own 0 .xstat x y z ∧
    -- a die sequencer is in no group: the collectives are access faults there
    (isSeq h.cur = true → h.st.mode = .kernel → ∀ i ∈ [Instr.cred d a b, .crs d a b, .cag d a b, .cbc d a b, .ca2a d a b],
      Traps s i { cause := 0x06 })

/-- R99: an arrival of `n` bytes at a sync word without a word in error. With a TARGET, COUNT grows by n and GEN advances once for
every TARGET bytes; more than one TARGET at once is the overshoot status; with TARGET 0 it is a stray arrival. An arrival in
error is remembered, with the code of the first. Nothing else changes. -/
def Sys2Proof.Claims.SyncWordArrivals : Prop :=
  ∀ (s : State) (core off n code : Nat) (err : Bool), Memory.wf s.mem = true → s.hw.badAt (spadKey core off) 16 = false →
    let at_ := fun (t : State) (o n : Nat) => Memory.readNat t.mem (spadKey core off + o) n
    let target := at_ s 12 4
    let count := at_ s 8 4 + n
    ∃ t, exec (.syncWordArrival core off n err code) s = .next t ∧
      Stored s t (spadKey core off) (Memory.readBytes t.mem (spadKey core off) 16) ∧
      at_ t 12 4 = target ∧
      (target = 0 → at_ t 8 4 = at_ s 8 4 ∧ at_ t 4 4 = at_ s 4 4 ∧ at_ t 0 1 / 4 % 2 = 1 ∧
        at_ t 0 1 / 2 % 2 = at_ s 0 1 / 2 % 2) ∧
      (target ≠ 0 → at_ t 8 4 = count % target ∧ at_ t 4 4 = (at_ s 4 4 + count / target) % 2 ^ 32 ∧
        at_ t 0 1 / 4 % 2 = at_ s 0 1 / 4 % 2 ∧
        at_ t 0 1 / 2 % 2 = if target < count then 1 else at_ s 0 1 / 2 % 2) ∧
      at_ t 0 1 % 2 = (if err then 1 else at_ s 0 1 % 2) ∧
      at_ t 2 2 = if err = true ∧ at_ s 0 1 % 2 = 0 then code % 65536 else at_ s 2 2

/-- R99, R118, R287, R298, R305, R318: the first command of a queue that is ready starts: it begins to move its data at a later tick,
or, where it moves none, ends at one. When it ends, its effect takes place, it leaves its queue and the queue's counters move. A
publish is given a flip tick after every earlier flip of its partition, and at that tick every die of it flips the pair bits of the
entries; the command ends a tick later. The time that a command takes is a free value (notes/assumptions/16.md). -/
def Sys2Proof.Claims.EngineEvents : Prop :=
  ∀ (s : State) (slot q : Nat), slot < 48 →
    let h := s.hw
    let queue := (h.die slot).queue q
    let later := fun (t : State) => ∃ w, h.wtick < w ∧ t.hw.flight = h.flight ++ [(w, .engineCommandComplete slot q)]
    let x := Config.slotType slot = .sw ∨ Config.slotType slot = .fb ∨ (Config.slotType slot = .nb ∧ q ≠ 15)
    -- a command of an X queue starts
    (∀ c rest, x → queue.cmds = c :: rest → h.engineReady slot q = true →
      (c.op = .csum ∨ c.op = .xstat ∨ c.op = .publish ∨ ((c.op = .copy ∨ c.op = .fill) ∧ (tcwOf c.op c.b).len ≠ 0) →
        ∃ t m, exec (.engineCommandStart slot q) s = .next t ∧ t.mem = s.mem ∧ t.hw.strands = h.strands ∧ t.hw.pend = h.pend ∧
          t.hw.flight = h.flight ∧ h.wtick < m.ready ∧ m.begun = false ∧ m.next = 0 ∧ m.fault = none ∧
          QueueIs s t slot q { queue with cmds := { c with started := true, move := some m } :: rest }) ∧
      ((c.op = .copy ∨ c.op = .fill) ∧ (tcwOf c.op c.b).len = 0 →
        ∃ t, exec (.engineCommandStart slot q) s = .next t ∧ t.mem = s.mem ∧ t.hw.strands = h.strands ∧
          QueueIs s t slot q { queue with cmds := { c with started := true } :: rest } ∧
          t.hw.agenda = h.agenda ++ [.engineCommandComplete slot q]) ∧
      (c.op = .prefetch ∨ c.op = .migr ∨ c.op = .viewAck ∨ c.op = .viewAdm →
        ∃ t, exec (.engineCommandStart slot q) s = .next t ∧ t.mem = s.mem ∧ t.hw.strands = h.strands ∧ t.hw.pend = h.pend ∧
          QueueIs s t slot q { queue with cmds := { c with started := true } :: rest } ∧ later t) ∧
      (xIsColl c.op = true → (c.pre ≠ 0 ∨ (collDesc c.desc).tstart ≤ h.ftime) →
        ∃ t, exec (.engineCommandStart slot q) s = .next t ∧ t.mem = s.mem ∧ t.hw.strands = h.strands ∧
          QueueIs s t slot q { queue with cmds := { c with started := true, waiting := true } :: rest } ∧
          t.hw.agenda = h.agenda ++ [.collectiveStart slot q])) ∧
    (x → h.engineReady slot q = false → exec (.engineCommandStart slot q) s = .next s) ∧
    -- a command of an embedding engine, and a product of a base die, start
    (∀ core c, Config.slotType slot = .gs → h.engineReady slot q = true → h.embHead slot q = some (core, c) →
      ∃ t m, exec (.engineCommandStart slot q) s = .next t ∧ t.mem = s.mem ∧ t.hw.dies = h.dies ∧ h.wtick < m.ready ∧
        (∀ k, k ≠ core → t.hw.core k = h.core k) ∧
        t.hw.core core = { h.core core with
          eq := (h.core core).eq.map fun y => if y.id = c.id then { y with started := true, move := some m } else y }) ∧
    (∀ g rest, Config.slotType slot = .nb → q = 15 → (h.die slot).gemv = g :: rest → h.engineReady slot q = true →
      ∃ t m, exec (.engineCommandStart slot q) s = .next t ∧ t.mem = s.mem ∧ t.hw.cores = h.cores ∧ h.wtick < m.ready ∧
        (∀ e, e ≠ slot → t.hw.die e = h.die e) ∧
        t.hw.die slot = { h.die slot with gemv := { g with started := true, move := some m } :: rest }) ∧
    -- they end
    (∀ c rest r, x → queue.cmds = c :: rest → c.started = true → xIsColl c.op = false → (∀ m, c.move = some m → m.closing = true) →
      s.xEffect slot q c = some r →
      ∃ t, exec (.engineCommandComplete slot q) s = .next t ∧ t.mem = r.1.mem ∧ t.hw.strands = r.1.hw.strands ∧
        (t.hw.die slot).queue q =
          ({ (r.1.hw.die slot).queue q with
            cmds := ((r.1.hw.die slot).queue q).cmds.tail, ndone := ((r.1.hw.die slot).queue q).ndone + 1
            nerr := ((r.1.hw.die slot).queue q).nerr + (if r.2.isSome then 1 else 0)
            lcode := match r.2 with
              | some f => BitVec.ofNat 16 f.code
              | none => ((r.1.hw.die slot).queue q).lcode } : XQueue)) ∧
    (∀ core c, Config.slotType slot = .gs → h.embRunning slot q = some (core, c) →
      let m := c.move.getD {}
      ∃ t, exec (.engineCommandComplete slot q) s = .next t ∧ t.mem = s.mem ∧ t.hw.strands = h.strands ∧
        (∀ k, k ≠ core → t.hw.core k = h.core k) ∧
        t.hw.core core = { h.core core with
          eq := (h.core core).eq.filter (fun y => y.id != c.id), eexc := (h.core core).eexc ||| m.flags.setWidth 5
          eoor := min ((h.core core).eoor + m.idx.countP fun i => decide (c.table.nr ≤ i)) 0xFFFF }) ∧
    (∀ g rest, Config.slotType slot = .nb → q = 15 → (h.die slot).gemv = g :: rest → g.started = true →
      ∃ t, exec (.engineCommandComplete slot q) s = .next t ∧ t.mem = s.mem ∧ t.hw.strands = h.strands ∧
        (t.hw.die slot).gemv = rest) ∧
    -- a publish: its request and its flip
    (∀ (p : Nat) (vas : List Nat), p < 8 →
      (∃ t b, exec (.publishRequest p slot q vas) s = .next t ∧ t.mem = s.mem ∧ h.wtick < b ∧ (h.part p).lastFlip < b ∧
        t.hw = { h with parts := t.hw.parts, fresh := h.fresh + 1, flight := h.flight ++ [(b, .publishFlip p slot q vas)] } ∧
        t.hw.part p = { h.part p with lastFlip := b } ∧ ∀ j, j < 8 → j ≠ p → t.hw.part j = h.part j) ∧
      ∃ t, exec (.publishFlip p slot q vas) s = .next t ∧ t.mem = s.mem ∧
        t.hw = { h with dies := t.hw.dies, flight := h.flight ++ [(h.wtick + 1, .engineCommandComplete slot q)] } ∧
        ∀ d, t.hw.die d = if d ∈ h.diesOf p then (h.die d).flip vas else h.die d)

/-- R99, R118, R287, R298, R305, R318: arrivals at sync words, and the engines' events. -/
def Obligations.SyncWordsAndEngines : Prop := SyncWordArrivals ∧ EngineEvents

/-- R271, R275, R285, R314: when a collective starts, its engine has nothing more to read for a collective in error, one whose result
comes from a survivor, or one of a rank that is LOST: it counts as sent. A group that is held keeps it, and one that has sent sends
nothing again. A rank without an input sends nothing. Otherwise the engine begins to read its input piece by piece: in the tick of a TSTART
at once, its pieces setting out without delay (R285), at any other time at a later tick. An input that has been read, and not written
since the issue (R120), counts as this rank's own contribution, and sends every other rank its slice; one that cannot be read is the
collective's error. -/
def Sys2Proof.Claims.CollectiveStarts : Prop :=
  ∀ (s : State) (slot q : Nat) (c : XCmd) (rest : List XCmd) (f : FabGroup) (k : Coll), slot < 48 → c.part < 8 →
    let h := s.hw
    let g := (collDesc c.desc).grp
    let queue := (h.die slot).queue q
    queue.cmds = c :: rest → xIsColl c.op = true → c.started = true → h.fab? c.part g = some f →
    f.colls.find? (fun x => x.seq == c.seq) = some k →
      let quiet := k.err ≠ 0 ∨ f.taken c.seq = true ∨ f.agent = .lost
      let idle := f.holds c.seq = true ∨ k.sent = true
      let reads := k.op ≠ .cbc ∨ f.self = k.d.root
      let now := k.timed = true ∧ h.ftime.toNat < (collDesc c.desc).tstart.toNat + 512
      let becomes := fun (t : State) (u : Coll → Coll) => t.mem = s.mem ∧ t.hw.strands = h.strands ∧ t.hw.cores = h.cores ∧
        t.hw.pend = h.pend ∧ t.hw.dies = h.dies ∧ t.hw.fab? c.part g = some (f.updColl c.seq u)
      (quiet → ∃ t, exec (.collectiveStart slot q) s = .next t ∧ becomes t fun x => { x with sent := true }) ∧
      (¬ quiet → idle → exec (.collectiveStart slot q) s = .next s) ∧
      (¬ quiet → ¬ idle → ¬ reads → ∃ t, exec (.collectiveStart slot q) s = .next t ∧
        becomes t fun x => { x with sent := true, got := x.got.filter fun y => y.1 != f.self }) ∧
      (¬ quiet → ¬ idle → reads → c.move = none → (∀ y ∈ rest, y.id ≠ c.id) →
        ∃ t m, exec (.collectiveStart slot q) s = .next t ∧ t.mem = s.mem ∧ t.hw.parts = h.parts ∧ t.hw.transit = h.transit ∧
          QueueIs s t slot q { queue with cmds := { c with move := some m } :: rest } ∧ m.next = 0 ∧ m.begun = false ∧
          (now → m.ready = h.wtick ∧ m.prompt = true) ∧ (¬ now → h.wtick < m.ready ∧ m.prompt = false)) ∧
      (∀ bs, reads → k.dirty = false →
        let t := h.collSend c.part g c.seq bs
        t.strands = h.strands ∧ t.cores = h.cores ∧ t.pend = h.pend ∧ t.dies = h.dies ∧
          t.fab? c.part g = some (f.updColl c.seq fun x =>
            { x with sent := true, got := (f.self, f.slice k bs f.self) :: x.got.filter fun y => y.1 != f.self }) ∧
          ((∀ r ∈ f.targets k, r = f.self) → t = { h with parts := t.parts, fresh := h.fresh + 1 })) ∧
      ∀ code key, (h.collFail c.part g c.seq code key).fab? c.part g =
        some (f.updColl c.seq fun x => { x with sent := true, err := if x.err = 0 then code else x.err, errKey := key })

/-- R187, R271, R300-R304, R313, R314: commands to the engines, and collectives that start. -/
def Obligations.EngineCommandsAndCollectives : Prop := EngineCommands ∧ CollectiveStarts

/-! ### Class V: transfers (R201-R203) -/

/-- The effective address of a transfer: xa plus DISP units of 64 bytes (R201). -/
def Sys2Proof.Claims.vecAddr (h : Hw) (a : XReg) (disp : BitVec 20) : W64 := w64 ((h.rx a).toNat + disp.toInt * 64)
/-- A transfer of n bytes that passes its checks: aligned to 64 bytes, inside the scratchpad, with its port free. -/
def Sys2Proof.Claims.mayTransfer (h : Hw) (ea : W64) (n : Nat) : Prop :=
  hasSpad h.cur = true ∧ ea.toNat % 64 = 0 ∧ ea.toNat + n ≤ 0x200000 ∧ h.portBusy = false
/-- Byte j of the strand's scratchpad from an offset. -/
def Sys2Proof.Claims.spadByte (s : State) (off j : Nat) : Nat := (Memory.read s.mem (spadKey (coreOf s.hw.cur) off + j)).toNat

/-- R82, R201-R203: register transfers. `vld` samples 256 bytes a row and writes KiB q of them q + 3 ticks later, with the tag at
the first; `vst` writes its first KiB three ticks later and reads KiB q of its register q ticks later; mask and byte registers
move whole. The port is taken for one tick a KiB. A global transfer of 4,096 bytes is an untimed access. -/
def Obligations.VectorTransfers : Prop :=
  ∀ (s : State) (v : VRegNo) (k : KRegNo) (c : BRegNo) (a : XReg) (t : Tag) (disp : BitVec 20) (d24 : BitVec 24) (tok : BitVec 3)
      (nr : BitVec 4),
    let h := s.hw
    let ea := vecAddr h a disp
    let n := nr.toNat + 1
    let q := (n + 3) / 4
    let va := w64 ((h.rx a).toNat + d24.toInt)
    let tk : Fin 8 := ⟨tok.toNat, tok.isLt⟩
    let core := coreOf h.cur
    let port := clusterOf h.cur
    let bytes := fun (data : Nat → Byte) (o m : Nat) => (List.range m).map fun i => data (o + i)
    let reg := fun (j : Nat) => BitVec.ofNat 8 (elemAt (h.vreg v).data 8 j)
    let global := fun (need : Need) (ps : List (Place × Nat)) =>
      (h.die (slotOf h.cur)).pieces va.toNat 4096 need false = .ok ps ∧ va.toNat % 64 = 0 ∧ h.gpathBusy = false ∧
        (h.st.token h.st.sup tk).pend < 63
    (mayTransfer h ea (256 * n) → clean h ea.toNat (256 * n) →
      ∃ (data : BitVec 32768) (slots : Nat → BitVec 1024),
        (∀ j, j < 256 * n → elemAt data 8 j = spadByte s ea.toNat j) ∧
        (∀ i m, i < q → m < 1024 → ((slots i).getLsbD m = true ↔ 256 * i ≤ m ∧ m < 256 * (i + 1) ∧ m < 64 * n)) ∧
        Does s (.vld v a t disp nr) (h.takePort q).st.fallThrough
          ((List.range q).map fun i => (i + 3, .v h.cur v data (slots i) (if i = 0 then some t else none)))) ∧
    (mayTransfer h ea (256 * n) →
      Does s (.vst v a disp nr) (h.takePort q).st.fallThrough
        ((List.range q).map fun i =>
          if i = 0 then (3, .store core port ea.toNat (bytes reg 0 (256 * min 4 n)))
          else (i, .vstRead h.cur v i core port (ea.toNat + 1024 * i) (256 * min 4 (n - 4 * i))))) ∧
    (mayTransfer h ea 128 → clean h ea.toNat 128 →
      ∃ x : BitVec 1024, x.toNat = spadNat s ea.toNat 128 ∧
        Does s (.kld k a disp) (h.takePort 1).st.fallThrough [(3, .k h.cur k x)]) ∧
    (mayTransfer h ea 128 →
      Does s (.kst k a disp) (h.takePort 1).st.fallThrough
        [(3, .store core port ea.toNat (bytes (fun j => BitVec.ofNat 8 ((h.kreg k).toNat / 256 ^ j)) 0 128))]) ∧
    (mayTransfer h ea 1024 → clean h ea.toNat 1024 →
      ∃ x : BitVec 8192, x.toNat = spadNat s ea.toNat 1024 ∧
        Does s (.bld c a disp) (h.takePort 1).st.fallThrough [(3, .b h.cur c x (BitVec.allOnes 1024))]) ∧
    (mayTransfer h ea 1024 →
      Does s (.bst c a disp) (h.takePort 1).st.fallThrough
        [(3, .store core port ea.toNat (bytes (fun j => BitVec.ofNat 8 ((h.breg c).toNat / 256 ^ j)) 0 1024))]) ∧
    (∀ ps, global .read ps →
      ∃ u, exec (.vldg v a t d24 tok) s = .next u ∧ InFlight s u tk (.vload v t) va 4096 ps fun g => g.takeGpath 1) ∧
    (∀ ps, global .write ps →
      ∃ u, exec (.vstg v a d24 tok) s = .next u ∧ InFlight s u tk (.store (bytes reg 0 4096)) va 4096 ps fun g => g.takeGpath 4)

/-! ### Class V: moves, bits and shape (R204, R205, R210, R227, R229-R232) -/

/-- The strand after a vector group that takes the vector unit for `occ` ticks. -/
def Sys2Proof.Claims.afterVec (h : Hw) (occ : Nat) : Strand := (h.takeVec occ).st.fallThrough

/-- The group writes vd under a tag, `lat` ticks later: element n of w bits holds `val n`, in the slots that the mask lets; both
slots of a 64-bit element follow the mask bit of the low one (R63, R196). It raises the flags of its unmasked elements (R68). -/
def Sys2Proof.Claims.VecDoes (s : State) (i : Instr) (st : Strand) (d : VRegNo) (w : Nat) (mask : BitVec 1024) (tag : Tag) (lat : Nat)
    (r : Nat → Nat × FlagBits) : Prop :=
  ∃ (data : BitVec 32768) (slots : BitVec 1024) (fl : BitVec 6),
    (∀ n, n < 32768 / w → elemAt data w n = (r n).1 % 2 ^ w) ∧
    (∀ n, n < 1024 → slots.getLsbD n = mask.getLsbD (if w = 64 then n / 2 * 2 else n)) ∧
    (∀ j, fl.getLsbD j = true ↔ ∃ n, n < 32768 / w ∧ mask.getLsbD (w * n / 32) = true ∧ (r n).2.getLsbD j = true) ∧
    Does s i st ([(lat, .v s.hw.cur d data slots (some tag))] ++ flagWrite s.hw fl lat)

/-- The same without flags. -/
def Sys2Proof.Claims.VecMoves (s : State) (i : Instr) (d : VRegNo) (w : Nat) (mask : BitVec 1024) (tag : Tag) (lat : Nat)
    (val : Nat → Nat) : Prop :=
  VecDoes s i (afterVec s.hw 4) d w mask tag lat fun n => (val n, 0)

/-- The mask in effect (R196). -/
def Sys2Proof.Claims.maskOf (h : Hw) (c : Option KRegNo) : BitVec 1024 := match c with | some k => h.kreg k | none => BitVec.allOnes 1024
/-- How many of a mask's bits below n are set. -/
def Sys2Proof.Claims.rankIn (k : BitVec 1024) (n : Nat) : Nat := (List.range n).countP fun j => k.getLsbD j

/-- R204, R205, R210, R227: moves, element access, bitwise operations, shifts, mask operations and axis moves, with the units
they use free. -/
def Sys2Proof.Claims.VectorMoves : Prop :=
  ∀ (s : State) (d a b : VRegNo) (c : Option KRegNo) (x y : XReg) (t : Tag) (kd ka kb : KRegNo) (n8 : BitVec 8),
    let h := s.hw
    let va := h.vreg a
    let w := elemWidth va.tag
    let ea := fun n => va.elem n
    let eb := fun n => elemAt (h.vreg b).data w n
    let m := maskOf h c
    let all := BitVec.allOnes 1024
    let wide := va.tag = tF64 ∨ va.tag = tI64
    let sgn := fun (v : Nat) => if 2 ^ (w - 1) ≤ v then (v : Int) - 2 ^ w else (v : Int)
    let unary := fun (i : Instr) (val : Nat → Nat) => VecMoves s i d w m va.tag 2 val
    let moves := fun (i : Instr) (lat : Nat) (src : Nat → Nat) => VecMoves s i d 32 all va.tag lat fun n => va.slot (src n)
    (h.vecBusy = false →
      unary (.vmov d a c) ea ∧
      unary (.vand d a b c) (fun n => ea n &&& eb n) ∧ unary (.vor d a b c) (fun n => ea n ||| eb n) ∧
      unary (.vxor d a b c) (fun n => ea n ^^^ eb n) ∧ unary (.vnot d a c) (fun n => 2 ^ w - 1 - ea n) ∧
      (va.tag = (h.vreg b).tag → VecMoves s (.vsel d a b c) d 32 all va.tag 2 fun n =>
        if m.getLsbD n then va.slot n else (h.vreg b).slot n) ∧
      VecMoves s (.vsplat d x t) d (elemWidth t) all t 2 (fun _ => (h.rx x).toNat) ∧
      (va.tag = (h.vreg b).tag → (isIntTag va.tag = true ∨ va.tag = tNONE) →
        unary (.vsll d a b c) (fun n => ea n * 2 ^ (eb n % w)) ∧ unary (.vsrl d a b c) (fun n => ea n / 2 ^ (eb n % w)) ∧
        unary (.vsra d a b c) (fun n => (sgn (ea n) / 2 ^ (eb n % w) % 2 ^ w).toNat)) ∧
      moves (.vrotr d a n8) 2 (fun n => n / 64 * 64 + (n % 64 + (if wide then 2 else 1) * n8.toNat) % 64) ∧
      moves (.vbcr d a n8) 2 (fun n => n / 64 * 64 + if wide then 2 * (n8.toNat % 32) + n % 2 else n8.toNat) ∧
      moves (.vrotc d a n8) 4 (fun n => (n / 64 + n8.toNat) % 16 * 64 + n % 64) ∧
      moves (.vbcc d a n8) 3 (fun n => n8.toNat * 64 + n % 64) ∧
      -- vins and vext: element xb mod 512 of a 64-bit tag, slot xb mod 1024 of any other
      let wa := if wide then 64 else 32
      let e := (h.rx y).toNat % (32768 / wa)
      (∃ (data : BitVec 32768) (slots : BitVec 1024),
        elemAt data wa e = (h.rx x).toNat % 2 ^ wa ∧ (∀ n, n < 1024 → (slots.getLsbD n = true ↔ n * 32 / wa = e)) ∧
        Does s (.vins a x y) (afterVec h 1) [(2, .v h.cur a data slots none)]) ∧
      Does s (.vext a x y) (afterVec h 1) (xWrite h x (BitVec.ofNat 64 (elemAt va.data wa e)) 2)) ∧
    (h.maskBusy = false →
      let st := h.takeMask.st.fallThrough
      let lands := fun (i : Instr) (v : BitVec 1024) => Does s i st [(1, .k h.cur kd v)]
      lands (.kand kd ka kb) (h.kreg ka &&& h.kreg kb) ∧ lands (.kor kd ka kb) (h.kreg ka ||| h.kreg kb) ∧
      lands (.kxor kd ka kb) (h.kreg ka ^^^ h.kreg kb) ∧ lands (.knot kd ka) (~~~ h.kreg ka) ∧
      Does s (.kpop ka x) st (xWrite h x (BitVec.ofNat 64 (rankIn (h.kreg ka) 1024)) 2) ∧
      ∃ n, Does s (.kffs ka x) st (xWrite h x (BitVec.ofNat 64 n) 2) ∧ n ≤ 1024 ∧
        (∀ j, j < n → (h.kreg ka).getLsbD j = false) ∧ (n < 1024 → (h.kreg ka).getLsbD n = true))

/-- R229-R232: table permute, partition, gather, scatter, compress and expand, with the vector unit free. -/
def Sys2Proof.Claims.VectorShape : Prop :=
  ∀ (s : State) (d a b : VRegNo) (c : Option KRegNo) (x y : XReg) (k : KRegNo) (nm : BitVec 3) (half : Bool) (f : BitVec 4),
    let h := s.hw
    let va := h.vreg a
    let vb := h.vreg b
    let all := BitVec.allOnes 1024
    let hf := if half then 1 else 0
    let fillOf := fun (w : Nat) => (List.range (w / 4)).foldl (fun v _ => v * 16 + f.toNat) 0
    let idx := fun (e : Nat) => elemAt vb.data 16 (1024 * hf + e)
    h.vecBusy = false →
      -- vtbl: 128 bytes of each row, each chosen by a 16-bit index into a table of n registers
      (vb.tag = tI16 → let n := nm.toNat + 1
        ∃ (data : BitVec 32768) (slots : BitVec 1024),
          (∀ i e, i < 16 → e < 128 →
            let j := elemAt vb.data 16 (128 * i + e)
            elemAt data 8 (256 * i + 128 * hf + e) =
              if j < 256 * n then elemAt (h.vreg (Fin.ofNat 16 (a.val + j / 256))).data 8 (256 * i + j % 256) else f.toNat * 17) ∧
          (∀ m, m < 1024 → (slots.getLsbD m = true ↔ m % 64 / 32 = hf)) ∧
          Does s (.vtbl d a b nm half f) (afterVec h 4) [(4 + (n + 1) / 2, .v h.cur d data slots (some va.tag))]) ∧
      -- vpart: the numbers of the set slots, then those of the clear ones, 0xFFFF after each; and their counts
      (let m := h.kreg k
        let n1 := rankIn m 1024
        ∃ data : BitVec 32768,
          (∀ j, j < 1024 → m.getLsbD j = true → elemAt data 16 (rankIn m j) = j) ∧
          (∀ j, n1 ≤ j → j < 1024 → elemAt data 16 j = 0xFFFF) ∧
          (∀ j, j < 1024 → m.getLsbD j = false → elemAt data 16 (1024 + (j - rankIn m j)) = j) ∧
          (∀ j, 1024 - n1 ≤ j → j < 1024 → elemAt data 16 (1024 + j) = 0xFFFF) ∧
          Does s (.vpart d x y k) (afterVec h 4)
            ([(4, .v h.cur d data all (some tI16))] ++ xWrite h x (BitVec.ofNat 64 n1) 4 ++
              if x = y then [] else xWrite h y (BitVec.ofNat 64 (1024 - n1)) 4)) ∧
      -- vgath and vscat, by a list of 16-bit slot numbers in half of vb
      (vb.tag = tI16 →
        VecMoves s (.vgath d a b half) d 32 all va.tag 5 (fun e => if idx e < 1024 then va.slot (idx e) else 0) ∧
        ∃ (data : BitVec 32768) (slots : BitVec 1024),
          (∀ n, n < 1024 → (slots.getLsbD n = true ↔ ∃ e, e < 1024 ∧ idx e = n)) ∧
          (∀ e, e < 1024 → idx e < 1024 → (∀ e', e < e' → e' < 1024 → idx e' ≠ idx e) → elemAt data 32 (idx e) = va.slot e) ∧
          Does s (.vscat d a b half) (afterVec h 4) [(5, .v h.cur d data slots (some va.tag))]) ∧
      -- vcomp and vexpd: the selected units packed, or spread; the fill pattern elsewhere
      (let w := if va.tag = tF64 ∨ va.tag = tI64 then 64 else 32
        let u := 32768 / w
        let on := fun (n : Nat) => (maskOf h c).getLsbD (w * n / 32)
        let rank := fun (n : Nat) => (List.range n).countP on
        (∃ data : BitVec 32768,
          (∀ n, n < u → on n = true → elemAt data w (rank n) = elemAt va.data w n) ∧
          (∀ j, rank u ≤ j → j < u → elemAt data w j = fillOf w) ∧
          Does s (.vcomp d a f c) (afterVec h 4) [(5, .v h.cur d data all (some va.tag))]) ∧
        VecMoves s (.vexpd d a f c) d w all va.tag 5 (fun n => if on n then elemAt va.data w (rank n) else fillOf w))

/-- R204, R205, R210, R227-R232: vector moves and shapes. -/
def Obligations.VectorMovesAndShape : Prop := VectorMoves ∧ VectorShape

/-! ### Class V: arithmetic (R206-R209, R228) -/

/-- The exact integer result v delivered to w bits under SAT (R67): what it becomes, and whether SAT changed it. -/
def Sys2Proof.Claims.satTo (sat : BitVec 3) (w : Nat) (v : Int) : Nat × FlagBits :=
  let clamp := fun (lo hi : Int) => max lo (min hi v)
  let r := if sat = 1 then clamp (-2 ^ (w - 1)) (2 ^ (w - 1) - 1) else if sat = 2 then clamp 0 (2 ^ (w - 1) - 1)
    else if sat = 3 then clamp 0 1 else if sat = 4 then clamp (-1) 1 else v
  ((r % 2 ^ w).toNat, if r = v then 0 else fSAT)
/-- The SAT field in effect. -/
def Sys2Proof.Claims.satOf (p : Option Prefix) : BitVec 3 := match p with | some q => q.sat | none => 0

/-- Draw n of the stochastic rounding of a group that makes `k` draws (R66). -/
def Sys2Proof.Claims.drawOf (h : Hw) (m : Mods) (k n : Nat) : Nat := ((drawsIf m k h.st.srseed.toNat).1).getD n 0
/-- The strand after a vector group that also makes its draws. -/
def Sys2Proof.Claims.afterDraws (h : Hw) (m : Mods) (k occ : Nat) : Strand :=
  ({ (h.takeVec occ).st with srseed := BitVec.ofNat 32 (drawsIf m k h.st.srseed.toNat).2 } : Strand).fallThrough

/-- R409: a main result diverges from a shadow whose terms have `top` as their largest exponent: it is normal, no more than two below
`top`, and the shadow differs from it in sign, by more than one in exponent, or, of equal exponents, by more than one in the top four
fraction bits. -/
def Sys2Proof.Claims.diverged (f : FloatFmt) (main : Nat) (shadow : FVal) (top : Int) : Prop :=
  ∃ s e fr, (f.unpack main).parts = some (s, e, fr) ∧ 1 - (f.bias : Int) ≤ e ∧ top ≤ e + 2 ∧
    ¬ ∃ s' e' fr', shadow.parts = some (s', e', fr') ∧ s = s' ∧ (e - e').natAbs ≤ 1 ∧
      (e = e' → ((fr : Int) - (fr' : Int)).natAbs ≤ 1)

/-- R197, R200, R206-R209, R409: floating-point and integer arithmetic and compares on registers of one accepted tag, with the vector
unit free. A floating-point result is the exact one, once modified, rounded and saturated. Where an upset flips bits of an unmasked
slot of a sum, difference, product or fused multiply-add of 32- or 16-bit elements, and the shadow of one of the slot's elements
diverges from it, neither the result nor its flags land, and the lining trap is due at the landing tick; where none diverges, the
flipped elements land. -/
def Sys2Proof.Claims.VectorArithmetic : Prop :=
  ∀ (s : State) (d a b : VRegNo) (c : Option KRegNo) (p : Option Prefix) (k : KRegNo),
    let h := s.hw
    let tag := (h.vreg a).tag
    let w := elemWidth tag
    let n64 := decide (w = 64)
    let mask := maskOf h c
    let same := tag = (h.vreg b).tag
    let same3 := same ∧ tag = (h.vreg d).tag
    let fp := isFpTag tag = true
    let int := isIntTag tag = true
    let m := h.mods p
    let f := (fmtOf tag).getD b32
    let fa := fun n => f.unpack ((h.vreg a).elem n)
    let fb := fun n => f.unpack ((h.vreg b).elem n)
    let fd := fun n => f.unpack ((h.vreg d).elem n)
    let sgn := fun (v : Nat) => if 2 ^ (w - 1) ≤ v then (v : Int) - 2 ^ w else (v : Int)
    let ia := fun n => sgn ((h.vreg a).elem n)
    let ib := fun n => sgn ((h.vreg b).elem n)
    let id_ := fun n => sgn ((h.vreg d).elem n)
    let ua := fun n => (h.vreg a).elem n
    let ub := fun n => (h.vreg b).elem n
    let lanes := fun (i : Instr) (slow : Bool) (x : Nat → Exact) =>
      VecDoes s i (afterDraws h m (32768 / w) (if slow then (if n64 then 32 else 16) else (if n64 then 8 else 4))) d w mask tag
        (if slow then (if n64 then 40 else 20) else (if n64 then 10 else 4)) fun n =>
          f.finish false m (drawOf h m (32768 / w) n) (x n)
    let ints := fun (i : Instr) (mul : Bool) (x : Nat → Int) =>
      VecDoes s i (afterVec h (if n64 then 8 else 4)) d w mask tag (if n64 then 6 else if mul then 5 else 4) fun n =>
        satTo (satOf p) w (x n)
    let compares := fun (i : Instr) (of : Int → Prop) (ne quiet : Bool) =>
      ∃ (v : BitVec 1024) (fl : BitVec 6),
        (∀ j, j < 1024 → let n := j * 32 / w
          (v.getLsbD j = true ↔ mask.getLsbD (w * n / 32) = true ∧
            (if fp then (if (fa n).isNan = true ∨ (fb n).isNan = true then ne = true else of (fcmp (fa n) (fb n)))
             else of (if ia n < ib n then -1 else if ia n = ib n then 0 else 1)))) ∧
        (fl = fNV ∨ fl = 0) ∧
        (fl = fNV ↔ fp ∧ ∃ n, n < 32768 / w ∧ mask.getLsbD (w * n / 32) = true ∧
          (if quiet then (fa n).isSnan = true ∨ (fb n).isSnan = true else (fa n).isNan = true ∨ (fb n).isNan = true)) ∧
        Does s i (afterVec h (if n64 then 8 else 4)) ([(3, .k h.cur k v)] ++ flagWrite h fl 3)
    -- the upset of a lined path: the result with its bits flipped, its coarse shadow, and the largest exponent of its terms
    let lined := fun (i : Instr) (x : Nat → Exact) (o : FpOp) => ∀ slot bits, h.st.upset = some (slot, bits) → slot < 1024 →
      mask.getLsbD slot = true →
        let n := 32 / w
        let y := fun e => f.finish false m (drawOf h m (32768 / w) e) (x e)
        let flip := fun e => (y e).1 % 2 ^ w ^^^ (if e / n = slot then bits.toNat / 2 ^ (w * (e % n)) % 2 ^ w else 0)
        let shadow := fun e => shadowOf m (o.coarse (fa e).coarse (fb e).coarse (fd e).coarse)
          (o.terms (fa e).coarse (fb e).coarse (fd e).coarse)
        let bad := ∃ e, e / n = slot ∧ diverged f (flip e) (shadow e).1 (shadow e).2
        (bad → Does s i ({ (h.takeVec 4).st with upset := none } : Strand).fallThrough
          [(4, .lining h.cur h.st.pc (d.val * 1024 + slot) [])]) ∧
        (¬ bad → VecDoes s i
          ({ (h.takeVec 4).st with srseed := BitVec.ofNat 32 (drawsIf m (32768 / w) h.st.srseed.toNat).2, upset := none } : Strand).fallThrough
          d w mask tag 4 fun e => (flip e, (y e).2))
    h.vecBusy = false →
      (fp → n64 = false →
        (same →
          lined (.vadd d a b c p) (fun n => exAdd m.mode (fa n) (fb n)) opAdd ∧
          lined (.vsub d a b c p) (fun n => exAdd m.mode (fa n) (fb n).neg) opSub ∧
          lined (.vmul d a b c p) (fun n => exMul (fa n) (fb n)) opMul) ∧
        (same3 →
          lined (.vfma d a b c p) (fun n => exFma m.mode (fa n) (fb n) (fd n)) opFma ∧
          lined (.vfms d a b c p) (fun n => exFma m.mode (fa n).neg (fb n) (fd n)) opFms)) ∧
      (h.st.upset = none →
      (fp → same →
        lanes (.vadd d a b c p) false (fun n => exAdd m.mode (fa n) (fb n)) ∧
        lanes (.vsub d a b c p) false (fun n => exAdd m.mode (fa n) (fb n).neg) ∧
        lanes (.vmul d a b c p) false (fun n => exMul (fa n) (fb n)) ∧
        lanes (.vmin d a b c p) false (fun n => exMinMax false (fa n) (fb n)) ∧
        lanes (.vmax d a b c p) false (fun n => exMinMax true (fa n) (fb n)) ∧
        lanes (.vdiv d a b c p) true (fun n => exDiv (fa n) (fb n))) ∧
      (fp → same3 →
        lanes (.vfma d a b c p) false (fun n => exFma m.mode (fa n) (fb n) (fd n)) ∧
        lanes (.vfms d a b c p) false (fun n => exFma m.mode (fa n).neg (fb n) (fd n))) ∧
      (fp → lanes (.vsqrt d a c p) true (fun n => exSqrt (fa n)) ∧ lanes (.vrsqrt d a c p) true (fun n => exRsqrt (fa n))) ∧
      (int → same →
        ints (.viadd d a b c p) false (fun n => ia n + ib n) ∧ ints (.visub d a b c p) false (fun n => ia n - ib n) ∧
        ints (.vimul d a b c p) true (fun n => ia n * ib n) ∧
        ints (.vimin d a b c p) false (fun n => min (ia n) (ib n)) ∧ ints (.vimax d a b c p) false (fun n => max (ia n) (ib n)) ∧
        ints (.viminu d a b c p) false (fun n => if ua n ≤ ub n then ia n else ib n) ∧
        ints (.vimaxu d a b c p) false (fun n => if ub n ≤ ua n then ia n else ib n)) ∧
      (int → same3 → ints (.vimad d a b c p) true (fun n => ia n * ib n + id_ n)) ∧
      (int → ints (.viabs d a c p) false (fun n => max (ia n) (-(ia n)))) ∧
      (same → tag = tF32 ∨ tag = tF64 ∨ tag = tI32 ∨ tag = tI64 →
        compares (.vceq k a b c) (fun r => r = 0) false true ∧ compares (.vcne k a b c) (fun r => r ≠ 0) true true ∧
        compares (.vclt k a b c) (fun r => r < 0) false false ∧ compares (.vcle k a b c) (fun r => r ≤ 0) false false ∧
        compares (.vcgt k a b c) (fun r => 0 < r) false false ∧ compares (.vcge k a b c) (fun r => 0 ≤ r) false false))

/-- R62, R197 in kernel mode: an operand whose tag the instruction does not accept, or that differs from the first one's, is a
format fault whose INFO is the number of the first such register; tags are checked before they are compared. -/
def Sys2Proof.Claims.VectorFormatFaults : Prop :=
  ∀ (s : State) (d a b : VRegNo) (c : Option KRegNo) (p : Option Prefix) (k : KRegNo), s.hw.st.mode = .kernel →
    let h := s.hw
    let ta := (h.vreg a).tag
    let tb := (h.vreg b).tag
    let faults := fun (i : Instr) (r : VRegNo) => Traps s i { cause := 0x04, info := r.val }
    let td := (h.vreg d).tag
    -- two operands of one accepted tag; three; and an operand with tags of its own
    let two := fun (ok : Tag → Bool) (is : List Instr) => ∀ i ∈ is,
      (ok ta = false → faults i a) ∧ (ok ta = true → tb ≠ ta → faults i b)
    let three := fun (ok : Tag → Bool) (i : Instr) =>
      (ok ta = false → faults i a) ∧ (ok ta = true → ok tb = false → faults i b) ∧
      (ok ta = true → ok tb = true → ok td = false → faults i d) ∧
      (ok ta = true → ok tb = true → ok td = true → (tb ≠ ta → faults i b) ∧ (tb = ta → td ≠ ta → faults i d))
    let only := fun (ok : Tag → Bool) (t : Tag) (r : VRegNo) (is : List Instr) => ok t = false → ∀ i ∈ is, faults i r
    let log := fun t => decide (t = tL32)
    let param := fun t => decide (t = tI32 ∨ t = tNONE)
    let narrow := fun t => decide (t = tF32 ∨ t = tB16 ∨ t = tH16)
    let num := fun t => isFpTag t || isIntTag t
    two isFpTag [.vadd d a b c p, .vsub d a b c p, .vmul d a b c p, .vmin d a b c p, .vmax d a b c p, .vdiv d a b c p] ∧
    two isIntTag [.viadd d a b c p, .visub d a b c p, .vimul d a b c p, .vimin d a b c p, .vimax d a b c p, .viminu d a b c p,
      .vimaxu d a b c p] ∧
    two (fun t => decide (t = tF32 ∨ t = tI32 ∨ t = tF64 ∨ t = tI64))
      [.vceq k a b c, .vcne k a b c, .vclt k a b c, .vcle k a b c, .vcgt k a b c, .vcge k a b c] ∧
    two (fun t => isIntTag t || decide (t = tNONE)) [.vsll d a b c, .vsrl d a b c, .vsra d a b c] ∧
    two (fun _ => true) [.vsel d a b c] ∧
    three isFpTag (.vfma d a b c p) ∧ three isFpTag (.vfms d a b c p) ∧ three isIntTag (.vimad d a b c p) ∧
    only isFpTag ta a [.vsqrt d a c p, .vrsqrt d a c p] ∧ only isIntTag ta a [.viabs d a c p] ∧
    only num ta a [.vsumr d a c p, .vmaxr d a c p, .vminr d a c p, .vsumc d a c p, .vmaxc d a c p, .vminc d a c p] ∧
    (∀ (t : Tag) (o g : Bool) (hh : BitVec 4),
      only (fun t => num t || decide (t = tE4 ∨ t = tE5)) ta a [.vcvt d a t o g hh p]) ∧
    (∀ half : Bool, only narrow ta a [.vtolns d a half p] ∧
      (∀ t, t = tF32 ∨ t = tB16 ∨ t = tH16 → only log ta a [.vfromlns d a t half p]) ∧
      (∀ (n : BitVec 3) (fill : BitVec 4), only (fun t => decide (t = tI16)) tb b
        [.vgath d a b half, .vscat d a b half, .vtbl d a b n half fill])) ∧
    only log ta a [.vlsqrt d a p, .vlrsqrt d a p, .vlmul d a b p, .vldiv d a b p, .vlpow d a b p] ∧
    (ta = tL32 → only log tb b [.vlmul d a b p, .vldiv d a b p] ∧ only (fun t => decide (t = tF32)) tb b [.vlpow d a b p]) ∧
    ∀ q : BRegNo,
      only narrow ta a [.vqnt d a b q p] ∧ only (fun t => decide (t = tF4)) ta a [.vdqnt d a b q p] ∧
      (narrow ta = true → only param tb b [.vqnt d a b q p]) ∧ (ta = tF4 → only param tb b [.vdqnt d a b q p])

/-- R197, R200, R206-R209: vector arithmetic, and its format faults. -/
def Obligations.VectorArithmeticAndFaults : Prop := VectorArithmetic ∧ VectorFormatFaults

/-- R74, R228: reductions along a row or a column of elements, with the vector unit free: masked elements count as zero, and
every element of the line takes the result. An integer sum is the sum; a maximum is one of the elements and none exceeds it. A
floating-point result is that of the binary tree in binary32 or binary64, finished in the format of the tag. -/
def Obligations.VectorReductions : Prop :=
  ∀ (s : State) (d a : VRegNo) (c : Option KRegNo) (p : Option Prefix), s.hw.vecBusy = false → s.hw.st.upset = none →
    let h := s.hw
    let v := h.vreg a
    let tag := v.tag
    let w := elemWidth tag
    let per := 2048 / w
    let on := fun n => (maskOf h c).getLsbD (w * n / 32)
    let sgn := fun (v : Nat) => if 2 ^ (w - 1) ≤ v then (v : Int) - 2 ^ w else (v : Int)
    let val := fun n => if on n then sgn (v.elem n) else 0
    let all := BitVec.allOnes 1024
    let line := fun (row : Bool) (n : Nat) =>
      if row then (List.range per).map (fun e => n / per * per + e) else (List.range 16).map fun i => i * per + n % per
    let m := h.mods p
    let change := fun (x : Int) =>
      let y := if p.isSome ∧ m.abs = true then max x (-x) else x
      if p.isSome ∧ m.neg = true then -y else y
    let f := (fmtOf tag).getD b32
    let tf := if tag = tF64 then b64 else b32
    let leaf := fun n => if on n then f.cvt tf false .rne 0 (v.elem n) else (0, 0)
    let ints := fun (i : Instr) (row : Bool) (x : Nat → Int) =>
      VecDoes s i (afterVec h 4) d w all tag (if row then 7 else 5) fun n => satTo (satOf p) w (change (x n))
    let most := fun (i : Instr) (row : Bool) (le : Int → Int → Prop) =>
      ∃ x : Nat → Int, (∀ n, n < 32768 / w → (∃ e ∈ line row n, x n = val e) ∧ ∀ e ∈ line row n, le (val e) (x n)) ∧ ints i row x
    let floats := fun (i : Instr) (row : Bool) (r : Red) =>
      VecDoes s i (afterDraws h m (32768 / w) 4) d w all tag (if row then 7 else 5) fun n =>
        let x := redFloat r tf ((line row n).map leaf)
        let y := f.finish false m (drawOf h m (32768 / w) n) { v := tf.unpack x.1 }
        (y.1, y.2 ||| x.2)
    (isIntTag tag = true →
      ints (.vsumr d a c p) true (fun n => ((line true n).map val).sum) ∧ ints (.vsumc d a c p) false (fun n => ((line false n).map val).sum) ∧
      most (.vmaxr d a c p) true (· ≤ ·) ∧ most (.vminr d a c p) true (· ≥ ·) ∧
      most (.vmaxc d a c p) false (· ≤ ·) ∧ most (.vminc d a c p) false (· ≥ ·)) ∧
    (isFpTag tag = true →
      floats (.vsumr d a c p) true .sum ∧ floats (.vmaxr d a c p) true .max ∧ floats (.vminr d a c p) true .min ∧
      floats (.vsumc d a c p) false .sum ∧ floats (.vmaxc d a c p) false .max ∧ floats (.vminc d a c p) false .min)

/-! ### Class V: conversion, quantising, the logarithmic path (R211-R226) -/

/-- R211-R213, R222-R226: conversions between formats and the operations on LNS32 words, on operands of accepted tags, with the
vector unit free and no upset on its lanes. -/
def Obligations.VectorConversions : Prop :=
  ∀ (s : State) (d a b : VRegNo) (t : Tag) (o g half : Bool) (hh : BitVec 4) (p : Option Prefix),
    let h := s.hw
    let va := h.vreg a
    let vb := h.vreg b
    let m := h.mods p
    let all := BitVec.allOnes 1024
    let word := fun (v : VecReg) n => Lns.ofNat (v.slot n)
    let logs := fun (i : Instr) (lat : Nat) (r : Nat → Lns × FlagBits) =>
      VecDoes s i (afterVec h 4) d 32 all tL32 lat fun n => let x := (r n).1.finish m; (x.1, (r n).2 ||| x.2)
    h.vecBusy = false → h.st.upset = none →
      -- vcvt: the elements that the narrower format has a place for, in the part of the row that hh names
      (isCvtTag va.tag = true → isCvtTag t = true → (g = false ∨ isIntTag va.tag = true ∨ isIntTag t = true) →
        let ns := 2048 / elemWidth va.tag
        let nd := 2048 / elemWidth t
        hh.toNat < max ns nd / min ns nd →
          let w := elemWidth t
          let big := elemWidth va.tag = 64 ∨ w = 64
          let n := 16 * min ns nd
          let e := fun i => convElem va.tag t o g m (drawOf h m n i) (va.elem (cvtPlace ns nd hh.toNat i).1)
          ∃ (data : BitVec 32768) (slots : BitVec 1024) (fl : BitVec 6),
            (∀ i, i < n → elemAt data w (cvtPlace ns nd hh.toNat i).2 = (e i).1 % 2 ^ w) ∧
            (∀ j, j < 1024 → (slots.getLsbD j = true ↔ ∃ i, i < n ∧ (cvtPlace ns nd hh.toNat i).2 = j * 32 / w)) ∧
            (∀ j, fl.getLsbD j = true ↔ ∃ i, i < n ∧ (e i).2.getLsbD j = true) ∧
            Does s (.vcvt d a t o g hh p) (afterDraws h m n (if big then 8 else 4))
              ([(if big then 8 else 6, .v h.cur d data slots (some t))] ++ flagWrite h fl (if big then 8 else 6))) ∧
      -- to and from LNS32
      ((va.tag = tF32 ∧ half = false) ∨ va.tag = tB16 ∨ va.tag = tH16 →
        logs (.vtolns d a half p) 6 fun n =>
          toLns (((fmtOf va.tag).getD b32).unpack (va.elem (n / 64 * (2048 / elemWidth va.tag) + (if half then 64 else 0) + n % 64)))) ∧
      (va.tag = tL32 → t = tF32 ∨ t = tB16 ∨ t = tH16 →
        let f := (fmtOf t).getD b32
        let w := elemWidth t
        let hf := if w = 16 ∧ half = true then 1 else 0
        let e := fun n => f.finish false m (drawOf h m 1024 n) { v := fromLns (word va n) }
        ∃ (data : BitVec 32768) (slots : BitVec 1024) (fl : BitVec 6),
          (∀ n, n < 1024 → elemAt data w (n / 64 * (2048 / w) + 64 * hf + n % 64) = (e n).1 % 2 ^ w) ∧
          (∀ j, j < 1024 → (slots.getLsbD j = true ↔ j % 64 / (2 * w) = hf)) ∧
          (∀ j, fl.getLsbD j = true ↔ ∃ n, n < 1024 ∧ (e n).2.getLsbD j = true) ∧
          Does s (.vfromlns d a t half p) (afterDraws h m 1024 4) ([(6, .v h.cur d data slots (some t))] ++ flagWrite h fl 6)) ∧
      -- arithmetic on logarithms
      (va.tag = tL32 →
        (vb.tag = tL32 →
          logs (.vlmul d a b p) 3 (fun n =>
            let x := word va n
            let y := word vb n
            (⟨x.s != y.s, x.z || y.z, if x.z || y.z then 0 else x.l + y.l⟩, 0)) ∧
          logs (.vldiv d a b p) 3 (fun n => lnsDiv (word va n) (word vb n))) ∧
        logs (.vlsqrt d a p) 3 (fun n => lnsSqrt (word va n)) ∧ logs (.vlrsqrt d a p) 3 (fun n => lnsRsqrt (word va n)) ∧
        (vb.tag = tF32 → logs (.vlpow d a b p) 8 fun n => lnsPow (word va n) (b32.unpack (vb.slot n))))

/-- R59, R60, R214-R218: quantising to FP4 and back, with the vector unit and the port free, in a parameter row and a tile header
that pass their checks and no word in error: vqnt writes codes and scales, appends its thimble entries in order and the new
COUNT, and with OVP adds what it saturated to the counter; vdqnt gives every element its value. -/
def Obligations.Quantisation : Prop :=
  ∀ (s : State) (d a b : VRegNo) (c : BRegNo) (p : Option Prefix),
    let h := s.hw
    let va := h.vreg a
    let m := h.mods p
    let core := coreOf h.cur
    let port := clusterOf h.cur
    let ready := fun (q : QParams) (w : Nat) (hd : TileHead) =>
      isParamTag (h.vreg b).tag = true ∧ q.bad w = false ∧ h.vecBusy = false ∧ h.portBusy = false ∧
        hd = tileHead (Memory.readNat s.mem (spadKey core q.addr) 64) ∧ hd.ok = true ∧ q.addr + 10304 + 4 * hd.cap ≤ 0x200000 ∧
        clean h q.addr 64 ∧ clean h (q.addr + 10304) (4 * hd.count)
    (∀ hd, isQuantTag va.tag = true →
      let w := if va.tag = tF32 then 8 else 16
      let q := qparams (h.vreg b) true
      ready q w hd →
        let us := drawsIf m (128 * w) h.st.srseed.toNat
        let r := (List.range (16 * w)).foldl
          (quantBlock m ((fmtOf va.tag).getD b32) va (b32.unpack q.thr) hd.cap q.row0 (w * q.part) w us.1) { cnt := hd.count }
        let prev := (thimbleOf (Memory.readNat s.mem (spadKey core (q.addr + 10304 + 4 * (hd.count - 1))) 4)).pos
        (hd.count ≠ 0 → ∀ x, r.first = some x → prev < x) → (q.ovp = true ∨ r.nsat = 0) →
          ∃ (codes : BitVec 32768) (scales : BitVec 8192) (slots : BitVec 1024),
            (∀ i, i < 16 * w → elemAt codes 32 (64 * (i / w) + w * q.part + i % w) = r.slots.getD i 0 % 2 ^ 32) ∧
            (∀ i, i < 16 * w → (scales.extractLsb' (8 * (64 * (i / w) + w * q.part + i % w)) 8).toNat = r.scales.getD i 0 % 256) ∧
            (∀ j, j < 1024 → (slots.getLsbD j = true ↔ j % 64 / w = q.part)) ∧
            Does s (.vqnt d a b c p)
              ({ ((h.takeVec 4).takePort 2).st with srseed := BitVec.ofNat 32 us.2 } : Strand).fallThrough
              ([(8, .v h.cur d codes slots (some tF4)), (8, .b h.cur c scales slots),
                (8, .store core port (q.addr + 10304 + 4 * hd.count) (r.new.flatMap fun e => leBytes 4 e.bits)),
                (8, .store core port (q.addr + 2) (leBytes 2 r.cnt))] ++
                (if r.nsat = 0 then [] else
                  [(8, .atomic core port (q.addr + 6) 1 .or 1 0 none), (8, .atomic core port q.scnt 4 .add (r.nsat % 2 ^ 32) 0 none)]) ++
                flagWrite h r.flags 8)) ∧
    (∀ hd, va.tag = tF4 →
      let q := qparams (h.vreg b) false
      ready q 8 hd →
        let es := thimblesAt s.mem (spadKey core (q.addr + 10304)) hd.count
        let x := fun n => dequant va (h.breg c) (bf16.unpack hd.band) es q.row0 (8 * q.part) n
        es.all Thimble.ok = true → ascending (es.map Thimble.pos) = true → (∀ n, n < 1024 → (x n).isSome = true) →
          VecDoes s (.vdqnt d a b c p)
            ({ ((h.takePort 1).takeVec 4).st with srseed := BitVec.ofNat 32 (drawsIf m 1024 h.st.srseed.toNat).2 } : Strand).fallThrough
            d 32 (BitVec.allOnes 1024) tF32 8 fun n =>
              b32.finish false m (drawOf h m 1024 n) { v := (x n).getD (.fin false 0 0) })

/-! ### Streams (R233-R245) -/

/-- `t` is `s` after a group that leaves the current strand as `st`, the dies as they are in `t`, and schedules `acts`. -/
def Sys2Proof.Claims.IssuedDie (s t : State) (st : Strand) (slot : Nat) (d : Die) (acts : List (Nat × PendAct)) : Prop :=
  t = { s with hw := { s.hw with strands := t.hw.strands, pend := t.hw.pend, seq := t.hw.seq, dies := t.hw.dies } } ∧
  t.hw.st = st ∧ (∀ k, k ≠ s.hw.cur → t.hw.strand k = s.hw.strand k) ∧
  t.hw.die slot = d ∧ (∀ e, e ≠ slot → t.hw.die e = s.hw.die e) ∧
  landings t.hw.pend = landings s.hw.pend ++ acts.map (inTicks s.hw)

/-- R234, R235, R239, R240, R242-R244: the stream instructions, their unit free. A configuration word that passes its checks takes
effect two ticks later. `so.send` sends its rows one a tick while its port has credits; `so.recv` pops up to 16 rows of one
tag; `so.stat` reads a slot, and with C clears its status bits if the slot is the core's. -/
def Sys2Proof.Claims.StreamInstructions : Prop :=
  ∀ (s : State) (v : VRegNo) (a b : XReg), s.hw.streamBusy = false →
    let h := s.hw
    let slot := slotOf h.cur
    let d := h.die slot
    let view := h.soView slot
    let x := (h.rx a).toNat
    let y := (h.rx b).toNat
    let sl := x % 64
    let o := view.op sl
    let core := coreOf h.cur
    let word := fun (i : Instr) (n : Nat) (ps : BitVec 32768) (xb : W64) =>
      Does s i (h.takeStream 1).st.fallThrough [(2, .so h.cur n ps (h.rx a) xb)]
    (sl ≤ 47 → x / 256 % 16 ≤ 12 → (o.owner = none ∨ o.owner = some core) →
      (x / 256 % 16 ≠ o.kind → ∀ r ∈ view.routes, r.src ≠ sl ∧ r.dst ≠ sl) → (x / 256 % 16 = 0 → o.insts = []) →
      badParams (x / 256 % 16) (h.vreg v).data = false → word (.soCfg v a) 0 (h.vreg v).data 0) ∧
    (rteFault view h.cur (h.rx a) (h.rx b) = none → word (.soRte a b) 1 0 (h.rx b)) ∧
    (sl ≤ 47 → o.owner = some core → 1 ≤ y % 128 → y % 128 ≤ 64 → y % 128 * opStorage o.kind ≤ 65536 →
      word (.soThr a b) 2 0 (h.rx b)) ∧
    (∀ r, d.routeFrom (endpointOf h.cur) = some r →
      let n := x % 32
      1 ≤ n → n ≤ 16 → n ≤ h.credits slot r →
        let w := h.vreg v
        ∃ t, exec (.soSend v a) s = .next t ∧
          IssuedDie s t ({ (h.takeStream n).st with unaccepted := h.st.unaccepted + n } : Strand).fallThrough slot
            { d with links := d.links ++ [((h.part (h.partOf slot)).pclk + 2, r, { tag := w.tag, data := w.data.extractLsb' 0 2048 })] }
            ((List.range (n - 1)).map fun i => (i + 1, .sendRow h.cur v (i + 1)))) ∧
    (∃ (c : Nat) (data : BitVec 32768) (slots : BitVec 1024),
      c ≤ 16 ∧ c ≤ h.st.recvq.length ∧ (0 < h.st.recvq.length → 0 < c) ∧
      (∀ i j p q, i < c → j < c → h.st.recvq[i]? = some p → h.st.recvq[j]? = some q → p.tag = q.tag) ∧
      (∀ p q, c < 16 → h.st.recvq[c]? = some p → h.st.recvq[0]? = some q → 0 < c → p.tag ≠ q.tag) ∧
      (∀ i j p, i < c → j < 64 → h.st.recvq[i]? = some p → elemAt data 32 (64 * i + j) = (p.data.extractLsb' (32 * j) 32).toNat) ∧
      (∀ m, m < 1024 → (slots.getLsbD m = true ↔ m < 64 * c)) ∧
      Does s (.soRecv v a) ({ (h.takeStream 1).st with recvq := h.st.recvq.drop c } : Strand).fallThrough
        ((match h.st.recvq with | [] => [] | p :: _ => [(3, .v h.cur v data slots (some p.tag))]) ++
          xWrite h a (BitVec.ofNat 64 c) 3)) ∧
    (y % 64 ≤ 47 →
      let o := d.op (y % 64)
      let st := (h.takeStream 1).st.fallThrough
      let reads := xWrite h a (BitVec.ofNat 64 (o.status core)) 2
      ((y / 256 % 2 = 0 ∨ o.owner ≠ some core) → Does s (.soStat a b) st reads) ∧
      (y / 256 % 2 = 1 → o.owner = some core →
        ∃ t, exec (.soStat a b) s = .next t ∧
          IssuedDie s t st slot (d.setOp (y % 64) { o with fmt := false, tc := false, qsat := false, exc := 0 }) reads))

/-- R234, R239-R242: a row that a link delivers enters the receive queue of a strand, or the operator at its node; the link is
free again, and the sending strand has one row less to be accepted. A due row of an operator leaves along its route when its
destination has a credit, two ticks on its way, and not before. A configuration word sets throttle, route or kind. -/
def Sys2Proof.Claims.StreamEvents : Prop :=
  ∀ (s : State) (slot node port : Nat) (tag : Tag) (row : BitVec 2048), slot < 48 →
    let h := s.hw
    let d := h.die slot
    let r : StreamRow := { tag := tag, data := row }
    let now := (h.part (h.partOf slot)).pclk
    let free := fun (x : Nat × Route × StreamRow) => { d with links := d.links.erase x }
    (∀ x, d.links.find? (fun l => l.2.1.dst == node && l.2.1.port == port) = some x →
      let k := strandAt slot x.2.1.src
      let sent : Strand := { h.strand k with unaccepted := (h.strand k).unaccepted - 1 }
      (node < 48 → x.2.1.src < 48 →
        ∃ t, exec (.streamRowAccept slot node port tag row) s = .next t ∧
          OneDie s t slot ((free x).setOp node ((d.op node).accept now port r))) ∧
      (node < 48 → 0x80 ≤ x.2.1.src →
        ∃ t, exec (.streamRowAccept slot node port tag row) s = .next t ∧ t.mem = s.mem ∧
          t.hw = { h with strands := t.hw.strands, dies := t.hw.dies } ∧
          t.hw.die slot = (free x).setOp node ((d.op node).accept now port r) ∧ (∀ e, e ≠ slot → t.hw.die e = h.die e) ∧
          t.hw.strand k = sent ∧ ∀ j, j ≠ k → t.hw.strand j = h.strand j) ∧
      (0x80 ≤ node → x.2.1.src < 48 →
        let e := strandAt slot node
        ∃ t, exec (.streamRowAccept slot node port tag row) s = .next t ∧ t.mem = s.mem ∧
          t.hw = { h with strands := t.hw.strands, dies := t.hw.dies } ∧ t.hw.die slot = free x ∧
          (∀ e, e ≠ slot → t.hw.die e = h.die e) ∧
          t.hw.strand e = { h.strand e with recvq := (h.strand e).recvq ++ [r] } ∧ ∀ j, j ≠ e → t.hw.strand j = h.strand j)) ∧
    (∀ rt out, d.routeFrom node = some rt → (d.op node).emitting now = some out →
      (h.credits slot rt = 0 → exec (.operatorEmit slot node) s = .next s) ∧
      (0 < h.credits slot rt →
        ∃ t, exec (.operatorEmit slot node) s = .next t ∧
          OneDie s t slot ({ d with links := d.links ++ [(now + 2, rt, out)] }.setOp node (d.op node).emitted))) ∧
    ((d.routeFrom node = none ∨ (d.op node).emitting now = none) → exec (.operatorEmit slot node) s = .next s) ∧
    ∀ (q : Pend) (k w : Nat) (ps : BitVec 32768) (xa xb : W64), q.act = .so k w ps xa xb → slotOf k = slot →
      let o := d.op (xa.toNat % 64)
      let kind := xa.toNat / 256 % 16
      (w = 2 → OneDie s (s.land q) slot (d.setOp (xa.toNat % 64) { o with throttle := xb.toNat % 128 })) ∧
      (w = 0 → kind = 0 → OneDie s (s.land q) slot (d.setOp (xa.toNat % 64) {})) ∧
      (w = 0 → kind ≠ 0 → kind ≠ o.kind →
        OneDie s (s.land q) slot (d.setOp (xa.toNat % 64)
          { kind := kind, owner := some (coreOf k), params := ps, rowc := elemAt ps 32 1 % 64 })) ∧
      (∀ src dst, w = 1 → nodeOf k (xa.toNat % 256) = some src → xb.toNat % 256 ≠ 0xFF → nodeOf k (xb.toNat % 256) = some dst →
        OneDie s (s.land q) slot { d with routes := d.routes ++ [{ src := src, dst := dst, port := xb.toNat / 256 % 2 }] }) ∧
      (∀ src, w = 1 → nodeOf k (xa.toNat % 256) = some src → xb.toNat % 256 = 0xFF →
        OneDie s (s.land q) slot { d with routes := d.routes.filter fun r => r.src != src })

/-- R233-R245: the stream operators: instructions and events. -/
def Obligations.StreamOperators : Prop := StreamInstructions ∧ StreamEvents

/-! ### Class M (R246-R266, R349) -/

/-- `t` is `s` after an array command enters the queue of the strand's core: it waits at the end, admitted if the core holds the
lease, against which it counts; an expired lease becomes pending; the array takes the effects at issue, and control falls
through the group, which leaves the strand as `st`. A global load that is admitted is under way at once (R249-R253). -/
def Sys2Proof.Claims.ArrQueued (s t : State) (op : ArrOp) (st : Strand) (pre : Core → Core) (mark : ArrayState → ArrayState) : Prop :=
  let h := s.hw
  let c := coreOf h.cur
  let slot := slotOf h.cur
  let held := (h.core c).lease = .held
  t.mem = s.mem ∧
  t.hw = { h with strands := t.hw.strands, cores := t.hw.cores, dies := t.hw.dies, untimed := t.hw.untimed, fresh := t.hw.fresh } ∧
  t.hw.st = st ∧ (∀ k, k ≠ h.cur → t.hw.strand k = h.strand k) ∧ (∀ k, k ≠ c → t.hw.core k = h.core k) ∧
  t.hw.arr slot (arrOf c) = mark (h.arr slot (arrOf c)) ∧ (∀ a, a < 3 → a ≠ arrOf c % 3 → t.hw.arr slot a = h.arr slot a) ∧
  t.hw.die slot = { h.die slot with arrays := (t.hw.die slot).arrays } ∧ (∀ e, e ≠ slot → t.hw.die e = h.die e) ∧
  (∃ cmd : ArrCmd, cmd.id = h.fresh ∧ cmd.strand = h.cur ∧ cmd.issued = h.ptick slot ∧ cmd.op = op ∧ cmd.admitted = decide held ∧
    cmd.started = (op.isGlobal && decide held) ∧ cmd.stopped = false ∧
    (t.hw.core c).aq = (h.core c).aq ++ [cmd]) ∧
  t.hw.core c =
    { pre (h.core c) with
      aq := (t.hw.core c).aq, used := if held then (h.core c).used + 1 else (h.core c).used
      lease := if (h.core c).lease = .expd then .pend else (h.core c).lease } ∧
  (op.isGlobal = false ∨ ¬ held → t.hw.untimed = h.untimed ∧ t.hw.fresh = h.fresh + 1) ∧
  (op.isGlobal = true → held → ∃ u : Untimed, t.hw.untimed = h.untimed ++ [u] ∧ u.strand = h.cur ∧
    u.op = .panel slot (arrOf c) h.fresh op ∧ h.wtick < u.due ∧ u.after = h.st.fencedR ∧ u.afterSeq = h.st.fencedSeqR ∧
    u.afterAcq = h.st.acqSeq)

/-- The checks that come first and last for every array command: the lease (R252) and room in the queue. -/
def Sys2Proof.Claims.mayCommand (h : Hw) : Prop := h.leaseBad = false ∧ h.queueFull = false
/-- No refresh window meets the weight-store reads of a command of a strict kernel (R254). -/
def Sys2Proof.Claims.noCollision (h : Hw) (op : ArrOp) (chunks : List (List Nat)) : Prop :=
  h.strict = true → ∀ τ,
    h.startOf (slotOf h.cur) (arrOf (coreOf h.cur)) (h.newCmd op) = some τ → h.collision (slotOf h.cur) τ chunks = none
/-- The row range of an operand register: rows ar to ar + n − 1 of the 4,096 (R248). -/
def Sys2Proof.Claims.rows (x : W64) : Nat × Nat := (x.toNat % 4096, x.toNat / 65536 % 8192)
def Sys2Proof.Claims.rangeOk (ar n : Nat) (pairs : Prop) : Prop := 0 < n ∧ ar + n ≤ 4096 ∧ (pairs → ar % 2 = 0 ∧ n % 2 = 0)
/-- A scratchpad region of n bytes, aligned to 64. -/
def Sys2Proof.Claims.regionOk (x : W64) (n : Nat) : Prop := x.toNat % 64 = 0 ∧ x.toNat + n ≤ 0x200000
/-- An array whose rows from ar on have a new tag, in the window of the current tile (R248, R262). -/
def Sys2Proof.Claims.tagged (x : ArrayState) (ar n : Nat) (t : Tag) : ArrayState := (x.tagRows ar n t).inTile

/-- R249-R262 (all but `mlat`): the array commands that pass their checks enter the queue of their core with their operands as
they are at issue; `mscale` and `mread` make their draws; `mmma` opens a new progress record. The release of a lease takes
effect at the next tick, and a request is decided in the same tick; a core that holds the lease reads 2. -/
def Sys2Proof.Claims.ArrayCommands : Prop :=
  ∀ (s : State) (a r b : XReg) (t : Tag) (f o g bs lt clr nh ge : Bool) (grp hd : BitVec 8) (src : BitVec 2) (tok lat : BitVec 3)
      (p : Option Prefix),
    let h := s.hw
    let arr := h.myArr
    let xa := h.rx a
    let ar := (rows (h.rx r)).1
    let n := (rows (h.rx r)).2
    let next := h.st.fallThrough
    let m := h.mods p
    let inGroup := ge = false ∨ ((h.core (coreOf h.cur)).grp grp.toNat).isSome = true
    let report := if ge then some grp.toNat else none
    let drawn := fun (k : Nat) => ({ h.st with srseed := BitVec.ofNat 32 (drawsIf m k h.st.srseed.toNat).2 } : Strand).fallThrough
    let enters := fun (i : Instr) (op : ArrOp) (st : Strand) (pre : Core → Core) (mark : ArrayState → ArrayState) =>
      ∃ u, exec i s = .next u ∧ ArrQueued s u op st pre mark
    (mayCommand h → rangeOk ar n (t = tF64 ∨ ∃ i, i < n ∧ arr.tagAt (ar + i) = tF64) → arr.windowBad ar n true = false →
      enters (.mzero r t) (.mzero ar n t) next id (fun x => tagged x ar n t) ∧
      (regionOk xa (1024 * n) → enters (.mwrite a r t) (.mwrite xa.toNat ar n t) next id fun x => tagged x ar n t)) ∧
    (mayCommand h → rangeOk ar n False → arr.windowBad ar n true = false → regionOk xa 1024 →
      (∀ i, i < n → arr.tagAt (ar + i) = tF32 ∨ arr.tagAt (ar + i) = tI32) →
      enters (.mscale a r p) (.mscale xa.toNat ar n (arr.tagsIn ar n) m h.st.srseed) (drawn (256 * n)) id fun x => tagged x ar n tF32) ∧
    (let rt := arr.tagAt ar
     mayCommand h → readPair rt t = true → (∀ i, i < n → arr.tagAt (ar + i) = rt) → rangeOk ar n (rt = tF64) →
     regionOk xa (n * readBytes rt t) → arr.windowBad ar n false = false →
     enters (.mread a r t o g p) (.mread xa.toNat ar n rt t o g m h.st.srseed) (drawn (readDraws rt n)) id ArrayState.inTile) ∧
    (mayCommand h → rangeOk ar n (∃ i, i < n ∧ arr.tagAt (ar + i) = tF64) → (f = false → n ≤ 64) →
      enters (.mtile r f) (.mtile ar n (!f)) next id fun x => { x with tileIssued := some { ar := ar, m := n, keep := !f, id := h.fresh } }) ∧
    -- matrix multiply: an ordinary product, or a latent mode
    (let per := if t = tF64 then 2 else 1
     let rt := if t = tI8 then tI32 else if t = tF64 then tF64 else tF32
     let slot := arr.slotIssued.get (Fin.ofNat 2 bs.toNat)
     let op := ArrOp.mmma bs.toNat xa.toNat ar n t lat.toNat (if lat = 0 then 0 else arr.latentIssued.getD 0) nh clr hd.toNat
        (match p with | some q => q.sat == 1 | none => false) report
     let fits := if lat = 0 then slot.2.1 = false ∧ slotFits t slot.1 = true
        else arr.latentIssued.isSome = true ∧ slot.2.1 = true ∧ t = tB16 ∧ slot.1 = (descOf (arr.latentIssued.getD 0)).tag
     mayCommand h → fits → (clr = false → ∀ i, i < per * n → arr.tagAt (ar + i) = 0 ∨ arr.tagAt (ar + i) = rt) →
     rangeOk ar (per * n) (t = tF64) → regionOk xa (mulBytes t * n) → xa.toNat < 0x200000 → inGroup →
     arr.windowBad ar (per * n) true = false → (lat ≠ 0 → noCollision h op op.chunks) →
     enters (.mmma a r bs clr t lat nh ge grp hd p) op next
        (fun c => { c with progress := { seq := c.progress.seq + 1, rows := n }, progId := h.fresh }) fun x => tagged x ar (per * n) rt) ∧
    -- panel loads
    (let d := descOf (arr.latentIssued.getD 0)
     let nt := if lt then (h.rx b).toNat % 512 else 0
     let mark := fun (x : ArrayState) => { x with slotIssued := x.slotIssued.set (Fin.ofNat 2 bs.toNat) (t, lt, nt) }
     let op := fun (n bytes : Nat) => ArrOp.mbld n bs.toNat xa.toNat t lt nt bytes ⟨tok.toNat, tok.isLt⟩ report
     let bytesAt := fun (key : Nat) => if t = tF4 then tilesBytes s.mem (panelTiles lt nt d.r) key
        else if lt then nt * (if d.r ≤ 256 then 256 else 512) else panelSize t
     let i := Instr.mbld a b src bs lt t tok grp ge
     mayCommand h → (lt = true → arr.latentIssued.isSome = true ∧ d.tag = t ∧ 0 < nt ∧ nt ≤ 256) → inGroup →
        (src = 0 → let n := bytesAt (spadKey (coreOf h.cur) xa.toNat)
          regionOk xa n → xa.toNat < 0x200000 → enters i (op 0 n) next id mark) ∧
        (src = 1 → let n := bytesAt (weightKey (slotOf h.cur) xa.toNat)
          xa.toNat % 256 = 0 → xa.toNat < Config.weightSize → xa.toNat + n ≤ Config.weightSize → (h.die (slotOf h.cur)).loadWindow = false →
          noCollision h (op 1 n) ((List.range (op 1 n).chunkCount).map fun j =>
            banksOf (xa.toNat + 8192 * j) (min 8192 (n - 8192 * j))) → enters i (op 1 n) next id mark) ∧
        (src = 2 → ∀ ps, (h.die (slotOf h.cur)).pieces xa.toNat 1 .read false = .ok ps → xa.toNat % 64 = 0 →
          let k : Fin 8 := ⟨tok.toNat, tok.isLt⟩
          (h.st.token h.st.sup k).pend < 63 → (∀ c, ∀ y ∈ (h.core c).aq, y.id ≠ h.fresh) →
          let slot := slotOf h.cur
          let n := if t = tF4 then h.panelTileBytes s.mem (h.panelSrc slot xa.toNat (h.firstPage slot xa.toNat)) (panelTiles lt nt d.r) xa.toNat
            else if lt then nt * (if d.r ≤ 256 then 256 else 512) else panelSize t
          xa.toNat + n ≤ 2 ^ 56 → enters i (op 2 n) (h.st.updToken h.st.sup k fun x => { x with pend := x.pend + 1 }).fallThrough id mark)) ∧
    -- leases and statuses
    ((h.core (coreOf h.cur)).lease = .held → Does s (.lease a) next (xWrite h a 2 1) ∧
      Does s .lrel next [(1, .leaseTo (coreOf h.cur) .none)]) ∧
    ((h.core (coreOf h.cur)).lease ≠ .held →
      (h.strict = true → (h.arr (slotOf h.cur) (arrOf (coreOf h.cur))).holder = none ∧
        ∀ x ∈ h.leaseAsks (slotOf h.cur) (arrOf (coreOf h.cur)), coreOf x.1 = coreOf h.cur) →
      Does s (.lease a) next [(0, .leaseAsk h.cur a)]) ∧
    ((h.core (coreOf h.cur)).lease ≠ .held → ∃ u, exec .lrel s = .next u ∧ u.mem = s.mem ∧ u.hw.st = next ∧ u.hw.pend = h.pend ∧
      u.hw.core (coreOf h.cur) = { h.core (coreOf h.cur) with lease := .none }) ∧
    Does s (.mprog a) next [(2, .mprog h.cur h.st.sup a)] ∧ Does s (.mstat a clr) next [(2, .mstat h.cur h.st.sup a clr)]

/-- R255, R266: `mlat` reads a latent descriptor of 16 bytes that passes its checks through the port, and enters the queue; `mgemv`
enters the GEMV queue of the NB die that holds the home of its matrix, after the commands accepted before it, those of its tick by
requester key. -/
def Sys2Proof.Claims.LatentAndBaseDieProducts : Prop :=
  ∀ (s : State) (a b x y sw : XReg) (disp : BitVec 32) (t : Tag) (kc : BitVec 12) (mm : BitVec 16) (p : Option Prefix),
    let h := s.hw
    let ea := w64 ((h.rx a).toNat + disp.toInt)
    let desc : BitVec 128 := BitVec.ofNat 128 (spadNat s ea.toNat 16)
    (mayCommand h → ea.toNat % 16 = 0 → ea.toNat < 0x200000 → h.portBusy = false → clean h ea.toNat 16 → (descOf desc).ok = true →
      ∃ u, exec (.mlat a disp) s = .next u ∧
        ArrQueued s u (.mlat desc) (h.takePort 1).st.fallThrough id fun z =>
          let key := spadKey (coreOf h.cur) ea.toNat
          { z with
            latentIssued := some desc
            tileIssued := z.tileIssued.map fun q => q.sampled key 16
            tile := z.tile.map fun q => if z.tileIssued.any (fun w => w.id == q.id) then q.sampled key 16 else q }) ∧
    ∀ nb ps,
      let d := h.die (slotOf h.cur)
      let k := 256 * kc.toNat
      let m := mm.toNat + 1
      d.pieces (h.rx b).toNat 1 .read false = .ok ps → d.homeOf (h.rx b).toNat = some nb → (h.rx b).toNat % 256 = 0 →
      regionOk (h.rx x) (k * gemvBytes t) → (h.rx y).toNat % 4 = 0 → (h.rx y).toNat + 4 * m ≤ 0x200000 →
      (h.rx sw).toNat % 16 = 0 → (h.rx sw).toNat < 0x200000 → (h.die nb).gemv.length < 16 →
        ∃ u c l r, exec (.mgemv b x y sw t kc mm p) s = .next u ∧ u.mem = s.mem ∧ u.hw.st = h.st.fallThrough ∧
          u.hw = { h with strands := u.hw.strands, dies := u.hw.dies, fresh := h.fresh + 1 } ∧
          (∀ j, j ≠ h.cur → u.hw.strand j = h.strand j) ∧ (∀ e, e ≠ nb → u.hw.die e = h.die e) ∧
          (h.die nb).gemv = l ++ r ∧ u.hw.die nb = { h.die nb with gemv := l ++ c :: r } ∧
          (∀ z ∈ l, ¬ (z.issued = h.wtick ∧ h.cur < z.strand)) ∧ (∀ z, r.head? = some z → z.issued = h.wtick ∧ h.cur < z.strand) ∧
          c.issued = h.wtick ∧ c.strand = h.cur ∧ c.afterSeq = h.st.fencedSeq ∧ c.afterAcq = h.st.acqSeq ∧ c.id = h.fresh ∧ c.core = coreOf h.cur ∧
          c.b = (h.rx b).toNat ∧ c.x = (h.rx x).toNat ∧ c.y = (h.rx y).toNat ∧ c.sync = (h.rx sw).toNat ∧ c.fmt = t ∧ c.k = k ∧
          c.m = m ∧ c.started = false ∧ (c.sat = true ↔ ∃ q, p = some q ∧ q.sat = 1)

/-- R247-R266: array commands, mlat and mgemv at issue. -/
def Obligations.ArrayCommandsIssue : Prop := ArrayCommands ∧ LatentAndBaseDieProducts

/-- The writes a strand's array command schedules, on the strand's clock. -/
def Sys2Proof.Claims.inTicksOf (h : Hw) (k : Nat) (a : Nat × PendAct) : Nat × Bool × Nat × PendAct :=
  (h.partOf (slotOf k), h.useWall k, h.now k + a.1, a.2)

/-- What an array schedules, on the pipeline clock of the partition of its die. -/
def Sys2Proof.Claims.inTicksAt (h : Hw) (slot : Nat) (a : Nat × PendAct) : Nat × Bool × Nat × PendAct :=
  (h.partOf slot, false, h.ptick slot + a.1, a.2)

/-- R250, R252-R254, R256-R262, R349: the events of an array. A free array is granted to the first core in lease order that waits
or asks; its lease takes effect at the next tick. A lease that ends is renewed in queued mode when no other core waits, and
else it is expired and the array free. The head of a channel that may start does, and its rows follow at their ticks; a
deferred read of the weight store goes on when no bank of it is in its refresh window. -/
def Obligations.ArrayEvents : Prop :=
  ∀ (s : State) (slot a : Nat), slot < 48 → a < 3 →
    let h := s.hw
    let st := h.arr slot a
    let asks := h.leaseAsks slot a
    let wants := fun (c : Nat) => (h.core c).lease = .pend ∨ ∃ r ∈ asks, coreOf r.1 = c
    let order := [1, 2, 3, 4].map fun k => slot * 32 + 4 * a + (st.ptr + k) % 4
    -- grants
    (∀ c, st.holder = none → c ∈ order → wants c → (∀ e ∈ order.takeWhile (· != c), ¬ wants e) →
      ∃ t, exec (.leaseGrant slot a) s = .next t ∧ t.mem = s.mem ∧ (t.hw.arr slot a).holder = some c ∧ (t.hw.arr slot a).ptr = c % 4 ∧
        (∃ q ∈ t.hw.pend, q.act = .leaseTo c .held ∧ q.due = h.now (c * 4) + 1) ∧ t.hw.leaseAsks slot a = [] ∧
        (t.hw.core c).used = 0 ∧ (t.hw.core c).granted = h.leaseClock slot ∧
        ∀ r ∈ asks, coreOf r.1 ≠ c → (t.hw.core (coreOf r.1)).lease = .pend) ∧
    (st.holder = none → (∀ c ∈ order, ¬ wants c) → asks = [] →
      ∃ t, exec (.leaseGrant slot a) s = .next t ∧ t.mem = s.mem ∧ t.hw = { h with pend := t.hw.pend } ∧
        ∀ q ∈ h.pend, (∀ k d, q.act ≠ .leaseAsk k d) → q ∈ t.hw.pend) ∧
    -- the end of a lease
    (∀ c, c / 32 = slot → arrOf c = a →
      (st.holder ≠ some c → exec (.leaseExpiry c) s = .next s) ∧
      (st.holder = some c → h.strictOf (h.partOf slot) = false →
        (∀ e ∈ arrCores slot a, e ≠ c → (h.core e).lease ≠ .pend) →
        ∃ t, exec (.leaseExpiry c) s = .next t ∧ t.mem = s.mem ∧ t.hw = { h with cores := t.hw.cores } ∧
          t.hw.core c = { h.core c with used := 0, granted := h.wtick } ∧ ∀ e, e ≠ c → t.hw.core e = h.core e) ∧
      (st.holder = some c →
        (h.strictOf (h.partOf slot) = true ∨ ∃ e ∈ arrCores slot a, e ≠ c ∧ (h.core e).lease = .pend) →
        ∃ t, exec (.leaseExpiry c) s = .next t ∧ t.mem = s.mem ∧ t.hw = { h with cores := t.hw.cores, dies := t.hw.dies } ∧
          t.hw.core c = { h.core c with lease := .expd } ∧ (t.hw.arr slot a) = { st with holder := none } ∧
          ∀ e, e ≠ c → t.hw.core e = h.core e)) ∧
    -- starts
    (∀ load, h.channelHead slot a load = none → exec (.arrayCommandStart slot a load) s = .next s) ∧
    (∀ c f, h.channelHead slot a false = some (c, f) → c.halted = none →
      let row := fun (i lat : Nat) => (lat, PendAct.rowWork slot a (coreOf c.strand) c.id i c.op [])
      let starts := fun (acts : List (Nat × PendAct)) =>
        ∃ t, exec (.arrayCommandStart slot a false) s = .next t ∧ t.mem = s.mem ∧ t.hw.strands = h.strands ∧
          landings t.hw.pend = landings h.pend ++ ((f.len, .cmdDone slot a c.id) :: acts).map (inTicksAt h slot) ∧
          t.hw.untimed = h.untimed ∧ (∀ x ∈ t.hw.arrCmds slot a, x.id = c.id → x.started = true)
      (∀ ar n t, c.op = .mzero ar n t → starts ((List.range n).map fun i => (i / 4 + 1, .rowSet slot a (ar + i) t 0))) ∧
      (∀ addr ar n t, c.op = .mwrite addr ar n t → starts ((List.range n).map fun i => row i i)) ∧
      (∀ addr ar n rt t o g m sd, c.op = .mread addr ar n rt t o g m sd →
        starts ((List.range n).map fun i => row i (i * readBytes rt t / 1024))) ∧
      (∀ addr ar n tags m sd, c.op = .mscale addr ar n tags m sd → starts [(0, .tileHead slot a c.id 0)]) ∧
      (∀ ar n keep, c.op = .mtile ar n keep → starts (if keep then (List.range n).map fun i => row i (i / 4) else [])) ∧
      (∀ bs addr ar n fmt desc nh clr hd sat ge, c.op = .mmma bs addr ar n fmt 0 desc nh clr hd sat ge →
        (h.slotB slot a bs).valid = true → fmt ≠ tF4 →
        starts ((List.range n).map fun i => (i / mulRate fmt, .rowEnter slot a c.id i)))) ∧
    (∀ c f d, h.channelHead slot a true = some (c, f) → c.op = .mlat d →
      ∃ t, exec (.arrayCommandStart slot a true) s = .next t ∧ t.mem = s.mem ∧ t.hw.strands = h.strands ∧
        landings t.hw.pend = landings h.pend ++ [(1, .latentLand slot a d), (1, .cmdDone slot a c.id)].map (inTicksAt h slot)) ∧
    -- refresh windows
    (∀ load, (∃ b ∈ h.waitingBanks slot a load, inWindow (h.die slot).wsph b = true) → exec (.refreshWaitEnd slot a load) s = .next s) ∧
    (∀ load, (∀ b ∈ h.waitingBanks slot a load, inWindow (h.die slot).wsph b = false) →
      ∃ t, exec (.refreshWaitEnd slot a load) s = .next t ∧ t.mem = s.mem ∧ t.hw = { h with dies := t.hw.dies } ∧
        t.hw.arr slot a =
          if load then { st with load := st.load.map fun p => { p with deferred := false } }
          else { st with prologue := st.prologue.map fun p => { p with deferred := false } })

/-! ### Class G (R286-R299) -/

/-- The group takes the core's gather unit for n ticks, control falls through it, and it schedules `acts` (R287). -/
def Sys2Proof.Claims.GatherDoes (s : State) (i : Instr) (n : Nat) (acts : List (Nat × PendAct)) : Prop :=
  let h := s.hw
  let c := coreOf h.cur
  ∃ t, exec i s = .next t ∧
    t = { s with hw := { h with strands := t.hw.strands, pend := t.hw.pend, seq := t.hw.seq, cores := t.hw.cores } } ∧
    t.hw.st = h.st.fallThrough ∧ (∀ k, k ≠ h.cur → t.hw.strand k = h.strand k) ∧
    t.hw.core c = (if h.useWall h.cur then { h.core c with gatherWall := h.tick + n } else { h.core c with gatherFree := h.tick + n }) ∧
    (∀ k, k ≠ c → t.hw.core k = h.core k) ∧ landings t.hw.pend = landings h.pend ++ acts.map (inTicks h)

/-- Number j of n bytes in a list of bytes, low byte first. -/
def Sys2Proof.Claims.numAt (bs : List Byte) (n j : Nat) : Nat :=
  ((List.range n).map fun i => (bs.getD (n * j + i) 0).toNat * 256 ^ i).sum
/-- How many of the 64 bits of a word are set. -/
def Sys2Proof.Claims.ones (v : Nat) : Nat := (List.range 64).countP fun i => v.testBit i

/-- R289-R299: the gather instructions on operands that pass their checks, the gather unit free and no word in error. Bitmap
intersections and prefix counts store their words through the array port and count their bits; `gisect` and `gemb` enter
their queues; scatter-add and histogram read and write their words when they land; the selection and the sort list values
with the slots that they come from. -/
def Sys2Proof.Claims.GatherInstructions : Prop :=
  ∀ (s : State) (d a b c : XReg) (v w : VRegNo) (g clr : Bool) (et : BitVec 3) (pool : BitVec 2) (zm : BitVec 11) (nm : BitVec 16),
    let h := s.hw
    let core := coreOf h.cur
    let word := fun (o j : Nat) => Memory.readNat s.mem (spadKey core (o + 8 * j)) 8
    let idle := h.gatherBusy = false
    let even := fun (r : VRegNo) => (Fin.ofNat 16 (r.val + 1) : VRegNo)
    let slot := fun (r : VRegNo) n => (h.vreg r).slot n
    -- gbmand, gpopx
    (∀ p, bitmapPair (h.rx a) false true = .ok p → idle → (h.rx b).toNat % 8 = 0 → (h.rx b).toNat + 8 * p.w ≤ 0x200000 →
      clean h p.bma (8 * p.w) → clean h p.bmb (8 * p.w) →
        let n := 3 * ((p.w + 127) / 128)
        ∃ bs : List Byte, bs.length = 8 * p.w ∧ (∀ j, j < p.w → numAt bs 8 j = word p.bma j &&& word p.bmb j) ∧
          GatherDoes s (.gbmand d a b) n ((n + 3, .store core 4 (h.rx b).toNat bs) ::
            xWrite h d (BitVec.ofNat 64 ((List.range p.w).map fun j => ones (word p.bma j &&& word p.bmb j)).sum) (n + 3))) ∧
    (∀ p, bitmapPair (h.rx a) false false = .ok p → idle → (h.rx b).toNat % 4 = 0 → (h.rx b).toNat + 4 * (p.w + 1) ≤ 0x200000 →
      clean h p.bma (8 * p.w) →
        let n := (p.w + 127) / 128 + (p.w + 256) / 256
        let count := fun (k : Nat) => ((List.range k).map fun j => ones (word p.bma j)).sum
        ∃ bs : List Byte, bs.length = 4 * (p.w + 1) ∧ (∀ j, j ≤ p.w → numAt bs 4 j = count j) ∧
          GatherDoes s (.gpopx d a b) n ((n + 3, .store core 4 (h.rx b).toNat bs) :: xWrite h d (BitVec.ofNat 64 (count p.w)) (n + 3))) ∧
    -- gisect
    (∀ p, bitmapPair (h.rx a) true true = .ok p → (h.rx b).toNat < 2 ^ 42 → (h.core core).iq.length < 4 →
      ∃ t x, exec (.gisect d a b c) s = .next t ∧ t.mem = s.mem ∧ t.hw.st = h.st.fallThrough ∧
        t.hw = { h with strands := t.hw.strands, cores := t.hw.cores, fresh := h.fresh + 1, seq := h.seq + 1 } ∧
        (∀ k, k ≠ h.cur → t.hw.strand k = h.strand k) ∧ (∀ k, k ≠ core → t.hw.core k = h.core k) ∧
        t.hw.core core = { h.core core with iq := (h.core core).iq ++ [x] } ∧ x.id = h.fresh ∧ x.seq = h.seq ∧ x.strand = h.cur ∧ x.dest = d ∧
        x.bf16 = p.fmt ∧ x.w = p.w ∧ x.bma = p.bma ∧ x.bmb = p.bmb ∧ x.vala = (h.rx b).toNat % 2 ^ 21 ∧
        x.valb = (h.rx b).toNat / 2 ^ 21 ∧ x.started = false ∧ x.oa = 0 ∧ x.ob = 0 ∧
        x.acc.toNat = if p.fmt then (h.rx c).toNat % 2 ^ 32 else (h.rx c).toNat) ∧
    -- gscadd, ghist
    (let k := (h.rx b).toNat % 2048
     let nb := (h.rx b).toNat / 65536 % 65536
     let xa := (h.rx a).toNat
     let n := (k + 63) / 64
     idle → 0 < k → k ≤ 1024 → xa % 4 = 0 → (h.vreg w).tag = tI32 →
       ((h.vreg v).tag = tF32 → xa + 4 ≤ 0x200000 →
         GatherDoes s (.gscadd v w a b) n
           [(n + 3, .scatter core xa ((List.range k).map fun e => (slot w e, BitVec.ofNat 32 (slot v e))) true nb h.cur)]) ∧
       (0 < nb → xa + 4 * nb + 4 ≤ 0x200000 →
         GatherDoes s (.ghist w a b) n [(n + 3, .scatter core xa ((List.range k).map fun e => (slot w e, 1)) false nb h.cur)])) ∧
    -- gtopk: k values in order, the slots they come from, and nothing left out that comes before one of them
    (let k := (h.rx b).toNat % 2048
     idle → 0 < k → k ≤ 1024 → (h.vreg w).tag = tF32 →
       let first := fun (i j : Nat) => topBefore (slot w i, i) (slot w j, j) = true
       ∃ (at_ : Nat → Nat) (vals idx : BitVec 32768),
         (∀ e, e < k → at_ e < 1024 ∧ elemAt idx 32 e = at_ e ∧
           elemAt vals 32 e = if (b32.unpack (slot w (at_ e))).isNan then 0x7FC00000 else slot w (at_ e)) ∧
         (∀ e f, e < f → f < k → first (at_ e) (at_ f)) ∧
         (∀ n e, n < 1024 → e < k → first n (at_ e) → ∃ f, f < k ∧ at_ f = n) ∧
         (∀ e, k ≤ e → e < 1024 → elemAt vals 32 e = 0xFF800000 ∧ elemAt idx 32 e = 0xFFFFFFFF) ∧
         GatherDoes s (.gtopk v w b) 8
           ([(16, .v h.cur v vals (BitVec.allOnes 1024) (some tF32)), (16, .v h.cur (even v) idx (BitVec.allOnes 1024) (some tI32))] ++
             if (List.range 1024).any (fun n => (b32.unpack (slot w n)).isSnan) = true then [(16, .flags h.cur fNV)] else [])) ∧
    -- gsortk: all keys in ascending order, equal keys in slot order
    (idle → (h.vreg w).tag = tI32 →
      let key := fun (n : Nat) => if g = true ∧ 2 ^ 31 ≤ slot w n then (slot w n : Int) - 2 ^ 32 else (slot w n : Int)
      ∃ (at_ : Nat → Nat) (keys idx : BitVec 32768),
        (∀ e, e < 1024 → at_ e < 1024 ∧ elemAt idx 32 e = at_ e ∧ elemAt keys 32 e = slot w (at_ e)) ∧
        (∀ e f, e < f → f < 1024 → key (at_ e) < key (at_ f) ∨ (key (at_ e) = key (at_ f) ∧ at_ e < at_ f)) ∧
        GatherDoes s (.gsortk v w g) 16
          [(24, .v h.cur v keys (BitVec.allOnes 1024) (some tI32)), (24, .v h.cur (even v) idx (BitVec.allOnes 1024) (some tI32))]) ∧
    -- gcfg: a table register, emptied by a row length of 0
    ((∀ q ∈ h.pend, ∀ c' k t' e, q.act ≠ .embTable c' k t' e) →
      let x := (h.rx a).toNat
      let rb := x / 256 % 65536
      let f : Tag := BitVec.ofNat 4 (x / 2 ^ 24)
      (rb = 0 → Does s (.gcfg a b) h.st.fallThrough [(1, .embTable core (clusterOf h.cur) (BitVec.ofNat 3 x) none)]) ∧
      (∀ va, rb % 64 = 0 → 0 < rb → rb ≤ 32768 → x / 8 % 32 = 0 → x / 2 ^ 28 % 16 = 0 → 0 < x / 2 ^ 32 → (embSize f).isSome = true →
        EngAddr.ofNat (h.rx b).toNat = some (.virt va) →
        Does s (.gcfg a b) h.st.fallThrough
          [(1, .embTable core (clusterOf h.cur) (BitVec.ofNat 3 x)
            (some { nr := x / 2 ^ 32, fmt := f, rb := rb, base := h.rx b }))])) ∧
    -- gemb
    (∀ t, (h.core core).et.get et.toFin = some t →
      let n := nm.toNat + 1
      let z := zm.toNat + 1
      let out := (if pool = 0 then n else n / z) * embRow t pool
      (h.rx a).toNat % 4 = 0 → (h.rx a).toNat + 4 * n ≤ 0x200000 → (h.rx d).toNat % 64 = 0 → (h.rx d).toNat < 0x200000 →
      (h.rx d).toNat + out ≤ 0x200000 → (h.rx b).toNat % 16 = 0 → (h.rx b).toNat < 0x200000 → (h.core core).eq.length < 8 →
      ∃ u x, exec (.gemb d a b et pool zm nm) s = .next u ∧ u.mem = s.mem ∧ u.hw.st = h.st.fallThrough ∧
        u.hw = { h with strands := u.hw.strands, cores := u.hw.cores, fresh := h.fresh + 1 } ∧
        (∀ k, k ≠ h.cur → u.hw.strand k = h.strand k) ∧ (∀ k, k ≠ core → u.hw.core k = h.core k) ∧
        u.hw.core core = { h.core core with eq := (h.core core).eq ++ [x] } ∧ x.id = h.fresh ∧ x.table = t ∧
        x.idx = (h.rx a).toNat ∧ x.out = (h.rx d).toNat ∧ x.sync = (h.rx b).toNat ∧ x.pool = pool ∧ x.z = z ∧ x.n = n ∧
        x.started = false ∧ x.afterSeq = h.st.fencedSeq ∧ x.afterAcq = h.st.acqSeq) ∧
    Does s (.gstat d clr) h.st.fallThrough [(2, .gstat h.cur h.st.sup d clr)]

/-- R287, R292-R294: a ready intersect unit takes the command in turn and samples one word of it a tick; a histogram that lands
adds to every bin the number of its items, with no word of the bins in error; of a G status that is due
the register write of its tick carries the counts as they stand, and they are cleared. -/
def Sys2Proof.Claims.GatherEvents : Prop :=
  ∀ (s : State) (slot u : Nat), slot < 48 →
    let h := s.hw
    (h.isectReady slot u = false → exec (.intersectStart slot u) s = .next s) ∧
    (∀ core x, h.isectReady slot u = true → h.isectHead slot u = some (core, x) →
      ∃ t, exec (.intersectStart slot u) s = .next t ∧ t.mem = s.mem ∧
        t.hw = { h with cores := t.hw.cores, dies := t.hw.dies, pend := t.hw.pend, seq := t.hw.seq } ∧
        (∀ k, k ≠ core → t.hw.core k = h.core k) ∧
        t.hw.core core = { h.core core with iq := (h.core core).iq.map fun z => if z.id = x.id then { z with started := true } else z } ∧
        (∀ e, e ≠ slot → t.hw.die e = h.die e) ∧
        t.hw.die slot = { h.die slot with intersectFree := (h.die slot).intersectFree.set (Fin.ofNat 4 u) (h.ptick slot + x.w) } ∧
        landings t.hw.pend = landings h.pend ++ ((List.range x.w).map fun j => (j, PendAct.isect core x.id j)).map (inTicksOf h x.strand)) ∧
    (∀ (q : Pend) core base items nb k, q.act = .scatter core base items false nb k → Memory.wf s.mem = true →
      base + 4 * nb + 4 ≤ 0x200000 → (∀ b, b ∈ h.pkg.bad ∨ b ∈ h.pkg.poison → ¬ (spadKey core base < b + wordBytes b ∧ b < spadKey core base + (4 * nb + 4))) →
      let t := s.land q
      t.hw = { h with pkg := t.hw.pkg, dies := t.hw.dies, parts := t.hw.parts } ∧
      t.hw.pkg = { h.pkg with bad := t.hw.pkg.bad, single := t.hw.pkg.single, poison := t.hw.pkg.poison } ∧
      (∀ e, t.hw.die e = { h.die e with arrays := (t.hw.die e).arrays }) ∧
      (∀ p, t.hw.part p = { h.part p with fabs := (t.hw.part p).fabs }) ∧
      (∀ j, j ≤ nb → Memory.readNat t.mem (spadKey core (base + 4 * j)) 4 =
        (Memory.readNat s.mem (spadKey core (base + 4 * j)) 4 + items.countP fun i => min i.1 nb == j) % 2 ^ 32) ∧
      ∀ a, a < spadKey core base ∨ spadKey core base + (4 * nb + 4) ≤ a → Memory.read t.mem a = Memory.read s.mem a) ∧
    ∀ (l : List Pend) (q : Pend) k sup d clr, h.pend = l ++ [q] → q.act = .gstat k sup d clr → h.isDue q.part q = true →
      (∀ p ∈ l, ∀ j e r b, p.act ≠ .mstat j e r b ∧ p.act ≠ .gstat j e r b) →
      let c := coreOf k
      let x := h.core c
      let g := h.statsLand
      g = { h with pend := l ++ [{ q with act := .x k sup d (w64
          (x.eoor * 2 ^ 48 + x.soor * 2 ^ 32 + x.voor * 2 ^ 16 + x.iq.length * 2 ^ 12 + x.eq.length * 2 ^ 8 + x.eexc.toNat : Nat)) }]
                   cores := g.cores } ∧
      g.core c = (if clr then { x with eoor := 0, soor := 0, voor := 0, eexc := 0 } else x) ∧
      ∀ j, j ≠ c → g.core j = h.core j

/-- R286-R299: class G at issue, and its events. -/
def Obligations.GatherUnit : Prop := GatherInstructions ∧ GatherEvents

/-! ### Fabric groups: views, packets, suspicion, time (R267-R285) -/

/-- `t` is `s` with fabric group g of partition p as `f` and nothing else changed. -/
def Sys2Proof.Claims.OneFab (s t : State) (p g : Nat) (f : FabGroup) : Prop :=
  t.mem = s.mem ∧ t.hw = { s.hw with parts := t.hw.parts } ∧ t.hw.fab? p g = some f ∧
  t.hw.part p = { s.hw.part p with fabs := (t.hw.part p).fabs } ∧ (∀ e, e ≠ g → t.hw.fab? p e = s.hw.fab? p e) ∧
  ∀ j, j < 8 → j ≠ p → t.hw.part j = s.hw.part j

/-- The rank is LOST (R281): what has not completed here fails with 0x0502, whatever it was about to report, held packets are dropped,
and the strands of the group's teams are owed the quorum-lost trap. -/
def Sys2Proof.Claims.Lost (s t : State) (p g : Nat) (f : FabGroup) : Prop :=
  t.mem = s.mem ∧
  (∃ f', t.hw.fab? p g = some f' ∧ f'.agent = .lost ∧ f'.view = f.view ∧ f'.members = f.members ∧ f'.held = [] ∧
    f'.colls = f.colls.map fun c => { c with err := 0x0502, errKey := 0, closing := false, ended := false }) ∧
  ∀ k, t.hw.strand k = if k ∈ s.hw.groupStrands p g then { s.hw.strand k with quorumLost := some g } else s.hw.strand k

/-- The rank proposes (R275): the next members are the unsuspected ones with the admitted joiners, and its own accept counts. -/
def Sys2Proof.Claims.Proposes (s t : State) (p g : Nat) (f : FabGroup) (suspects admitted : List Nat) : Prop :=
  t.mem = s.mem ∧ t.hw.strands = s.hw.strands ∧
  ∃ f', t.hw.fab? p g = some f' ∧ f'.agent = .proposing ∧ f'.view = f.view ∧ f'.members = f.members ∧ f'.proposer = f.self ∧
    f'.suspects = suspects ∧ f'.accepts = [(f.self, f.published, f.assigned)] ∧
    ∀ r, r ∈ f'.proposed ↔ (r ∈ f.members ∧ r ∉ suspects) ∨ r ∈ admitted

/-- The rank commits view v (R276, R280, R282): its number and members are installed, the view left is kept with its issue
frontier A (a joiner that last knew an older one takes its members to be the others: the model's choice,
notes/assumptions/45.md), the acknowledgements of joiners are awaited, and the strands of the group's teams are owed the view-change
trap; registers stay, and memory does where no collective is open. -/
def Sys2Proof.Claims.Installs (s t : State) (p g : Nat) (f : FabGroup) (v : BitVec 32) (members : List Nat) (C A : BitVec 32) : Prop :=
  (f.colls = [] → t.mem = s.mem) ∧ t.hw.strands = s.hw.strands ∧
  (∃ f', t.hw.fab? p g = some f' ∧ f'.view = v ∧ f'.members = members ∧ f'.agent = .steady ∧
    f'.past = f.past ++ [(v - 1, if f.self ∈ f.members ∨ f.view + 1 = v then f.members else members.filter (· != f.self), A)] ∧
    f'.lastC = C ∧
    f'.s0 = (if ∃ r ∈ f.awaitAck, r ∈ members then f.s0 else C + 1) ∧
    f'.nextSeq = (if f.self ∈ f.members then f.nextSeq else C + 1) ∧
    ∀ r, r ∈ f'.awaitAck ↔ (r ∈ f.awaitAck ∧ r ∈ members) ∨ (r ∈ members ∧ r ∉ f.members ∧ r ∉ f.acked)) ∧
  ∀ k ∈ s.hw.groupStrands p g, Event.viewChangeTrap k g ∈ t.hw.agenda

/-- R268, R273-R276, R281, R282: the view agent of a rank, state by state. A message goes to a rank of this package as an event
after a free time, to another package as an output (notes/assumptions/26.md). -/
def Obligations.ViewAgents : Prop :=
  ∀ (s : State) (p g : Nat) (f : FabGroup) (view cf af : BitVec 32) (members ranks : List Nat) (rank jp : Nat), p < 8 →
    s.hw.fab? p g = some f →
    let h := s.hw
    let fab := fun (u : FabGroup → FabGroup) => h.updFab p g u
    let member := f.self ∈ f.members
    let tgt := fun (x : Hw) (r : Nat) (mk : Nat → Event) => ({ s with hw := x.sendRank p g r mk } : State)
    -- what sending is
    (∀ pkg q (mk : Nat → Event), f.ranks[rank]? = some (pkg, q) →
      h.sendRank p g rank mk =
        if f.agent = .lost then { h with fresh := h.fresh + 1 }
        else if pkg = h.pkg.pkgId then
          { h with flight := h.flight ++ [(h.wtick + (1 + Config.freeLatency h.fresh), mk q)], fresh := h.fresh + 1 }
        else { h with pkg := { h.pkg with outputs := h.pkg.outputs ++ [.fabric (mk q)] }, fresh := h.fresh + 1 }) ∧
    -- SUSPECT: of another view, none; during a change it is held; a STEADY member reports it, and the coordinator proposes
    (view ≠ f.view → exec (.suspect p g view ranks) s = .next s) ∧
    (f.agent = .proposing ∨ f.agent = .changing →
      ∃ t u, exec (.suspect p g f.view ranks) s = .next t ∧ OneFab s t p g { f with suspects := u } ∧
        ∀ r, r ∈ u ↔ r ∈ f.suspects ∨ (r ∈ ranks ∧ r ∈ f.members ∧ r ≠ f.self)) ∧
    (∀ c, f.agent = .steady → member → rank ∈ f.members → rank ∉ f.suspects → rank ≠ f.self →
      let sus := unionRanks f.suspects [rank]
      ({ f with suspects := sus } : FabGroup).coordinator = some c →
      (c ≠ f.self → exec (.suspect p g f.view [rank]) s =
        .next (tgt (fab fun x => { x with suspects := unionRanks x.suspects [rank] }) c fun q => .suspect q g f.view sus)) ∧
      (c = f.self → ∃ t, exec (.suspect p g f.view [rank]) s = .next t ∧ Proposes s t p g f sus f.admitted)) ∧
    -- PROPOSE
    (view = f.view + 1 ∨ ¬ member →
      (f.agent = .steady ∧ f.self ∈ members) ∨ (f.agent = .proposing ∧ rank < f.self) ∨
        (f.agent = .changing ∧ f.self ∈ members ∧ rank ≤ f.proposer) →
      exec (.propose p g view members rank) s =
        .next (tgt (fab fun x => { x with agent := .changing, proposed := members, proposer := rank, since := h.wtick }) rank fun q =>
          .accept q g view f.self f.published f.assigned)) ∧
    ((f.self ∉ members ∧ f.agent ≠ .proposing) ∨ (f.agent = .proposing ∧ f.self ≤ rank) ∨ (f.agent = .changing ∧ f.proposer < rank) ∨
      (view ≠ f.view + 1 ∧ member) ∨ f.agent = .lost → exec (.propose p g view members rank) s = .next s) ∧
    -- ACCEPT: counted, and with more than half of the members the view is committed
    (f.agent ≠ .proposing ∨ view ≠ f.view + 1 → exec (.accept p g view rank cf af) s = .next s) ∧
    (f.agent = .proposing → (∀ a ∈ f.accepts, a.1 ≠ rank) →
      let all := f.accepts ++ [(rank, cf, af)]
      let counted := all.filter fun a => f.members.contains a.1
      (2 * counted.length ≤ f.members.length →
        ∃ t, exec (.accept p g (f.view + 1) rank cf af) s = .next t ∧ OneFab s t p g { f with accepts := all }) ∧
      (∀ a rest, f.members.length < 2 * counted.length → counted = a :: rest →
        ∃ t, exec (.accept p g (f.view + 1) rank cf af) s = .next t ∧
          Installs s t p g f (f.view + 1) f.proposed (serMax (rest.map (·.2.1)) a.2.1) (serMax (rest.map (·.2.2)) a.2.2))) ∧
    -- COMMIT
    (f.agent = .lost ∨ (view ≠ f.view + 1 ∧ member) → exec (.commit p g view members cf af) s = .next s) ∧
    (f.agent ≠ .lost → view = f.view + 1 ∨ ¬ member → f.self ∉ members →
      ∃ t, exec (.commit p g view members cf af) s = .next t ∧ Lost s t p g f) ∧
    (f.agent = .changing → view = f.view + 1 ∨ ¬ member → f.self ∈ members → f.suspects = [] → (∀ r ∈ f.admitted, r ∈ members) →
      ∃ t, exec (.commit p g view members cf af) s = .next t ∧ Installs s t p g f view members cf af) ∧
    -- JOIN: pending at the coordinator, forwarded to it by any other member; a joiner's acknowledgement
    (f.agent ≠ .lost → rank ∉ f.members →
      (∀ c, f.coordinator = some c → c ≠ f.self →
        exec (.join p g rank jp) s = .next (tgt h c fun q => .join q g rank jp)) ∧
      (f.coordinator = some f.self → ∃ t u, exec (.join p g rank jp) s = .next t ∧ OneFab s t p g { f with joins := u } ∧
        ∀ r, r ∈ u ↔ r ∈ f.joins ∨ r = rank)) ∧
    (rank ∈ f.awaitAck →
      ∃ t, exec (.joinAck p g rank) s = .next t ∧ OneFab s t p g { f with awaitAck := f.awaitAck.filter (· != rank) }) ∧
    (rank ∉ f.awaitAck → rank ∈ f.members → ∃ t, exec (.joinAck p g rank) s = .next t ∧ OneFab s t p g f) ∧
    (rank ∉ f.awaitAck → rank ∉ f.members → ∃ t u, exec (.joinAck p g rank) s = .next t ∧ OneFab s t p g { f with acked := u } ∧
      ∀ r, r ∈ u ↔ r ∈ f.acked ∨ r = rank) ∧
    -- 100 µs without a quorum, and 200 µs without COMMIT
    (f.agent ≠ .proposing → exec (.proposeTimeout p g) s = .next s) ∧
    (f.agent = .proposing → 2 ≤ f.members.length →
      let sus := unionRanks f.suspects (f.members.filter fun r => f.accepts.all fun a => a.1 != r)
      let left := (f.members.filter fun r => !sus.contains r).length
      (2 * left ≤ f.members.length → ∃ t, exec (.proposeTimeout p g) s = .next t ∧ Lost s t p g f) ∧
      (f.members.length < 2 * left → ∃ t, exec (.proposeTimeout p g) s = .next t ∧
        Proposes s t p g f sus (f.admitted.filter fun r => f.accepts.any fun a => a.1 == r))) ∧
    (f.agent ≠ .changing → exec (.commitTimeout p g) s = .next s) ∧
    (∀ c, f.agent = .changing → member → 2 ≤ f.members.length →
      let f1 : FabGroup := { f with agent := .steady, suspects := insertRank f.proposer f.suspects }
      f1.coordinator = some c →
      (c = f.self → ∃ t, exec (.commitTimeout p g) s = .next t ∧ Proposes s t p g f f1.suspects f.admitted) ∧
      (c ≠ f.self → exec (.commitTimeout p g) s =
        .next (tgt (fab fun x => { x with agent := .steady, suspects := insertRank f.proposer x.suspects }) c fun q =>
          .suspect q g f.view f1.suspects)))

/-- A peer package is suspect (R273): every rank of it, in every group whose agent is not LOST; memory and the strands stay. -/
def Sys2Proof.Claims.Suspects (s t : State) (pkg : Nat) : Prop :=
  t.mem = s.mem ∧ t.hw.strands = s.hw.strands ∧
  ∀ p g f, p < 8 → s.hw.fab? p g = some f → f.agent ≠ .lost → f.self ∈ f.members →
    ∃ f', t.hw.fab? p g = some f' ∧ f'.view = f.view ∧ f'.members = f.members ∧
      ∀ (r q : Nat), r ∈ f.members → r ≠ f.self → f.ranks[r]? = some (pkg, q) → r ∈ f'.suspects

/-- R270, R273, R280, R283-R285: packets by their view; what makes a peer suspect; the view-change trap, taken at once by a
strand of a queued kernel that stands in an explicit wait; the states of the clock and what the PTP ports learn. How many Syncs
an acquisition takes is a free value (notes/assumptions/7.md). -/
def Obligations.FabricEvents : Prop :=
  ∀ (s : State) (p g : Nat) (f : FabGroup) (view σ : BitVec 32) (data : List Byte) (sender pkg port n : Nat) (clock : ClockState)
      (origin : BitVec 64), p < 8 → s.hw.fab? p g = some f →
    let h := s.hw
    let k := h.pkg
    let packet := Instr.collectivePacket p g sender view σ data
    let older := 1 ≤ (f.view - view).toNat ∧ (f.view - view).toNat < 2 ^ 31
    (f.agent = .lost ∨ older → ∃ t, exec packet s = .next t ∧ OneFab s t p g f) ∧
    (f.agent ≠ .lost → ¬ older →
      (view ≠ f.view ∨ (∀ c ∈ f.colls, c.seq ≠ σ) →
        ∃ t, exec packet s = .next t ∧ OneFab s t p g { f with held := f.held ++ [(sender, view, σ, data)] }) ∧
      (view = f.view → (∃ c ∈ f.colls, c.seq = σ) → f.taken σ = false → (∀ c ∈ f.colls, ∀ x ∈ c.got, x.1 ≠ sender) →
        ∃ t, exec packet s = .next t ∧
          OneFab s t p g (f.updColl σ fun c => { c with got := c.got ++ [(sender, data)] })) ∧
      (view = f.view → (∃ c ∈ f.colls, c.seq = σ) → f.taken σ = true →
        ∃ t, exec packet s = .next t ∧ OneFab s t p g (f.updColl σ fun c => { c with
          result := match c.result with | some x => if x.1 ≤ sender then some x else some (sender, data) | none => some (sender, data) }))) ∧
    (∃ t, exec (.collectiveNak p g pkg) s = .next t ∧ Suspects s t pkg) ∧
    (∃ t, exec (.heartbeatTimeout pkg) s = .next t ∧ Suspects s t pkg ∧ (amGet t.hw.pkg.peers pkg {}).lost = true) ∧
    (∀ slot, slot < 48 → ∃ t, exec (.heartbeatSend slot) s = .next t ∧
      OnePkg s t { k with outputs := k.outputs ++ (List.range 4).map fun l => .heartbeat slot l k.pkgId k.clock }) ∧
    (clock = .locked ∨ clock = .holdover →
      ∃ t, exec (.heartbeatReceive pkg clock) s = .next t ∧ OnePkg s t { k with peers := t.hw.pkg.peers } ∧
        (amGet t.hw.pkg.peers pkg {}).lastBeat = h.wtick ∧ (amGet t.hw.pkg.peers pkg {}).clock = clock ∧
        (amGet t.hw.pkg.peers pkg {}).lost = false ∧ ∀ j, j ≠ pkg → amGet t.hw.pkg.peers j {} = amGet k.peers j {}) ∧
    (clock = .free ∨ clock = .acquiring → ∃ t, exec (.heartbeatReceive pkg clock) s = .next t ∧ Suspects s t pkg) ∧
    (∀ c, f.colls.find? (fun c => c.seq == σ) = some c →
      let block := c.moves = true ∧ f.receives c f.self = true
      ((∃ x ∈ c.got, x.1 = sender) → ¬ block ∨ h.delivered f c sender = true →
        exec (.ttDeliveryDeadline p g σ sender) s = .next s) ∧
      ((∀ x ∈ c.got, x.1 ≠ sender) ∨ (block ∧ sender ∉ c.placed) → f.agent ≠ .lost → f.self ∈ f.members → sender ∈ f.members → sender ≠ f.self →
        sender < f.ranks.length →
        ∃ t f', exec (.ttDeliveryDeadline p g σ sender) s = .next t ∧ t.mem = s.mem ∧ t.hw.strands = h.strands ∧
          t.hw.fab? p g = some f' ∧ f'.view = f.view ∧ sender ∈ f'.suspects)) ∧
    (∀ i, let st := h.strand i
      let now := h.strictOf (h.partOf (slotOf i)) = false ∧ st.mode = .kernel ∧ st.wait ≠ .none ∧ st.wait ≠ .park ∧
        ∀ a b, st.wait ≠ .space a b
      (¬ now → ∃ t, exec (.viewChangeTrap i g) s = .next t ∧ OneStrand s t i { st with viewTrap := some g }) ∧
      (now → h.partOf (slotOf i) = p → st.hookEn = false →
        ∃ t, exec (.viewChangeTrap i g) s = .next t ∧
          OneStrand s t i { (({ st with viewTrap := none, joined := none } : Strand).enterTrap h.wtick i
            { cause := 0x30, info := g, dcode := f.view.toNat % 65536 }) with nxt := false })) ∧
    -- the clock: a source found and lost; peer delay; the best master
    (k.slavePort ≠ some port → ∃ t, exec (.ptpSync port origin) s = .next t ∧ t = s) ∧
    (k.slavePort = some port → ∃ t, exec (.ptpSync port origin) s = .next t ∧ t.mem = s.mem ∧ t.hw = { h with pkg := t.hw.pkg, fresh := h.fresh + 1 } ∧
      (k.clock = .free → t.hw.pkg.clock = .acquiring) ∧ (k.clock = .locked → t.hw.pkg.clock = .locked) ∧
      (t.hw.pkg.clock = k.clock ∨ t.hw.pkg.clock = .locked ∨ k.clock = .free) ∧
      (amGet t.hw.pkg.ports port {}).lastOrigin = origin ∧
      t.hw.pkg = { k with ports := t.hw.pkg.ports, clock := t.hw.pkg.clock, clockSince := t.hw.pkg.clockSince }) ∧
    (∃ t, exec (.ptpPdelayReq port) s = .next t ∧ OnePkg s t { k with outputs := k.outputs ++ [.ptpPdelayResp port 0x4B] }) ∧
    (∃ t, exec (.ptpPdelayResp port n) s = .next t ∧ OnePkg s t { k with ports := t.hw.pkg.ports } ∧
      (amGet t.hw.pkg.ports port {}).delay = n ∧ ∀ j, j ≠ port → amGet t.hw.pkg.ports j {} = amGet k.ports j {}) ∧
    (∀ (gm : ClockSet) (steps : Nat), ∃ t m, exec (.ptpAnnounce port gm steps) s = .next t ∧
      OnePkg s t { k with ports := t.hw.pkg.ports, grandmaster := some m, slavePort := t.hw.pkg.slavePort } ∧
      (amGet t.hw.pkg.ports port {}).best = some { gm := gm, steps := steps } ∧ (amGet t.hw.pkg.ports port {}).heard = h.wtick ∧
      (∀ j, j ≠ port → amGet t.hw.pkg.ports j {} = amGet k.ports j {}) ∧
      betterMaster { gm := k.ownClock } m = false ∧
      (∀ x ∈ t.hw.pkg.ports, ∀ b, x.2.best = some b → h.wtick ≤ x.2.heard + announceLimit k.mode → betterMaster b m = false) ∧
      (t.hw.pkg.slavePort = none → m = { gm := k.ownClock }) ∧
      ∀ q, t.hw.pkg.slavePort = some q → ∃ x ∈ t.hw.pkg.ports, x.1 = q ∧ x.2.best = some m) ∧
    ((k.clock = .locked ∨ k.clock = .acquiring) →
      ∃ t, exec .timeSourceLoss s = .next t ∧ OnePkg s t { k with clock := .holdover, clockSince := h.wtick }) ∧
    ((k.clock = .holdover ∨ k.clock = .free) → exec .timeSourceLoss s = .next s) ∧
    (k.clock = .holdover → ∃ t, exec .holdoverExpiry s = .next t ∧ OnePkg s t { k with clock := .free, clockSince := h.wtick }) ∧
    (k.clock ≠ .holdover → exec .holdoverExpiry s = .next s)

/-! ### Requests from outside, the tiers, reliability (R388-R396, R398-R413) -/

/-- Die d of `t` is `x`, one output more has left the package, and nothing else changed. -/
def Sys2Proof.Claims.Answers (s t : State) (o : Output) : Prop :=
  OnePkg s t { s.hw.pkg with outputs := s.hw.pkg.outputs ++ [o] }

/-- The ticks of a hold of n ticks that begins now in a strict partition, and none elsewhere: the longer of two holds counts
(R34, R36). -/
def Sys2Proof.Claims.Holds (h h' : Hw) (p n : Nat) : Prop :=
  (h.strictOf p = false → h'.part p = h.part p) ∧
  (h.strictOf p = true → ∃ w, (h'.part p).hold = some ⟨some w⟩ ∧ h.wtick + 1 + n ≤ w ∧
    h'.part p = { h.part p with hold := some ⟨some w⟩ } ∧
    ((h.part p).hold = none → w = h.wtick + 1 + n))

/-- The page of a host window's access is being moved. -/
def Sys2Proof.Claims.heldByMove (s : State) (slot key n : Nat) : Prop := s.inMove (s.hw.partOf slot) key n = true

/-- A request that the tables place comes to a partition (R376, R395). While a table rewrite or a freeze holds the port it waits a
tick; else it is admitted with the table generation of the master, and is served after a free time: `serves gen t` says what
`t` then is. One admitted before, and due, is served with the generation that it carries, though a rewrite waits; in a freeze it
waits on. -/
def Sys2Proof.Claims.Admits (s : State) (p : Nat) (i : Instr) (e : Event) (serves : BitVec 2 → State → Prop) : Prop :=
  let h := s.hw
  let q := h.part p
  let due := fun (a : Nat × Event × BitVec 2) => a.1 ≤ h.wtick ∧ a.2.1 = e
  let gen := (h.die (h.master p)).tgen
  let w := h.wtick + Config.freeLatency h.fresh
  let admitted := fun (t : State) (l : List (Nat × Event × BitVec 2)) (w : Nat) =>
    t.mem = s.mem ∧ t.hw = { h with parts := t.hw.parts, flight := h.flight ++ [(w, e)], fresh := t.hw.fresh } ∧
      t.hw.part p = { q with admitted := l } ∧ ∀ j, j < 8 → j ≠ p → t.hw.part j = h.part j
  ((∀ a ∈ q.admitted, ¬ due a) →
    (h.portHeld p = true → exec i s = .next (s.updHw fun h => h.at (h.wtick + 1) e)) ∧
    (h.portHeld p = false → ∃ t, exec i s = .next t ∧
      if w = h.wtick then serves gen t else admitted t (q.admitted ++ [(w, e, gen)]) w)) ∧
  ∀ l a r, q.admitted = l ++ a :: r → due a → (∀ x ∈ l, ¬ due x) →
    (q.frozen = true → ∃ t, exec i s = .next t ∧ admitted t (l ++ r ++ [(h.wtick + 1, e, a.2.2)]) (h.wtick + 1)) ∧
    (q.frozen = false → ∃ t, exec i s = .next t ∧ serves a.2.2 t)

/-- R388, R389, R95: a line request from another package, admitted and served at the owner: its walk found and its page not
moving, it is turned away without the permission, else it reads, writes or performs its atomic, and answers. One that finds no page
answers with the code; one whose page moves waits; one that meets a die of another table generation than it carries is a
machine check of the partition (R395). A request of this package that has no response in time fails its access with 0x0404. R393,
R425: host accesses to the windows of an LD, those to HBM admitted likewise; there is no completion before the host port is up
(R417). -/
def Obligations.OutsideRequests : Prop :=
  ∀ (s : State) (p va slot off len ident : Nat) (kind : LineOp) (write : Bool) (data : List Byte) (win : HostWindow), p < 8 → slot < 48 →
    let h := s.hw
    let m := h.master p
    let request := Instr.lineRequest p va kind data len ident
    let n := if write then data.length else len
    let same := fun (t : State) => t.hw.strands = h.strands ∧ t.hw.pend = h.pend ∧ t.hw.untimed = h.untimed
    let parts := fun (t : State) => ∀ q, t.hw.part q = { h.part q with fabs := (t.hw.part q).fabs, admitted := (t.hw.part q).admitted }
    let reply := fun (t : State) (c : Nat) (bs : List Byte) => same t ∧ parts t ∧ t.hw.pkg.outputs = h.pkg.outputs ++ [.lineReply ident c bs]
    let hostReply := fun (t : State) (ok : Bool) (bs : List Byte) => same t ∧ parts t ∧ t.hw.pkg.outputs = h.pkg.outputs ++ [.hostData ok bs]
    let waits := fun (t : State) (p : Nat) (e : Event) (gen : BitVec 2) => t.mem = s.mem ∧ same t ∧ parts t ∧ t.hw.pkg = h.pkg ∧
      t.hw.flight = h.flight ++ [(h.wtick + 1, e)] ∧ (h.wtick + 1, e, gen) ∈ (t.hw.part p).admitted
    -- the table-drain machine check, at the master of the partition
    let checks := fun (t : State) (p : Nat) => t.mem = s.mem ∧ same t ∧
      (∃ wc, t.hw.die (h.master p) = ({ h.die (h.master p) with wcache := wc } : Die).note h.wtick ⟨3, 0x0D, 0, 0x0703, none, h.master p⟩) ∧
      ((h.part p).kernel = none → parts t) ∧
      ∀ k, (h.part p).kernel = some k → k.phase ≠ .ending → (h.part p).ending = none → (t.hw.part p).ending = some 0x060C
    let stores := fun (t : State) (key : Nat) (bs : List Byte) =>
      (∀ j, j < bs.length → Memory.read t.mem (key + j) = bs.getD j 0) ∧
      ∀ a, a < key ∨ key + bs.length ≤ a → Memory.read t.mem a = Memory.read s.mem a
    let host := Instr.hostAccess slot win off write data len
    -- a line request at its owner
    let line := fun (gen : BitVec 2) (t : State) =>
      (∀ c, (s.ownerWalk p m va).1 = .error c → t.mem = s.mem ∧ reply t c []) ∧
      ∀ e o, (s.ownerWalk p m va).1 = .ok (e, o) →
        ((∃ x ∈ h.movingIn p, x.2 = e.desc) → waits t p (.lineRequest p va kind data len ident) gen) ∧
        ((∀ x ∈ h.movingIn p, x.2 ≠ e.desc) →
          let pl := (h.die m).placeFrame e false o
          (e.allows (lineNeed kind) = false → t.mem = s.mem ∧ reply t 0x0402 []) ∧
          (e.allows (lineNeed kind) = true →
            (∀ d, pl.die = some d → h.staleAt gen d = true → checks t p) ∧
            ((∀ d, pl.die = some d → h.staleAt gen d = false) →
              (∀ c, h.pieceFails p m pl = some c → t.mem = s.mem ∧ reply t c []) ∧
              (h.pieceFails p m pl = none →
                (kind = .write → reply t 0 [] ∧ stores t pl.key data) ∧
                (kind ≠ .write → h.badAt pl.key len = true → t.mem = s.mem ∧ reply t 0x0403 []) ∧
                (kind = .read → h.badAt pl.key len = false → t.mem = s.mem ∧ reply t 0 (Memory.readBytes s.mem pl.key len)) ∧
                ∀ op, kind = .atomic op → h.badAt pl.key len = false →
                  reply t 0 (Memory.readBytes s.mem pl.key len) ∧
                  stores t pl.key (leBytes len (atomNew op len (leNat (Memory.readBytes s.mem pl.key len)) (leNat (data.take len))
                    (leNat ((data.drop len).take len))))))))
    -- a host access to memory
    let done := fun (key : Nat) (t : State) =>
      (write = true → hostReply t true [] ∧ stores t key data) ∧
      (write = false → h.badAt key n = true → t.mem = s.mem ∧ hostReply t false []) ∧
      (write = false → h.badAt key n = false → t.mem = s.mem ∧ hostReply t true (Memory.readBytes s.mem key n))
    let ev := Event.hostAccess slot win off write data len
    let pw := h.partOf slot
    Memory.wf s.mem = true →
    ((∀ d ∈ h.diesOf p, isSw d = false) → exec request s = .next s) ∧
    ((∃ d ∈ h.diesOf p, isSw d = true) → Admits s p request (.lineRequest p va kind data len ident) line) ∧
    (∀ id u, h.untimed.find? (fun x => x.id == id) = some u →
      ∃ t, exec (.lineRequestTimeout id) s = .next t ∧ t.mem = s.mem ∧
        t.hw = { h with strands := t.hw.strands, dies := t.hw.dies, untimed := h.untimed.filter fun x => x.id != id } ∧
        (∀ k, k ≠ u.strand → t.hw.strand k = h.strand k) ∧
        let old := (h.strand u.strand).token u.sup u.tok
        let new := (t.hw.strand u.strand).token u.sup u.tok
        new.pend = old.pend - 1 ∧ new.err = true ∧ new.code = (if old.err then old.code else 0x0404)) ∧
    ((∀ u ∈ h.untimed, u.id ≠ ident) → exec (.lineRequestTimeout ident) s = .next s) ∧
    -- the host
    (h.pkg.up = false → exec host s = .next s) ∧
    (h.pkg.up = true → populated slot = false ∨ (win = .regs ∧ 0x10000 < off + n) →
      ∃ t, exec host s = .next t ∧ t.mem = s.mem ∧ hostReply t false []) ∧
    (h.pkg.up = true → populated slot = true → win ≠ .regs → win ≠ .config →
      (windowKey slot win off n = none ∨ h.ldUp slot = false → ∃ t, exec host s = .next t ∧ t.mem = s.mem ∧ hostReply t false []) ∧
      (∀ key, windowKey slot win off n = some key → h.ldUp slot = true → pw < 8 →
        (win ≠ .hbm →
          ((h.part pw).frozen = true ∨ heldByMove s slot key n → exec host s = .next (s.updHw fun h => h.at (h.wtick + 1) ev)) ∧
          ((h.part pw).frozen = false → ¬ heldByMove s slot key n → ∃ t, exec host s = .next t ∧ done key t)) ∧
        (win = .hbm → Admits s pw host ev fun gen t =>
          (heldByMove s slot key n → waits t pw ev gen) ∧
          (¬ heldByMove s slot key n → h.staleAt gen slot = true →
            t.hw.pkg.outputs = h.pkg.outputs ++ [.hostData false []] ∧ (isSw (h.master pw) = true → checks t pw)) ∧
          (¬ heldByMove s slot key n → h.staleAt gen slot = false → done key t)))) ∧
    -- the doorbell of a partition master's register BAR, and the acknowledge word
    (h.pkg.up = true → data.length = 8 → isSw slot = true → (h.die slot).mix.bound = true → h.master (h.partOf slot) = slot →
      exec (.hostAccess slot .regs 0x100 true data 0) s =
        .next (s.updHw fun h => h.soon (.launchSubmit (h.partOf slot) (BitVec.ofNat 64 (leNat data)) none))) ∧
    (h.pkg.up = true → populated slot = true → data.length = 8 → exec (.hostAccess slot .regs 0xE008 true data 0) s =
      .next (s.updHw fun h => h.soon (.errorBankAck slot (data.headD 0).toNat)))

/-- R394-R396, R390: what the tiers do between kernels. A table rewrite that has not drained in 2^20 ticks is a machine check of its
partition and refuses the launch that waits for it; a migration is refused unless the partition is idle, and otherwise flips at a later
tick than every earlier flip; the flip turns every brim entry of the descriptor to its other frame; the log is cleared; an FB die enters
self-refresh only when nothing has been outstanding there for 2^20 ticks. Binding and unbinding change the mix entry of the die, and the
requests that wait for it are no longer admitted. -/
def Obligations.TiersAndBinding : Prop :=
  ∀ (s : State) (p slot va : Nat) (desc : W64), p < 8 → slot < 48 →
    let h := s.hw
    let d := h.die slot
    let q := h.part p
    (∀ w, q.rewriteSince = some w → w + 2 ^ 20 ≤ h.wtick → q.kernel = none →
      let x := q.queues.get (Fin.ofNat 4 q.rewritePrio)
      ∃ u : State, u.mem = s.mem ∧ u.hw = { h with dies := u.hw.dies, parts := u.hw.parts } ∧
        u.hw.part p = { q with rewriteSince := none, queues := q.queues.set (Fin.ofNat 4 q.rewritePrio) x.tail } ∧
        (∀ j, j < 8 → j ≠ p → u.hw.part j = h.part j) ∧
        (∀ e, u.hw.die e = if e = h.master p ∧ isSw e = true then (h.die e).note h.wtick ⟨3, 0x0D, 0, 0x0703, none, e⟩ else h.die e) ∧
        exec (.tableDrainTimeout p) s = .next (match x.head? with | none => u | some l => u.refuse p l.packet l.ctx 0x060C)) ∧
    (q.idle = false ∨ Config.slotType slot ≠ .fb ∨ h.inPartition p slot = false →
      exec (.migrationDirect slot p va desc) s = .next s) ∧
    (∀ e n, Config.slotType slot = .fb → h.inPartition p slot = true → q.idle = true → h.portHeld p = false →
      s.readDesc p slot desc.toNat = some e → d.pageAt va = some n →
      let en := e.entry desc.toNat
      en.paired = true → (isNear (en.frame false) && isFar (en.frame true) || isFar (en.frame false) && isNear (en.frame true)) = true →
      h.frameOk d.ilv (en.frame true).toNat n = true →
      ∃ t b, exec (.migrationDirect slot p va desc) s = .next t ∧ t.mem = s.mem ∧ h.wtick + 48 ≤ b ∧ q.lastFlip < b ∧
        t.hw = { h with parts := t.hw.parts, dies := t.hw.dies, fresh := h.fresh + 1
                        flight := h.flight ++ [(b, .migrationPageFlip slot)] } ∧
        t.hw.part p = { q with lastFlip := b } ∧ (∀ j, j < 8 → j ≠ p → t.hw.part j = h.part j) ∧
        t.hw.die slot = { d with moving := d.moving ++ [(va, desc.toNat)] } ∧ ∀ e, e ≠ slot → t.hw.die e = h.die e) ∧
    (d.moving = [] → exec (.migrationPageFlip slot) s = .next s) ∧
    (∀ a rest e n, d.moving = (va, a) :: rest → s.readDesc (h.partOf slot) slot a = some e → d.pageAt va = some n →
      ∃ t, exec (.migrationPageFlip slot) s = .next t ∧ t.hw.strands = h.strands ∧ t.hw.pend = h.pend ∧
        (∀ j, t.hw.part j = { h.part j with fabs := (t.hw.part j).fabs, admitted := (t.hw.part j).admitted }) ∧
        (t.hw.die slot).moving = rest ∧
        ∀ i ∈ h.diesOf (h.partOf slot), ∀ b ∈ (t.hw.die i).brim, ∃ b0 ∈ (h.die i).brim, b0.1 = b.1 ∧
          b.2 = (if b0.2.desc = a ∧ b0.2.paired = true then { b0.2 with p := !b0.2.p } else b0.2)) ∧
    (∃ t, exec (.migrationLogClear slot) s = .next t ∧ OneDie s t slot { d with miglog := [] }) ∧
    (s.canRefreshSelf slot = true → ∃ t, exec (.selfRefreshEntry slot) s = .next t ∧ OneDie s t slot { d with selfRefresh := true }) ∧
    (s.canRefreshSelf slot = false → exec (.selfRefreshEntry slot) s = .next s) ∧
    -- binding
    (h.pkg.up = true → h.pkg.recovery = false → Config.slotType slot ≠ .none →
      let accepted := fun (t : State) (ok : Bool) => t.hw.pkg = { h.pkg with outputs := h.pkg.outputs ++ [.hostData ok []] }
      let here := fun (a : Nat × Event × BitVec 2) => match a.2.1 with | .hostAccess d _ _ _ _ _ => d == slot | _ => false
      let bound := fun (t : State) (b : Bool) (k : Nat) =>
        t.mem = s.mem ∧ t.hw = { h with dies := t.hw.dies, pkg := t.hw.pkg, parts := t.hw.parts } ∧
        (∀ j, j < 8 → t.hw.part j = { h.part j with admitted := (h.part j).admitted.filter fun a => !here a }) ∧
        t.hw.die slot = { d with mix := { d.mix with bound := b, part := k } } ∧ ∀ e, e ≠ slot → t.hw.die e = h.die e
      (h.rebindable slot = true →
        ((h.diesOf p).any isSw = true ∨ isSw slot = false ∨ h.healthy slot = false →
          ∃ t, exec (.bindLd slot p) s = .next t ∧ bound t true p ∧ accepted t true) ∧
        ∃ t, exec (.unbindLd slot) s = .next t ∧ bound t false 0 ∧ accepted t true) ∧
      (h.rebindable slot = false →
        (∃ t, exec (.bindLd slot p) s = .next t ∧ Answers s t (.hostData false [])) ∧
        ∃ t, exec (.unbindLd slot) s = .next t ∧ Answers s t (.hostData false [])))

/-- R398, R400, R402, R404, R405, R411-R413: what keeps the package running. A scrub step records the damaged words it meets and queues
them for write-back, or poisons one that cannot be rebuilt; a write-back that is the scrub's leaves after
1,024 ticks, with a hold of one tick; a seam beat that fails its CRC is sent again a tick later and recorded as corrected, and holds the
strict kernels with a route across the seam for two ticks, and the eighth in a row marks the seam failed with the route-lost machine
check and writes the soft repair maps; a lost die reads failed, loses what it had accepted, and ends its partition's kernel; an acknowledgement clears a bank only with its SEQ, and comes before the events of its
tick, which the bank takes in ascending UNIT and ADDR; a deferred reset of a switch die
keeps or ends each kernel with a route through it, and a forced one ends them all. -/
def Obligations.Reliability : Prop :=
  ∀ (s : State) (slot a b n p : Nat), slot < 48 → p < 8 →
    let h := s.hw
    let d := h.die slot
    let k := h.pkg
    let pass := scrubPass k.mode
    -- scrub and write-back
    (h.scrubHits slot = [] → ∃ t, exec (.scrubStep slot) s = .next t ∧ OneDie s t slot { d with scrub := h.wtick % pass }) ∧
    (∀ w u, k.single = [w] → k.bad = [] → h.scrubHits slot = [(w, u)] → d.wbuf = [] →
      ∃ t, exec (.scrubStep slot) s = .next t ∧
        OneDie s t slot { d.note h.wtick ⟨1, u, w % 2 ^ 60, 0, none, slot⟩ with scrub := h.wtick % pass, wbuf := [(w, h.wtick, true)] }) ∧
    (∀ w u, k.single = [] → k.bad = [w] → h.scrubHits slot = [(w, u)] → h.rebuilds w = false →
      ∃ t, exec (.scrubStep slot) s = .next t ∧ t.mem = s.mem ∧ t.hw = { h with dies := t.hw.dies, pkg := t.hw.pkg } ∧
        t.hw.pkg = { k with bad := [], poison := k.poison ++ [w] } ∧ t.hw.die slot = { d with scrub := h.wtick % pass } ∧
        ∀ e, e ≠ slot → t.hw.die e = h.die e) ∧
    (let out := h.retiring slot
     let stays := fun (w : Nat) => out.all fun e => e.1 != w
     ∃ t, exec (.writebackRetire slot) s = .next t ∧ t.mem = s.mem ∧ t.hw = { h with dies := t.hw.dies, pkg := t.hw.pkg, parts := t.hw.parts } ∧
      t.hw.die slot = { d with wbuf := d.wbuf.filter fun e => stays e.1 } ∧ (∀ e, e ≠ slot → t.hw.die e = h.die e) ∧
      t.hw.pkg = { k with single := k.single.filter stays, bad := k.bad.filter stays } ∧
      ((∀ e ∈ out, e.2.2 = true → h.wtick < e.2.1 + 1024) → t.hw.parts = h.parts) ∧
      ((∃ e ∈ out, e.2.2 = true ∧ e.2.1 + 1024 ≤ h.wtick) → h.partOf slot < 8 → Holds h t.hw (h.partOf slot) 1) ∧
      (∀ e ∈ d.wbuf, e.2.2 = true → e.2.1 + 1024 ≤ h.wtick → ∀ x ∈ (t.hw.die slot).wbuf, x.1 ≠ e.1) ∧
      -- more than four of a bank: the oldest leaves
      ∀ l e r, d.wbuf = l ++ e :: r → (∀ x ∈ l, bankKey x.1 ≠ bankKey e.1) → 4 ≤ r.countP (fun x => bankKey x.1 == bankKey e.1) →
        ∀ x ∈ (t.hw.die slot).wbuf, x.1 ≠ e.1) ∧
    -- a seam
    (let old := amGet k.seamFails (seamKey a b) (0, 0)
     let c := if old.2 = h.wtick ∨ old.2 + 1 = h.wtick then old.1 + 1 else 1
     let crossed := h.someRoute p (crosses a b)
     let x := (pairKey a b).1
     let noted := if Config.slotType x = .none then h.die x else (h.die x).note h.wtick ⟨1, 0x09, seamKey a b, 0, none, x⟩
     ∃ t, exec (.seamCrcFailure a b) s = .next t ∧ t.hw.strands = h.strands ∧ t.hw.pend = h.pend ∧
      amGet t.hw.pkg.seamFails (seamKey a b) (0, 0) = (c, h.wtick) ∧
      (∀ x, x < flashKey 0xF0_0000 ∨ flashKey 0x100_0000 ≤ x → Memory.read t.mem x = Memory.read s.mem x) ∧
      (∀ e, e ≠ x → t.hw.die e = h.die e) ∧
      t.hw.transit = (h.transit.map fun y => match y.hops.head? with
        | some z => if pairKey z.1 z.2 = pairKey a b then { y with ready := max y.ready h.wtick + 1 } else y
        | none => y) ∧
      (crossed = false → t.hw.part p = h.part p) ∧
      (c < 8 → t.mem = s.mem ∧ t.hw.die x = noted ∧ t.hw.flight = h.flight ∧ t.hw.pkg.deadSeams = k.deadSeams ∧
        (crossed = true → Holds h t.hw p 2)) ∧
      (8 ≤ c → pairKey a b ∈ t.hw.pkg.deadSeams ∧
        t.hw.die x = (if Config.slotType x = .none then noted else noted.note h.wtick ⟨3, 0x09, 0, 0x0704, none, x⟩) ∧
        (∀ kn, crossed = true → (h.part p).kernel = some kn → kn.phase ≠ .ending → (h.part p).ending = none →
          (t.hw.part p).ending = some 0x060C ∧ (h.wtick + 1, .kernelEnd p) ∈ t.hw.flight))) ∧
    -- a die
    (d.mix.bound = false ∨ h.healthy slot = false → exec (.dieLost slot) s = .next s) ∧
    (∀ r, d.mix.bound = true → h.healthy slot = true → h.partOf slot = p →
      ({ h with dies := amSet h.dies slot { d with mix := { d.mix with health := .failed } } } : Hw).master p = r → r ≠ slot → isSw r = true →
      ∃ t, exec (.dieLost slot) s = .next t ∧ t.mem = s.mem ∧ (t.hw.die slot).mix = { d.mix with health := .failed } ∧
        t.hw.die r = (h.die r).note h.wtick ⟨3, 0x0D, 0, 0x0705, none, slot⟩ ∧
        (∀ e, e ≠ slot → e ≠ r → t.hw.die e = h.die e) ∧
        (t.hw.die slot).queues = [] ∧ (∀ y ∈ t.hw.transit, y.exe ≠ slot) ∧ (∀ y ∈ t.hw.untimed, slotOf y.strand ≠ slot) ∧
        (∀ j, slotOf j = slot → (t.hw.strand j).status ≠ .running) ∧ (∀ j, slotOf j ≠ slot → t.hw.strand j = h.strand j) ∧
        ((h.part p).kernel = none → t.hw.part p = h.part p) ∧
        (∀ kn, (h.part p).kernel = some kn → kn.phase ≠ .ending → (h.part p).ending = none →
          t.hw.part p = { h.part p with ending := some 0x060C })) ∧
    -- the error bank
    (let clear := fun (x : ErrorBank) => if x.seq = n then { x with sev := 0, ovf := false, lost := 0 } else x
     let first := d.noted = [] ∨ d.notedAt ≠ h.wtick
     (first → ∃ t, exec (.errorBankAck slot n) s = .next t ∧ OneDie s t slot { d with bank := clear d.bank }) ∧
     (¬ first → ∃ t, exec (.errorBankAck slot n) s = .next t ∧
      OneDie s t slot { d with bank := d.noted.foldl (fun y e => y.take h.wtick e) (clear d.bankWas), bankWas := clear d.bankWas }) ∧
     -- events of one tick: in ascending UNIT, then ascending ADDR, whichever comes first
     (∀ x, first → (d.note h.wtick x).bank = d.bank.take h.wtick x ∧ d.note h.wtick x =
        { d with bank := (d.note h.wtick x).bank, noted := [x], notedAt := h.wtick, bankWas := d.bank }) ∧
     ∀ x y, first → x.unit < y.unit ∨ (x.unit = y.unit ∧ x.addr < y.addr) →
       ((d.note h.wtick x).note h.wtick y).bank = (d.bank.take h.wtick x).take h.wtick y ∧
       ((d.note h.wtick y).note h.wtick x).bank = (d.bank.take h.wtick x).take h.wtick y) ∧
    (∀ (x : ErrorBank) (sev wt u ad code det : Nat), sev = 1 ∨ sev = 2 ∨ sev = 3 → x.sev < 4 →
      let y := x.record sev wt u ad code det slot
      let more := Nat.min (x.lost + 1) 0xFFFF
      let takes := x.sev = 0 ∨ (x.sev = 1 ∧ 2 ≤ sev) ∨ (x.sev = 2 ∧ sev = 3)
      (takes → y.seq = (x.seq + 1) % 256 ∧ y.sev = sev ∧ y.wt = wt ∧ y.unit = u ∧ y.addr = ad ∧ y.code = code ∧ y.detail = det ∧
        y.slot = slot) ∧
      (¬ takes → y = { x with lost := y.lost, ovf := y.ovf }) ∧
      (x.lost ≤ 0xFFFF → y.lost = if x.sev = 0 then x.lost else more) ∧
      y.ovf = (x.ovf || decide (2 ≤ x.sev ∧ 2 ≤ sev))) ∧
    -- resets of switch dies
    (d.resetAsked = none → exec (.swResetApply slot) s = .next s ∧ exec (.swResetLimit slot) s = .next s) ∧
    (∀ w, d.resetAsked = some w →
      let health := if d.mix.health = .good then Health.withdrawn else d.mix.health
      let stops := fun (t : State) => (∀ j, slotOf j = slot → (t.hw.strand j).status ≠ .running) ∧
        (∀ j, slotOf j ≠ slot → t.hw.strand j = h.strand j) ∧ (t.hw.die slot).queues = [] ∧ (t.hw.die slot).miglog = d.miglog
      (∃ t, exec (.swResetApply slot) s = .next t ∧ t.mem = s.mem ∧ stops t ∧
        (t.hw.die slot).mix.health = health ∧ (t.hw.die slot).resetAsked = none ∧ (∀ e, e ≠ slot → t.hw.die e = h.die e) ∧
        (h.routeThrough p slot = false → t.hw.part p = h.part p) ∧
        (h.routeThrough p slot = true → h.keeps p slot = true →
          t.hw.part p = { h.part p with routeDies := (h.part p).routeDies.filter (· != slot) }) ∧
        (∀ kn, h.routeThrough p slot = true → h.keeps p slot = false → (h.part p).kernel = some kn → kn.phase ≠ .ending →
          (h.part p).ending = none → t.hw.part p = { h.part p with ending := some 0x0609 })) ∧
      ∃ t, exec (.swResetLimit slot) s = .next t ∧ t.mem = s.mem ∧ stops t ∧
        (t.hw.die slot).mix.health = health ∧ (t.hw.die slot).resetAsked = none ∧ (∀ e, e ≠ slot → t.hw.die e = h.die e) ∧
        (h.routeThrough p slot = false → t.hw.part p = h.part p) ∧
        (∀ kn, h.routeThrough p slot = true → (h.part p).kernel = some kn → kn.phase ≠ .ending → (h.part p).ending = none →
          t.hw.part p = { h.part p with ending := some 0x060C }))

/-! ### Bring-up and management (R414-R425), the graph walker (R353-R355) -/

/-- `t` is `s` with die d as `x`, one reply of the management port more, and nothing else changed. -/
def Sys2Proof.Claims.DieReplies (s t : State) (d : Nat) (x : Die) : Prop :=
  t.mem = s.mem ∧ t.hw = { s.hw with dies := t.hw.dies, pkg := { s.hw.pkg with outputs := s.hw.pkg.outputs ++ [.reply 0x00 []] } } ∧
  t.hw.die d = x ∧ ∀ e, e ≠ d → t.hw.die e = s.hw.die e

/-- R414-R418: package reset, and the steps of the boot that it begins. At reset WTICK is 0, nothing is bound, placed or pending; the
host's memory and the flash are kept, and nothing else of the package's own memory. A step of the boot ends when its time, which is
free, is over: the boot ROM examines bank A, then bank B, and starts the firmware of the one with the higher security version, or
leaves the package in recovery; the soft repair maps are written and nothing else of the flash; seams that do not train are marked;
the mix register stands as self-test leaves each die, unbound, and each die derives the seed of its key; the clock servo starts in FREE;
the ports are released, and the partitions bound by then are brought up. The map that each die holds after self-test is the one in
flash, under its checksum. -/
def Obligations.PackageReset : Prop :=
  ∀ (s : State), Memory.wf s.mem = true →
    let h := s.hw
    let k := h.pkg
    let same := fun (t : State) (a : Nat) => Memory.read t.mem a = Memory.read s.mem a
    (∃ t due, exec .packageReset s = .next t ∧ t.hw.wtick = 0 ∧ t.hw.strands = [] ∧ t.hw.cores = [] ∧ t.hw.pend = [] ∧ t.hw.untimed = [] ∧
      t.hw.agenda = [] ∧ t.hw.flight = [] ∧ t.hw.dies = [] ∧ (∀ p, p < 8 → t.hw.part p = {}) ∧ 0 < due ∧
      t.hw.pkg = { boots := k.boots + 1, pkgId := k.pkgId, outputs := k.outputs, inbox := k.inbox, deadSeams := k.deadSeams
                   repairSeal := k.repairSeal
                   bootStep := 1, bootDue := some due } ∧
      (∀ off, off < 2 ^ 60 → same t (hostKey off) ∧ same t (flashKey off)) ∧
      ∀ (sp u off : Nat), sp = 1 ∨ sp = 2 ∨ sp = 3 ∨ sp = 4 ∨ sp = 5 ∨ sp = 7 ∨ sp = 9 → u < 2 ^ 20 → off < 2 ^ 60 →
        Memory.read t.mem (locKey sp u off) = unlisted) ∧
    (k.bootDue = none → s.bootTick = s) ∧
    ∀ w, k.bootDue = some w → (h.wtick < w → s.bootTick = s) ∧
      (w ≤ h.wtick →
        let t := s.bootTick
        let goes := fun (n : Nat) => t.hw.pkg.bootStep = n ∧ ∃ v, h.wtick < v ∧ t.hw.pkg.bootDue = some v
        let onlyPkg := t.mem = s.mem ∧ t.hw = { h with pkg := t.hw.pkg, fresh := t.hw.fresh }
        (k.bootStep = 1 → k.bootHeads = [] → goes 1 ∧ onlyPkg ∧ t.hw.pkg.bootHeads = [s.image? 0x10_0000 1]) ∧
        (∀ a, k.bootStep = 1 → k.bootHeads = [a] → onlyPkg ∧
          (match chooseBank s.keysHold a (s.image? 0x80_0000 1) with
           | none => t.hw.pkg = { k with recovery := true, bootDue := none, bootHeads := [] }
           | some (b, hd) => goes 2 ∧ t.hw.pkg.bank = b ∧ t.hw.pkg.fwHeader = hd)) ∧
        (k.bootStep = 2 → goes 3 ∧ (∀ off, off < 0xF0_0000 → same t (flashKey off)) ∧
          ∀ d, d < 48 → t.loadMap d = some (t.hw.die d).repair) ∧
        (k.bootStep = 3 → goes 4 ∧ onlyPkg ∧ ∀ e, e ∈ t.hw.pkg.deadSeams ↔ e ∈ bootSeams (k.boots - 1) ∨ e ∈ k.deadSeams) ∧
        (k.bootStep = 4 → goes 5 ∧ t.mem = s.mem ∧
          ∀ d, d < 48 → (t.hw.die d).mix = bootEntry (k.boots - 1) d ∧ (t.hw.die d).mix.bound = false ∧
            (t.hw.die d).repair = (h.die d).repair ∧ (Config.slotType d ≠ .none → (t.hw.die d).seed = s.dieSeed (k.boots - 1) d)) ∧
        (k.bootStep = 5 → goes 6 ∧ onlyPkg ∧ t.hw.pkg.clock = .free) ∧
        (k.bootStep = 6 → (∀ p, p < 8 → ∀ d ∈ h.diesOf p, isSw d = false) →
          t = { s with hw := { h with pkg := { k with bootDue := none } } } ∧ t.hw.pkg.up = true)) ∧
      ∀ x y : List Byte, chooseBank false (some x) (some y) = none ∧ chooseBank true none none = none ∧
        chooseBank true (some x) none = some (0, x) ∧ chooseBank true none (some y) = some (1, y) ∧
        (imageSvn x < imageSvn y → chooseBank true (some x) (some y) = some (1, y)) ∧
        (imageSvn y ≤ imageSvn x → chooseBank true (some x) (some y) = some (0, x))

/-- R43, R377, R390, R398, R416, R419-R424: the messages of the management port, and the package's own events. In recovery it answers
four commands only, and before the mix register is written the others are busy. A reset answers and then resets the package; a reset of a
die is deferred for a SW die on a route of a running kernel, turned away for another bound die, and otherwise empties and stops the die;
freezing and thawing, in which DRAM goes into self-refresh and leaves it; memory and registers are read out, and written by the debugger,
only while they are frozen, and error banks are read out at any time; withdrawing and restoring a die need it unbound; a power-mode
switch takes 2^16 ticks once every partition is idle; flash pages, of which those of a bank cannot be written while the boot reads the
other one. Offsets of the read-out space are the model's (notes/assumptions/28.md). -/
def Obligations.ManagementPort : Prop :=
  ∀ (s : State) (slot p off : Nat) (data : List Byte) (m : PowerMode) (r : XReg), slot < 48 → p < 8 → 1 ≤ s.hw.pkg.bootStep →
    let h := s.hw
    let k := h.pkg
    let d := h.die slot
    let told := fun (i : Instr) (c : Nat) (bs : List Byte) => ∃ t, exec i s = .next t ∧ Answers s t (.reply c bs)
    let sets := fun (i : Instr) (x : Package) =>
      ∃ t, exec i s = .next t ∧ OnePkg s t { x with outputs := k.outputs ++ [.reply 0x00 []] }
    let dies := fun (i : Instr) (x : Die) => ∃ t, exec i s = .next t ∧ DieReplies s t slot x
    let on := 5 ≤ k.bootStep ∧ k.recovery = false
    let refreshes := fun (i : Instr) (b : Bool) (x : Package) => ∃ t, exec i s = .next t ∧ t.mem = s.mem ∧
      t.hw = { h with dies := t.hw.dies, pkg := { x with outputs := k.outputs ++ [.reply 0x00 []] } } ∧
      ∀ e, t.hw.die e = if Config.slotType e = .nb ∨ Config.slotType e = .fb then { h.die e with selfRefresh := b } else h.die e
    let present := Config.slotType slot ≠ .none
    let health := fun (x : Health) => { d with mix := { d.mix with health := x } }
    let inBank := fun (b : Nat) => 0x10_0000 + b * 0x70_0000 ≤ off ∧ off < 0x80_0000 + b * 0x70_0000
    let writable := k.bootStep ≠ 1 ∨ k.bootDue = none ∨ off < 0x10_0000 ∨ 0xF0_0000 ≤ off ∨ (k.bootHeads.length < 2 ∧ inBank k.bootHeads.length)
    told .status 0x00 [BitVec.ofNat 8 k.bootStep, BitVec.ofNat 8 k.bank, BitVec.ofNat 8 k.recovery.toNat, BitVec.ofNat 8 (modeCode k.mode),
      BitVec.ofNat 8 k.frozen.toNat] ∧
    (∃ t, exec .reset s = .next t ∧ t.mem = s.mem ∧
      t.hw = { h with agenda := h.agenda ++ [.packageReset], pkg := { k with outputs := k.outputs ++ [.reply 0x00 []] } }) ∧
    -- a die's reset
    (Config.slotType slot = .none → told (.dieReset slot) 0x03 []) ∧
    (isSw slot = true → h.through slot ≠ [] → dies (.dieReset slot) { d with resetAsked := some h.wtick }) ∧
    (present → (isSw slot = true ∧ h.through slot = []) ∨ (isSw slot = false ∧ d.mix.bound = false) →
      ∃ t, let x := t.hw.die slot
        exec (.dieReset slot) s = .next t ∧ t.mem = s.mem ∧
        t.hw = { h with dies := t.hw.dies, transit := h.transit.filter fun m => m.exe != slot, pkg := t.hw.pkg, cores := t.hw.cores
                        strands := t.hw.strands, untimed := h.untimed.filter fun u => slotOf u.strand != slot } ∧
        t.hw.pkg = { k with graphs := t.hw.pkg.graphs, outputs := k.outputs ++ [.reply 0x00 []] } ∧
        (∀ e, e ≠ slot → t.hw.die e = h.die e) ∧ x.mix = d.mix ∧ x.brim = [] ∧ x.ops = [] ∧ x.wbuf = [] ∧ x.miglog = d.miglog ∧
        x.moving = [] ∧ x.queues = [] ∧ (∀ j, slotOf j = slot → (t.hw.strand j).status ≠ .running) ∧
        ∀ j, slotOf j ≠ slot → t.hw.strand j = h.strand j) ∧
    (present → d.mix.bound = true → isSw slot = false → told (.dieReset slot) 0x01 []) ∧
    -- flash
    (∀ b, b < 2 → k.bootStep = 1 → k.bootDue.isSome = true → k.bootHeads.length = b → inBank (1 - b) → off % 4096 = 0 →
      data.length = 4096 → told (.flashwr off data) 0x01 []) ∧
    (off % 4096 = 0 → off + 4096 ≤ Config.flashSize →
      told (.flashrd off) 0x00 (Memory.readBytes s.mem (flashKey off) 4096) ∧
      (data.length = 4096 → Memory.wf s.mem = true → writable →
        ∃ t, exec (.flashwr off data) s = .next t ∧ t.hw = { h with pkg := { k with outputs := k.outputs ++ [.reply 0x00 []] } } ∧
          (∀ j, j < 4096 → Memory.read t.mem (flashKey off + j) = data.getD j 0) ∧
          ∀ b, b < flashKey off ∨ flashKey off + 4096 ≤ b → Memory.read t.mem b = Memory.read s.mem b)) ∧
    (off % 4096 ≠ 0 ∨ Config.flashSize < off + 4096 → told (.flashrd off) 0x03 [] ∧ told (.flashwr off data) 0x03 []) ∧
    -- before the boot has ended, and in recovery
    (∀ i ∈ [Instr.withdraw slot, .restore slot, .ageing slot, .freeze, .thaw, .resume p, .readout off, .write off data, .setmode m],
      (k.recovery = true → exec i s = .next s) ∧ (k.recovery = false → k.bootStep < 5 → told i 0x01 [])) ∧
    -- dies
    (on → Config.slotType slot = .none → told (.withdraw slot) 0x03 [] ∧ told (.restore slot) 0x03 [] ∧ told (.ageing slot) 0x03 []) ∧
    (on → present → d.mix.bound = true → told (.withdraw slot) 0x01 [] ∧ told (.restore slot) 0x01 []) ∧
    (on → present → d.mix.bound = false →
      dies (.withdraw slot) (health .withdrawn) ∧
      if Config.selfTestFails (k.boots - 1) slot = true then told (.restore slot) 0x02 [] else dies (.restore slot) (health .good)) ∧
    (on → present → told (.ageing slot) 0x00 (leBytes 8 d.ageing.word)) ∧
    (∃ t x, exec (.ageingUpdate slot) s = .next t ∧ t.mem = s.mem ∧ t.hw = { h with dies := t.hw.dies, fresh := h.fresh + 1 } ∧
      t.hw.die slot = { d with ageing := x, hbmFixed := 0 } ∧
      x.hbmt = (if Config.slotType slot = .nb then BitVec.ofNat 16 (Nat.min d.hbmFixed 0xFFFF) else 0) ∧
      (Config.slotType slot ≠ .mx → x.ret = 0) ∧ ∀ e, e ≠ slot → t.hw.die e = h.die e) ∧
    -- freezing, reading out, writing
    (on → k.frozen = false → refreshes .freeze true { k with frozen := true, frozenAt := h.wtick } ∧ sets .thaw k) ∧
    (on → k.frozen = true → sets .freeze k ∧ refreshes .thaw false { k with frozen := false, clock := .acquiring, clockSince := h.wtick }) ∧
    (on → ∃ t, exec (.resume p) s = .next t ∧ t.mem = s.mem ∧
      t.hw = { h with parts := t.hw.parts, pkg := { k with outputs := k.outputs ++ [.reply 0x00 []] } } ∧
      t.hw.part p = { h.part p with thawNext := (h.part p).thawNext || (h.part p).frozen } ∧ ∀ j, j < 8 → j ≠ p → t.hw.part j = h.part j) ∧
    (on → ∀ a, h.frozenKey a = false → told (.readout a) 0x02 [] ∧ told (.write a data) 0x02 []) ∧
    (let plain := fun (b : Nat) => b / 2 ^ 80 ∉ [10, 11, 12, 13, 14, 16, 17]
     on → ∀ a, h.frozenKey a = true → plain a → (∀ j, j < 4096 → plain (a + j)) →
      told (.readout a) 0x00 (Memory.readBytes s.mem a 4096) ∧
      (Memory.wf s.mem = true →
        ∃ t, exec (.write a data) s = .next t ∧ t.hw.strands = h.strands ∧ t.hw.pkg.outputs = k.outputs ++ [.reply 0x00 []] ∧
          (∀ j, j < data.length → Memory.read t.mem (a + j) = data.getD j 0) ∧
          ∀ b, b < a ∨ a + data.length ≤ b → Memory.read t.mem b = Memory.read s.mem b)) ∧
    -- accumulator rows
    (on → ∀ a n, a < 3 → n < 4096 → h.frozenKey (accKey slot a n) = true →
      (∃ bs, told (.readout (accKey slot a n)) 0x00 bs ∧ bs.length = 4096 ∧
        ∀ j, j < 1024 → bs.getD j 0 = BitVec.ofNat 8 (((h.arr slot a).row n).data.toNat / 256 ^ j)) ∧
      (data.length = 1024 → ∃ t, exec (.write (accKey slot a n) data) s = .next t ∧ t.mem = s.mem ∧ t.hw.strands = h.strands ∧
        t.hw.pkg.outputs = k.outputs ++ [.reply 0x00 []] ∧
        (t.hw.arr slot a).row n = { (h.arr slot a).row n with data := BitVec.ofNat 8192 (leNat data) } ∧
        ∀ m, m ≠ n → (t.hw.arr slot a).row m = (h.arr slot a).row m)) ∧
    -- the registers of a strand
    (on → ∀ i, i < 2 ^ 20 → h.frozenKey (regKey i 0) = true →
      ∃ bs, told (.readout (regKey i 0)) 0x00 bs ∧ bs.length = 4096 ∧
        (∀ j, j < 8 → bs.getD (8 * r.val + j) 0 = BitVec.ofNat 8 (((h.strand i).kb.readX r).toNat / 256 ^ j) ∧
          bs.getD (0x100 + 8 * r.val + j) 0 = BitVec.ofNat 8 (((h.strand i).sb.readX r).toNat / 256 ^ j)) ∧
        ∀ j, j < 8 → bs.getD (0x200 + j) 0 = BitVec.ofNat 8 ((h.strand i).pc.toNat / 256 ^ j)) ∧
    (on → ∀ i, i < 2 ^ 20 → h.frozenKey (regKey i (8 * r.val)) = true → data.length = 8 → r ≠ 0 →
      ∃ t, exec (.write (regKey i (8 * r.val)) data) s = .next t ∧ t.mem = s.mem ∧
        t.hw.pkg.outputs = k.outputs ++ [.reply 0x00 []] ∧ (∀ j, j ≠ i → t.hw.strand j = h.strand j) ∧
        t.hw.strand i = { h.strand i with kb := { (h.strand i).kb with x := (h.strand i).kb.x.set r (BitVec.ofNat 64 (leNat data)) } }) ∧
    (on → ∀ i, i < 2 ^ 20 → h.frozenKey (regKey i 0x200) = true → data.length = 8 →
      ∃ t, exec (.write (regKey i 0x200) data) s = .next t ∧ t.mem = s.mem ∧ t.hw.pkg.outputs = k.outputs ++ [.reply 0x00 []] ∧
        (∀ j, j ≠ i → t.hw.strand j = h.strand j) ∧ t.hw.strand i = { h.strand i with pc := w64 (leNat data / 4 * 4 : Nat) }) ∧
    -- the error bank of a die: status and record
    (on → told (.write (locKey 17 slot 0) data) 0x03 [] ∧
      ∃ bs, told (.readout (locKey 17 slot 0)) 0x00 bs ∧ bs.length = 4096 ∧
        (∀ j, j < 8 → bs.getD j 0 = BitVec.ofNat 8 (d.bank.status / 256 ^ j)) ∧
        ∀ j, j < 32 → bs.getD (0x10 + j) 0 = BitVec.ofNat 8 (d.bank.recordWord / 256 ^ j)) ∧
    -- the barriers of a partition's groups, two double words each
    (on → ∀ e n, h.frozenKey (locKey 16 p 0) = true → n < 256 → (h.part p).groups.find? (fun g => g.num == n) = some e →
      ∃ bs, told (.readout (locKey 16 p 0)) 0x00 bs ∧ bs.length = 4096 ∧
        ∀ j, j < 8 → bs.getD (16 * n + j) 0 = BitVec.ofNat 8 ((e.target * 2 ^ 44 + e.count * 2 ^ 24 + e.phase.toNat) / 256 ^ j) ∧
          bs.getD (16 * n + 8 + j) 0 = BitVec.ofNat 8 ((e.err.toNat * 2 ^ 16 + if e.err then e.code.toNat else 0) / 256 ^ j)) ∧
    -- power modes
    (on → sets (.setmode m) { k with modeAsked := some m }) ∧
    (h.canSwitch = false → exec .modeSwitch s = .next s) ∧
    (k.modeAsked = some m → k.modeSwitch = none → (∀ q, q < 8 → (h.part q).idle = true) →
      ∃ t, exec .modeSwitch s = .next t ∧ OnePkg s t { k with mode := m, modeAsked := none, modeSwitch := some (h.wtick + 2 ^ 16) })

/-- R420, R421: identity over MCTP and DOE, of a package whose firmware serves them. What the manual states of an answer is stated here:
the protocol version, what is negotiated, the chain of SW0 and its digest, the measurements, and that the attestation key, SW0's die
key, signs with Ed25519. The layouts are those of SPDM 1.3 and MCTP (PRESUMED, notes/assumptions/20.md); the certificates, the seed of
the key, the nonce of an answer and the earlier transcript are free. -/
def Obligations.Attestation : Prop :=
  ∀ (s : State) (doe : Bool) (n off len : Nat) (nonce : List Byte), 5 ≤ s.hw.pkg.bootStep → s.hw.pkg.recovery = false →
    let h := s.hw
    let said := fun (i : Instr) (type : Nat) (doe : Bool) (bs : List Byte) => ∃ t, exec i s = .next t ∧ t.mem = s.mem ∧
      t.hw = { h with pkg := { h.pkg with outputs := h.pkg.outputs ++ [.message type doe bs] }, fresh := h.fresh + 1 }
    let spdm := fun (i : Instr) (bs : List Byte) => said i 5 doe bs
    let laid := fun (i : Instr) (n : Nat) (at_ : List (Nat × Nat)) => ∃ bs, bs.length = n ∧
      (∀ x ∈ at_, bs.getD x.1 0 = BitVec.ofNat 8 x.2) ∧ spdm i bs
    let error := fun (i : Instr) (code : Nat) => spdm i [0x13, 0x7F, BitVec.ofNat 8 code, 0]
    let signature := fun (purpose : String) (bs : List Byte) =>
      edSign (h.die 0).seed (spdmPrefix purpose ++ sha384 (Config.transcript h.fresh ++ bs))
    let certs := Config.certificates 0 (Memory.readBytes s.mem (flashKey 0x1_0000) 0xF_0000)
    -- MCTP control
    (∃ bs, said (.mctpControl n) 0 false ([0, 0, BitVec.ofNat 8 n] ++ bs)) ∧
    said (.mctpControl 5) 0 false [0, 0, 5, 0, 3, 0x05, 0x07, 0x7F] ∧
    (n = 0 ∨ 6 < n → said (.mctpControl n) 0 false [0, 0, BitVec.ofNat 8 n, 5]) ∧
    -- versions, capabilities, algorithms
    spdm (.getVersion doe) [0x10, 0x04, 0, 0, 0, 1, 0x00, 0x13] ∧
    laid (.getCapabilities doe) 20 [(0, 0x13), (1, 0x61), (9, 0), (10, 0), (11, 0)] ∧
    laid (.negotiateAlgorithms doe) 36 [(0, 0x13), (1, 0x63), (4, 36), (6, 1), (8, 4), (13, 4), (16, 2)] ∧
    -- the chain of SW0: its length, the digest of its root, the certificates; one slot
    (s.chain.drop 52 = certs ∧ s.chain.length = 52 + certs.length ∧ (s.chain.drop 4).take 48 = sha384 (certs.take (derSize certs))) ∧
    spdm (.getDigests doe) ([0x13, 0x01, 1, 1] ++ sha384 s.chain) ∧
    (n ≠ 0 ∨ s.chain.length ≤ off → error (.getCertificate doe n off len) 0x01) ∧
    (off < s.chain.length →
      let bs := (s.chain.drop off).take len
      spdm (.getCertificate doe 0 off len)
        ([0x13, 0x02, 0, 0] ++ bytesLE 2 bs.length ++ bytesLE 2 (s.chain.length - off - bs.length) ++ bs)) ∧
    -- a challenge: its nonce and context are signed with the answer
    (nonce.length = 40 → ∃ own : List Byte, own.length = 32 ∧
      let ans := [0x13, 0x03, 0, 1] ++ sha384 s.chain ++ own ++ [0, 0] ++ nonce.drop 32
      spdm (.challenge doe nonce) (ans ++ signature "responder-challenge_auth signing" ([0x13, 0x83, 0, 0] ++ nonce ++ ans))) ∧
    -- measurements, all of them or one
    (let value : List (List Byte) := [Config.romDigest 2, h.pkg.fwHeader ++ leBytes 4 (imageSvn h.pkg.fwHeader)] ++
       ((List.range 8).map fun p => if (h.part p).supervisor then (h.part p).supHeader else List.replicate 128 0) ++
       [(List.range 48).flatMap fun d => leBytes 4 (h.die d).mix.word]
     let block := fun (i : Nat) => measureBlock (i + 1) (value.getD i [])
     let answers := fun (asked count blocks : Nat) (record : List Byte) => ∃ own : List Byte, own.length = 32 ∧
       let ans := [0x13, 0x60, BitVec.ofNat 8 count, 0] ++
         ([BitVec.ofNat 8 blocks] ++ bytesLE 3 record.length ++ record ++ own ++ [0, 0] ++ List.replicate 8 0)
       spdm (.getMeasurements doe asked) (ans ++ signature "responder-measurements signing" ans)
     answers 0 11 0 [] ∧ answers 0xFF 0 11 ((List.range 11).flatMap block) ∧ (∀ i, i < 11 → answers (i + 1) 0 1 (block i)) ∧
       (11 < n → n ≠ 0xFF → error (.getMeasurements doe n) 0x01))

/-- The context stands at a node of a type that can be read and has no must-be-zero bit set (R354). -/
def Sys2Proof.Claims.AtNode (s : State) (g type : Nat) (n : Node) : Prop :=
  (s.hw.graph g).run = true ∧ s.node? (s.hw.graph g).node = some n ∧ n.mbz = false ∧ n.type = type

/-- `t` is `s` with graph context g as `x`, the outputs `o` more, and nothing else changed but memory. -/
def Sys2Proof.Claims.Graph (s t : State) (g : Nat) (x : GraphCtx) (o : List Output) : Prop :=
  t.hw = { s.hw with pkg := { s.hw.pkg with graphs := t.hw.pkg.graphs, outputs := s.hw.pkg.outputs ++ o } } ∧
  t.hw.graph g = x ∧ ∀ j, j < 16 → j ≠ g → t.hw.graph j = s.hw.graph j

/-- The same where the step also stored to memory. -/
def Sys2Proof.Claims.GraphStores (s t : State) (g : Nat) (x : GraphCtx) : Prop :=
  t.hw = { s.hw with pkg := t.hw.pkg, dies := t.hw.dies, parts := t.hw.parts } ∧
  t.hw.pkg = { s.hw.pkg with graphs := t.hw.pkg.graphs, bad := t.hw.pkg.bad, single := t.hw.pkg.single, poison := t.hw.pkg.poison } ∧
  (∀ d, t.hw.die d = { s.hw.die d with arrays := (t.hw.die d).arrays }) ∧
  (∀ p, t.hw.part p = { s.hw.part p with fabs := (t.hw.part p).fabs }) ∧
  t.hw.graph g = x ∧ ∀ j, j < 16 → j ≠ g → t.hw.graph j = s.hw.graph j

/-- A context that goes on at a node, and one that stops, with the vector it raises (R353). -/
def Sys2Proof.Claims.onTo (x : GraphCtx) (n : Nat) : GraphCtx := { x with node := n, waiting := false, outcome := none, blockedAt := none }
def Sys2Proof.Claims.stopped (x : GraphCtx) : GraphCtx := { x with run := false, waiting := false, outcome := none, blockedAt := none }
def Sys2Proof.Claims.endVector (x : GraphCtx) : List Output := if x.endv = 0xFFFF then [] else [.hostVector x.endv]

/-- R353-R355: the graph walker, node by node. A context that does not run does nothing; a node that cannot be read, has a
must-be-zero bit set or is of another type than the step is a graph fault, as an ALT of 0xFFFF is on every node but LAUNCH. -/
def Obligations.GraphNodes : Prop :=
  ∀ (s : State) (g : Nat) (n : Node), g < 16 →
    let h := s.hw
    let x := h.graph g
    let steps : List (Nat × Instr) := [(0, .endNode g), (1, .launchNode g), (2, .waitvNode g), (2, .waitvTimeout g), (3, .condNode g),
      (4, .whileNode g), (5, .signalNode g), (6, .xferNode g), (7, .hostNode g)]
    -- what a step comes to, memory as it was
    let does := fun (i : Instr) (y : GraphCtx) (o : List Output) => ∃ t, exec i s = .next t ∧ t.mem = s.mem ∧ Graph s t g y o
    let next := fun (i : Instr) => does i (onTo x n.next) []
    let faults := fun (i : Instr) => does i (stopped { x with fault := true }) (endVector x)
    let alt := fun (i : Instr) => (n.alt ≠ 0xFFFF → does i (onTo x n.alt) []) ∧ (n.alt = 0xFFFF → faults i)
    let launchAlt := (n.alt ≠ 0xFFFF → does (.launchNode g) (onTo x n.alt) []) ∧
      (n.alt = 0xFFFF → does (.launchNode g) (stopped { x with refused := true }) (endVector x))
    let word := s.graphWord g n.a8
    let iterAt := graphNodeKey x.node + 56
    let iter := fun (t : State) (v : Nat) => Memory.readNat t.mem iterAt 8 = v % 2 ^ 64 ∧
      ∀ a, a < iterAt ∨ iterAt + 8 ≤ a → Memory.read t.mem a = Memory.read s.mem a
    (∀ e ∈ steps, (x.run = false → exec e.2 s = .next s) ∧
      (x.run = true → (s.node? x.node = none ∨ ∃ y, s.node? x.node = some y ∧ (y.mbz = true ∨ y.type ≠ e.1)) → faults e.2)) ∧
    (AtNode s g 0 n → does (.endNode g) (stopped x) (endVector x)) ∧
    (AtNode s g 7 n → does (.hostNode g) (onTo x n.next) [.hostVector (n.a8 % 2 ^ 16)]) ∧
    -- LAUNCH
    (AtNode s g 1 n → x.waiting = false →
      let asks := fun (t : State) (c : Option Nat) =>
        t.mem = s.mem ∧ t.hw = { h with pkg := t.hw.pkg, agenda := h.agenda ++ [.launchSubmit x.part (BitVec.ofNat 64 n.a8) c] } ∧
        t.hw.pkg = { h.pkg with graphs := t.hw.pkg.graphs } ∧ ∀ j, j < 16 → j ≠ g → t.hw.graph j = h.graph j
      (∀ pk, s.packet? x.part n.a8 = some pk →
        let full := 64 ≤ ((h.part x.part).queues.get (Fin.ofNat 4 pk.prio)).length
        (full → exec (.launchNode g) s = .next s) ∧
        (¬ full → n.a16 % 2 = 0 → ∃ t, exec (.launchNode g) s = .next t ∧ asks t none ∧ t.hw.graph g = onTo x n.next) ∧
        (¬ full → n.a16 % 2 = 1 →
          ∃ t, exec (.launchNode g) s = .next t ∧ asks t (some g) ∧ t.hw.graph g = { x with waiting := true, outcome := none })) ∧
      (s.packet? x.part n.a8 = none → n.alt ≠ 0xFFFF →
        ∃ t, exec (.launchNode g) s = .next t ∧ asks t none ∧ t.hw.graph g = onTo x n.alt)) ∧
    (AtNode s g 1 n → x.waiting = true → (x.outcome = none → exec (.launchNode g) s = .next s) ∧
      (x.outcome = some true → next (.launchNode g)) ∧ (x.outcome = some false → launchAlt)) ∧
    -- WAITV, COND: the word at A; one that is misaligned or cannot be read is a graph fault
    (∀ e ∈ steps, e.1 = 2 ∧ e.2 = .waitvNode g ∨ e.1 = 3 ∨ e.1 = 4 → AtNode s g e.1 n → word = none → faults e.2) ∧
    (∀ w, AtNode s g 2 n → word = some w →
      (graphCmp (n.a32 % 8) (Nat.land w n.a16) n.a24 = some true → next (.waitvNode g)) ∧
      (graphCmp (n.a32 % 8) (Nat.land w n.a16) n.a24 = some false →
        does (.waitvNode g) { x with waiting := true, since := if x.waiting then x.since else h.wtick } [])) ∧
    (∀ a b c, graphCmp c a b =
      let u := BitVec.ofNat 64 a
      let v := BitVec.ofNat 64 b
      if c = 0 then some (decide (u = v)) else if c = 1 then some (decide (u ≠ v))
      else if c = 2 then some (decide (v.toNat ≤ u.toNat)) else if c = 3 then some (decide (u.toNat < v.toNat))
      else if c = 4 then some (decide (v.toInt ≤ u.toInt)) else if c = 5 then some (decide (u.toInt < v.toInt)) else none) ∧
    (AtNode s g 2 n →
      let past := x.waiting = true ∧ n.a40 ≠ 0 ∧ x.since + n.a40 ≤ h.wtick
      (past → alt (.waitvTimeout g)) ∧ (¬ past → exec (.waitvTimeout g) s = .next s)) ∧
    (∀ w, AtNode s g 3 n → word = some w →
      (Nat.land w n.a16 ≠ 0 → next (.condNode g)) ∧ (Nat.land w n.a16 = 0 → alt (.condNode g))) ∧
    -- WHILE: the body while the condition holds and the limit allows, else out, with ITER 0 again
    (∀ w, AtNode s g 4 n → word = some w → Memory.wf s.mem = true →
      let c := Nat.land w n.a16 ≠ 0
      (c → n.iter < n.a24 → n.alt ≠ 0xFFFF →
        ∃ t, exec (.whileNode g) s = .next t ∧ iter t (n.iter + 1) ∧ GraphStores s t g (onTo x n.alt)) ∧
      (c → n.iter < n.a24 → n.alt = 0xFFFF → faults (.whileNode g)) ∧
      (c → n.a24 ≤ n.iter →
        ∃ t, exec (.whileNode g) s = .next t ∧ iter t 0 ∧ GraphStores s t g (onTo { x with limit := true } n.next)) ∧
      (¬ c → ∃ t, exec (.whileNode g) s = .next t ∧ iter t 0 ∧ GraphStores s t g (onTo x n.next))) ∧
    -- SIGNAL
    (AtNode s g 5 n → n.a8 % 8 ≠ 0 ∨ h.launchKey x.part n.a8 8 = none → faults (.signalNode g)) ∧
    (∀ key, AtNode s g 5 n → n.a8 % 8 = 0 → h.launchKey x.part n.a8 8 = some key → Memory.wf s.mem = true →
      ∃ t, exec (.signalNode g) s = .next t ∧ GraphStores s t g (onTo x n.next) ∧
        Memory.readNat t.mem key 8 = n.a16 % 2 ^ 64 ∧
        ∀ a, a < key ∨ key + 8 ≤ a → Memory.read t.mem a = Memory.read s.mem a) ∧
    -- XFER
    (AtNode s g 6 n → x.waiting = false →
      (XOp.ofMajor (n.a40 % 128) = none → alt (.xferNode g)) ∧
      (∀ op, XOp.ofMajor (n.a40 % 128) = some op →
        let exe := n.a8 % 64
        let q := n.a8 / 256 % 16
        (h.xferOk x.part n op = false → alt (.xferNode g)) ∧
        (h.xferOk x.part n op = true → s.xferTurn g exe q = false →
          does (.xferNode g) { x with blockedAt := some (x.blockedAt.getD h.wtick) } []) ∧
        (h.xferOk x.part n op = true → s.xferTurn g exe q = true →
          ∃ t c, exec (.xferNode g) s = .next t ∧ t.mem = s.mem ∧
            t.hw = { h with dies := t.hw.dies, fresh := h.fresh + 1, pkg := { h.pkg with graphs := t.hw.pkg.graphs } } ∧
            (∃ l r, ((h.die exe).queue q).cmds = l ++ r ∧ QueueIs s t exe q { (h.die exe).queue q with cmds := l ++ c :: r } ∧
              ∀ y, r.head? = some y → y.issued = h.wtick ∧ y.strand ≠ walkerKey ∧ walkerKey < y.strand) ∧ c.op = op ∧
            c.d = BitVec.ofNat 64 n.a16 ∧ c.a = BitVec.ofNat 64 n.a24 ∧ c.b = BitVec.ofNat 64 n.a32 ∧ c.part = x.part ∧
            c.ctx = (if n.a48 % 2 = 1 then some g else none) ∧
            t.hw.graph g = if n.a48 % 2 = 1 then { x with waiting := true, outcome := none, blockedAt := none } else onTo x n.next))) ∧
    (AtNode s g 6 n → x.waiting = true → (x.outcome = none → exec (.xferNode g) s = .next s) ∧
      (x.outcome = some true → next (.xferNode g)) ∧ (x.outcome = some false → alt (.xferNode g))) ∧
    -- GO
    (x.run = true → exec (.graphContextStart g) s = .next s) ∧
    (x.run = false → Memory.wf s.mem = true →
      ∃ t, exec (.graphContextStart g) s = .next t ∧ GraphStores s t g { x with run := true, waiting := false, outcome := none } ∧
        (∀ y, s.node? x.node = some y → y.type = 4 → Memory.readNat t.mem iterAt 8 = 0) ∧
        ∀ a, (∀ i y, s.node? i = some y → y.type = 4 → a < graphNodeKey i + 56 ∨ graphNodeKey i + 64 ≤ a) →
          Memory.read t.mem a = Memory.read s.mem a)

/-! ### The machine as a whole -/

/-- R64, R66, R53: rounding m × 2^e to a multiple of 2^q, q above e, gives one of the two neighbours: the nearer one, the even or
the larger of two equally near, the one towards zero, −∞ or +∞, or under SR the upper one exactly when the draw lies below the
fraction; it is inexact exactly when the value is no multiple. A value that a format holds is delivered unchanged, with no
flag, in every mode. -/
def Obligations.Rounding : Prop :=
  (∀ (mode : RMode) (s : Bool) (m u d : Nat) (e : Int), 0 < d →
    let r := roundTo mode s m e false (e + d) u
    let k := m / 2 ^ d
    let rest := m % 2 ^ d
    r.2 = decide (rest ≠ 0) ∧ (rest = 0 → r.1 = k) ∧
    (rest ≠ 0 →
      (mode = .rne → (2 * rest < 2 ^ d → r.1 = k) ∧ (2 ^ d < 2 * rest → r.1 = k + 1) ∧
        (2 * rest = 2 ^ d → r.1 % 2 = 0 ∧ (r.1 = k ∨ r.1 = k + 1))) ∧
      (mode = .rna → r.1 = if 2 ^ d ≤ 2 * rest then k + 1 else k) ∧
      (mode = .rtz → r.1 = k) ∧
      (mode = .rdn → r.1 = if s then k + 1 else k) ∧
      (mode = .rup → r.1 = if s then k else k + 1) ∧
      (mode = .sr → r.1 = if u < rest * 2 ^ 32 / 2 ^ d then k + 1 else k))) ∧
  ∀ (f : FloatFmt) (mode : RMode) (ovf : Bool) (u b : Nat), f = b64 ∨ f = b32 ∨ f = b16 ∨ f = bf16 ∨ f = e4m3 ∨ f = e5m2 →
    b < 2 ^ f.width → (∃ s m e, f.unpack b = .fin s m e) → f.deliver ovf mode u { v := f.unpack b } = (b, 0)

/-- The words of a group decode, on a unit, to an instruction with its S bit. -/
def Sys2Proof.Claims.decodes (u : UnitClass) (sup : Bool) (ws : List Nat) (sync : Bool) (i : Instr) : Prop :=
  decodeGroup u sup (codeOf ws) 0 = .group ⟨sync, i⟩ (4 * ws.length) (if i.pfx?.isSome then 4 else 0)

/-- R125-R149 on words that the spec writes out, and on words built from its layouts: what each decodes to, and what is
refused (R6, R134, R136, R194). -/
def Obligations.DecodeSamples : Prop :=
  decodes .v false [0x0D200001, 0x00004000] false (.li 4 0x4000) ∧
  decodes .v false [0x03283FF0] false (.addi 5 0 (-1) none) ∧
  decodes .v false [0x22000041, 0x00000008] false (.loopi 0 4 8) ∧
  decodes .v false [0x2D310000] false (.ldZ32 6 4 0) ∧
  decodes .v false [0x04000002, 0x01294E08] false (.add 5 5 7 (some ⟨0, 1, false, false, 0⟩)) ∧
  decodes .v false [0x19280020] false (.bne 5 0 2) ∧
  decodes .v false [0x32281000] false (.st64 5 0 256) ∧
  decodes .v false [0x44000010] false .retire ∧
  decodes .seq false [0x11190011, 0x0000023C] false (.bextiS 3 4 8 60) ∧
  decodes .m false [0x3E0000D0] false (.fence 3 1) ∧
  decodes .m false [0x40025820] false (.barrw 9 12) ∧
  decodes .m false [0x46280080] false (.csrr 5 0x008) ∧
  decodes .m true [0x46288010] false (.csrr 5 0x801) ∧
  decodes .m false [0x43024001, 0x80298E00] false (.enq 9 ⟨.copy, 5, 6, 7⟩) ∧
  decodes .g false [0x80121001, 0x00002F00] false (.vld 1 4 2 2 15) ∧
  decodes .v false [0x88123B04] true (.vadd 1 2 3 (some 3) none) ∧
  decodes .m false [0xE4298810] false (.mread 5 6 2 false false none) ∧
  decodes .g false [0xE1298E00] false (.gbmand 5 6 7) ∧
  decodes .seq false [0x80298E00] false (.copy 5 6 7) ∧
  decodes .m true [0x00000030] false .sret ∧
  decodeGroup .m false (codeOf [0x00000030]) 0 = .fault .illegal ∧
  decodeGroup .m false (codeOf [0xFFFFFFFF]) 0 = .fault .illegal ∧
  decodeGroup .m false (codeOf [0x00000002, 0x00000000]) 0 = .fault .orphan ∧
  decodeGroup .m false (codeOf [0x01294E08]) 0 = .fault .unbound ∧
  decodeGroup .m false (codeOf [0x0D200001]) 0 = .fault .outsideSecond ∧
  decodeGroup .m false (codeOf []) 0 = .fault .outside ∧
  decodeGroup .m false (codeOf [0x01000120]) 0 = .fault .reserved

/-- R125-R149: the decoder reads back what the encoder writes: every well-formed group, of a class that its unit runs, and in
supervisor mode for the two instructions that exist only there. -/
def Obligations.DecodeReadsEncode : Prop :=
  ∀ (g : Group) (u : UnitClass) (sup : Bool) (ws : List Nat), encode g = some ws → g.instr.wf = true →
    g.instr.cls.runsOn u = true → (g.instr = .sret ∨ g.instr = .wcinv → sup = true) →
    (g.instr.cls = .transfer → g.sync = false) →
    decodes u sup ws g.sync g.instr

/-- Strand k issues the group at its program counter (R136, R140, R365): the instruction that its bytes decode to is executed, in the state
where that strand is the current one and the extent of its group is noted; a decode fault, and the two checks that come before a
group's own effect, are traps; in a hook a group that touches a frozen write or occupancy has an undefined effect. -/
def Sys2Proof.Claims.Issues (s : State) (k : Nat) (o : Host.Outcome State Fault Refusal) : Prop :=
  (∀ g len pre, fetch s.mem s.hw k = .group g len pre →
    let s2 := (s.foresee k g.instr).issuing k len pre
    (s2.hw.before k g.instr = none → s2.hw.clashes g.instr = false → o = exec g.instr s2) ∧
    (s2.hw.before k g.instr = none → s2.hw.clashes g.instr = true → o = .next (s2.updHw Hw.undefined)) ∧
    (∀ x, s2.hw.before k g.instr = some x → o = .next (s2.updHw fun h => h.trap x))) ∧
  ∀ f, fetch s.mem s.hw k = .fault f → o =
    .next ((s.issuing k (groupLen (codeWord s.mem s.hw k) (s.hw.strand k).pc.toNat) 0).updHw fun h => h.trap (DecodeFault.trap f))

/-- The members of a bundle issue their words one after another in one tick: `t` is what they come to. -/
def Sys2Proof.Claims.LockStep (s : State) : List Nat → State → Prop
  | [], t => t = s
  | k :: ks, t => ∃ u, Issues (s.updHw fun h => h.updStrand k fun st => { st with wait := .none }) k (.next u) ∧ LockStep u ks t

/-- R26-R29, R34, R136, R140: what one step is. An event on the agenda happens; else, in a tick whose phases are done, the next
strand in turn issues the group at its program counter when it can. A `lease` of a strict kernel waits for the other strands of its
tick (R252). A strand that cannot issue does nothing, and with no strand left the tick ends. At a word with the S bit set the members of
the bundle issue in lock step, in the tick in which all of them are ready: all their words take effect, or none does, where one traps,
which is a trap or a bundle abort of every member, or where one finds no room, when all wait (R29). The order is the model's
(notes/assumptions/9.md). -/
def Obligations.StepRunsDecodedInstruction : Prop :=
  ∀ (s : State), s.hw.pkg.frozen = false →
    let h := s.hw
    let turns := h.agenda = [] ∧ 9 ≤ h.phase
    (∀ e rest, h.agenda = e :: rest → step s = exec e.toInstr { s with hw := { h with agenda := rest } }) ∧
    (∀ k rest, turns → h.todo = k :: rest →
      let s1 : State := { s with hw := { h with todo := rest } }
      let st := h.strand k
      let lost := st.quorumLost.isSome = true ∧ st.mode = .kernel
      let view := st.viewTrap.isSome = true ∧ st.mode = .kernel ∧ st.inTrap = false ∧ h.strictOf (h.partOf (slotOf k)) = false
      (h.canIssue k = false → step s = .next s1) ∧
      (h.canIssue k = true → yields k s1 = true → step s = .next { s with hw := { h with todo := rest ++ [k] } }) ∧
      (h.canIssue k = true → yields k s1 = false → (h.member k = false ∨ nextSync s.mem h k = false) → ¬ lost →
        (∀ g len pre, fetch s.mem h k = .group g len pre → view → isExplicitWait g.instr = false) → Issues s1 k (step s))) ∧
    -- a complete rendezvous: the bundle
    (∀ k rest, turns → h.todo = k :: rest →
      let s1 : State := { s with hw := { h with todo := rest } }
      let ms := h.members k
      let s0 : State := { s with hw := { h with todo := rest.filter fun i => !ms.contains i } }
      h.canIssue k = true → yields k s1 = false → h.member k = true → nextSync s.mem h k = true →
      (∀ i ∈ ms, s1.hw.joins s.mem k i = true ∧ h.owesLost i = false ∧ h.owesView i = false) →
      ∀ t, LockStep s0 ms t →
        ∃ u, step s = .next u ∧
          let trapped := fun (i : Nat) => (t.hw.strand i).mode = .supervisor ∨ (t.hw.strand i).held.isSome = true
          let full := fun (i : Nat) => ∃ a b, (t.hw.strand i).wait = .space a b
          let lined := ∃ q ∈ t.hw.pend, q.act.isLining = true ∧ h.seq ≤ q.seq
          (∀ j, j ∉ ms → (∃ i ∈ ms, trapped i ∨ full i) → u.hw.strand j = h.strand j) ∧
          -- none: a trap of one is a trap of all, at their groups
          ((∀ i ∈ ms, (t.hw.strand i).held = none) → ∀ c l r, ms = l ++ c :: r → (t.hw.strand c).mode = .supervisor →
            (∀ i ∈ l, (t.hw.strand i).mode = .kernel) →
            u.mem = s.mem ∧ u.hw.pend = h.pend ∧ u.hw.cores = h.cores ∧
            ∀ i ∈ ms, let old := h.strand i
              let x := u.hw.strand i
              x.mode = .supervisor ∧ x.sepc = old.pc ∧ x.pc = old.svec ∧ x.kb = old.kb ∧ x.v = old.v ∧ x.bnd = true ∧
                ((t.hw.strand i).mode = .supervisor → x.cause = (t.hw.strand i).cause ∧ x.info = (t.hw.strand i).info) ∧
                ((t.hw.strand i).mode = .kernel → x.cause = 0x0C ∧ x.clu = BitVec.ofNat 2 (clusterOf c))) ∧
          -- none: without room the bundle waits
          ((∀ i ∈ ms, ¬ trapped i) → (∃ i ∈ ms, full i) →
            u.mem = s.mem ∧ u.hw.pend = h.pend ∧ u.hw.cores = h.cores ∧
            ∀ i ∈ ms, (u.hw.strand i).wait ≠ .none ∧ u.hw.strand i = { h.strand i with wait := (u.hw.strand i).wait }) ∧
          -- all
          ((∀ i ∈ ms, ¬ trapped i ∧ ¬ full i) → ¬ lined →
            u.mem = t.mem ∧ u.hw.pend = t.hw.pend ∧ u.hw.untimed = t.hw.untimed ∧ u.hw.dies = t.hw.dies ∧
            ((∀ i ∈ ms, (t.hw.strand i).wait = .none ∧ (t.hw.strand i).stub = (h.strand i).stub ∧
                (t.hw.strand i).viewTrap = none) → u = t))) ∧
    (turns → h.todo = [] → step s = .next s.endTick) ∧
    -- what is fetched, and what issuing notes
    (∀ k, fetch s.mem h k = decodeGroup (h.strand k).unit (h.strand k).sup (codeWord s.mem h k) (h.strand k).pc.toNat) ∧
    (∀ k a, let st := h.strand k
      st.mode = .kernel → st.codeLen ≠ 0 → codeWord s.mem h k a =
        if st.codeStart ≤ a ∧ a + 4 ≤ st.codeStart + st.codeLen then
          some (Memory.readNat s.mem (codeKey (h.partOf (slotOf k)) a) 4) else none) ∧
    ∀ k len pre, let t := s.issuing k len pre
      t.mem = s.mem ∧ t.hw = { h with cur := k, strands := t.hw.strands } ∧ (∀ j, j ≠ k → t.hw.strand j = h.strand j) ∧
        t.hw.strand k = { h.strand k with glen := len, gpre := pre, gsync := nextSync s.mem h k }

/-- What every state that a step reaches keeps: memory in canonical form, one entry for each byte that differs from what an unlisted
byte reads as (R79; the model's form of memory). -/
def Obligations.StepKeepsMemoryCanonical : Prop := ∀ (s t : State), s.Canonical → step s = .next t → t.Canonical

/-- R417, R128: right after reset the memory is in canonical form, WTICK is 0, nothing is placed, bound or pending, every x register
reads 0, and the boot sequence is the next step. The reset values that the spec does not give are the model's
(notes/assumptions/8.md). -/
def Obligations.ResetState : Prop :=
  let s := State.reset
  s.Canonical ∧ s.hw.wtick = 0 ∧ s.hw.pend = [] ∧ s.hw.untimed = [] ∧ s.hw.flight = [] ∧ s.hw.pkg.mode = .full ∧
    s.hw.pkg.frozen = false ∧
    (∀ k, (s.hw.strand k).status = .idle ∧ (s.hw.strand k).mode = .kernel ∧ (s.hw.strand k).flags = 0 ∧
      (s.hw.strand k).rndm = 1 ∧ ∀ r, (s.hw.strand k).bank.readX r = 0) ∧
    (∀ d, (s.hw.die d).mix.bound = false) ∧ (∀ p, p < 8 → (s.hw.part p).kernel = none) ∧
    step s = exec .packageReset { s with hw := { s.hw with agenda := [] } }
end

