-- ==== Sys2Proof/Laws/State.lean ====
section
/-! SUPPORT. What each named update of the state leaves as it was: one lemma per field, by computation. -/
namespace Sys2Proof.Machine
open Sys2Proof

@[simp] theorem Hw.setStrand_wtick (h : Hw) (i : Nat) (st : Strand) : (h.setStrand i st).wtick = h.wtick := rfl
@[simp] theorem Hw.setStrand_ftime (h : Hw) (i : Nat) (st : Strand) : (h.setStrand i st).ftime = h.ftime := rfl
@[simp] theorem Hw.setStrand_fsub (h : Hw) (i : Nat) (st : Strand) : (h.setStrand i st).fsub = h.fsub := rfl
@[simp] theorem Hw.setStrand_fresh (h : Hw) (i : Nat) (st : Strand) : (h.setStrand i st).fresh = h.fresh := rfl
@[simp] theorem Hw.setStrand_seq (h : Hw) (i : Nat) (st : Strand) : (h.setStrand i st).seq = h.seq := rfl
@[simp] theorem Hw.setStrand_cur (h : Hw) (i : Nat) (st : Strand) : (h.setStrand i st).cur = h.cur := rfl
@[simp] theorem Hw.setStrand_agenda (h : Hw) (i : Nat) (st : Strand) : (h.setStrand i st).agenda = h.agenda := rfl
@[simp] theorem Hw.setStrand_phase (h : Hw) (i : Nat) (st : Strand) : (h.setStrand i st).phase = h.phase := rfl
@[simp] theorem Hw.setStrand_todo (h : Hw) (i : Nat) (st : Strand) : (h.setStrand i st).todo = h.todo := rfl
@[simp] theorem Hw.setStrand_flight (h : Hw) (i : Nat) (st : Strand) : (h.setStrand i st).flight = h.flight := rfl
@[simp] theorem Hw.setStrand_pend (h : Hw) (i : Nat) (st : Strand) : (h.setStrand i st).pend = h.pend := rfl
@[simp] theorem Hw.setStrand_untimed (h : Hw) (i : Nat) (st : Strand) : (h.setStrand i st).untimed = h.untimed := rfl
@[simp] theorem Hw.setStrand_transit (h : Hw) (i : Nat) (st : Strand) : (h.setStrand i st).transit = h.transit := rfl
@[simp] theorem Hw.setStrand_cores (h : Hw) (i : Nat) (st : Strand) : (h.setStrand i st).cores = h.cores := rfl
@[simp] theorem Hw.setStrand_dies (h : Hw) (i : Nat) (st : Strand) : (h.setStrand i st).dies = h.dies := rfl
@[simp] theorem Hw.setStrand_parts (h : Hw) (i : Nat) (st : Strand) : (h.setStrand i st).parts = h.parts := rfl
@[simp] theorem Hw.setStrand_pkg (h : Hw) (i : Nat) (st : Strand) : (h.setStrand i st).pkg = h.pkg := rfl
@[simp] theorem Hw.setStrand_soAhead (h : Hw) (i : Nat) (st : Strand) : (h.setStrand i st).soAhead = h.soAhead := rfl

@[simp] theorem Hw.setCore_wtick (h : Hw) (c : Nat) (x : Core) : (h.setCore c x).wtick = h.wtick := rfl
@[simp] theorem Hw.setCore_ftime (h : Hw) (c : Nat) (x : Core) : (h.setCore c x).ftime = h.ftime := rfl
@[simp] theorem Hw.setCore_fsub (h : Hw) (c : Nat) (x : Core) : (h.setCore c x).fsub = h.fsub := rfl
@[simp] theorem Hw.setCore_fresh (h : Hw) (c : Nat) (x : Core) : (h.setCore c x).fresh = h.fresh := rfl
@[simp] theorem Hw.setCore_seq (h : Hw) (c : Nat) (x : Core) : (h.setCore c x).seq = h.seq := rfl
@[simp] theorem Hw.setCore_cur (h : Hw) (c : Nat) (x : Core) : (h.setCore c x).cur = h.cur := rfl
@[simp] theorem Hw.setCore_agenda (h : Hw) (c : Nat) (x : Core) : (h.setCore c x).agenda = h.agenda := rfl
@[simp] theorem Hw.setCore_phase (h : Hw) (c : Nat) (x : Core) : (h.setCore c x).phase = h.phase := rfl
@[simp] theorem Hw.setCore_todo (h : Hw) (c : Nat) (x : Core) : (h.setCore c x).todo = h.todo := rfl
@[simp] theorem Hw.setCore_flight (h : Hw) (c : Nat) (x : Core) : (h.setCore c x).flight = h.flight := rfl
@[simp] theorem Hw.setCore_pend (h : Hw) (c : Nat) (x : Core) : (h.setCore c x).pend = h.pend := rfl
@[simp] theorem Hw.setCore_untimed (h : Hw) (c : Nat) (x : Core) : (h.setCore c x).untimed = h.untimed := rfl
@[simp] theorem Hw.setCore_transit (h : Hw) (c : Nat) (x : Core) : (h.setCore c x).transit = h.transit := rfl
@[simp] theorem Hw.setCore_strands (h : Hw) (c : Nat) (x : Core) : (h.setCore c x).strands = h.strands := rfl
@[simp] theorem Hw.setCore_dies (h : Hw) (c : Nat) (x : Core) : (h.setCore c x).dies = h.dies := rfl
@[simp] theorem Hw.setCore_parts (h : Hw) (c : Nat) (x : Core) : (h.setCore c x).parts = h.parts := rfl
@[simp] theorem Hw.setCore_pkg (h : Hw) (c : Nat) (x : Core) : (h.setCore c x).pkg = h.pkg := rfl
@[simp] theorem Hw.setCore_soAhead (h : Hw) (c : Nat) (x : Core) : (h.setCore c x).soAhead = h.soAhead := rfl

@[simp] theorem Hw.setDie_wtick (h : Hw) (d : Nat) (x : Die) : (h.setDie d x).wtick = h.wtick := rfl
@[simp] theorem Hw.setDie_ftime (h : Hw) (d : Nat) (x : Die) : (h.setDie d x).ftime = h.ftime := rfl
@[simp] theorem Hw.setDie_fsub (h : Hw) (d : Nat) (x : Die) : (h.setDie d x).fsub = h.fsub := rfl
@[simp] theorem Hw.setDie_fresh (h : Hw) (d : Nat) (x : Die) : (h.setDie d x).fresh = h.fresh := rfl
@[simp] theorem Hw.setDie_seq (h : Hw) (d : Nat) (x : Die) : (h.setDie d x).seq = h.seq := rfl
@[simp] theorem Hw.setDie_cur (h : Hw) (d : Nat) (x : Die) : (h.setDie d x).cur = h.cur := rfl
@[simp] theorem Hw.setDie_agenda (h : Hw) (d : Nat) (x : Die) : (h.setDie d x).agenda = h.agenda := rfl
@[simp] theorem Hw.setDie_phase (h : Hw) (d : Nat) (x : Die) : (h.setDie d x).phase = h.phase := rfl
@[simp] theorem Hw.setDie_todo (h : Hw) (d : Nat) (x : Die) : (h.setDie d x).todo = h.todo := rfl
@[simp] theorem Hw.setDie_flight (h : Hw) (d : Nat) (x : Die) : (h.setDie d x).flight = h.flight := rfl
@[simp] theorem Hw.setDie_pend (h : Hw) (d : Nat) (x : Die) : (h.setDie d x).pend = h.pend := rfl
@[simp] theorem Hw.setDie_untimed (h : Hw) (d : Nat) (x : Die) : (h.setDie d x).untimed = h.untimed := rfl
@[simp] theorem Hw.setDie_transit (h : Hw) (d : Nat) (x : Die) : (h.setDie d x).transit = h.transit := rfl
@[simp] theorem Hw.setDie_strands (h : Hw) (d : Nat) (x : Die) : (h.setDie d x).strands = h.strands := rfl
@[simp] theorem Hw.setDie_cores (h : Hw) (d : Nat) (x : Die) : (h.setDie d x).cores = h.cores := rfl
@[simp] theorem Hw.setDie_parts (h : Hw) (d : Nat) (x : Die) : (h.setDie d x).parts = h.parts := rfl
@[simp] theorem Hw.setDie_pkg (h : Hw) (d : Nat) (x : Die) : (h.setDie d x).pkg = h.pkg := rfl
@[simp] theorem Hw.setDie_soAhead (h : Hw) (d : Nat) (x : Die) : (h.setDie d x).soAhead = h.soAhead := rfl

@[simp] theorem Hw.setPart_wtick (h : Hw) (p : Nat) (x : Part) : (h.setPart p x).wtick = h.wtick := rfl
@[simp] theorem Hw.setPart_ftime (h : Hw) (p : Nat) (x : Part) : (h.setPart p x).ftime = h.ftime := rfl
@[simp] theorem Hw.setPart_fsub (h : Hw) (p : Nat) (x : Part) : (h.setPart p x).fsub = h.fsub := rfl
@[simp] theorem Hw.setPart_fresh (h : Hw) (p : Nat) (x : Part) : (h.setPart p x).fresh = h.fresh := rfl
@[simp] theorem Hw.setPart_seq (h : Hw) (p : Nat) (x : Part) : (h.setPart p x).seq = h.seq := rfl
@[simp] theorem Hw.setPart_cur (h : Hw) (p : Nat) (x : Part) : (h.setPart p x).cur = h.cur := rfl
@[simp] theorem Hw.setPart_agenda (h : Hw) (p : Nat) (x : Part) : (h.setPart p x).agenda = h.agenda := rfl
@[simp] theorem Hw.setPart_phase (h : Hw) (p : Nat) (x : Part) : (h.setPart p x).phase = h.phase := rfl
@[simp] theorem Hw.setPart_todo (h : Hw) (p : Nat) (x : Part) : (h.setPart p x).todo = h.todo := rfl
@[simp] theorem Hw.setPart_flight (h : Hw) (p : Nat) (x : Part) : (h.setPart p x).flight = h.flight := rfl
@[simp] theorem Hw.setPart_pend (h : Hw) (p : Nat) (x : Part) : (h.setPart p x).pend = h.pend := rfl
@[simp] theorem Hw.setPart_untimed (h : Hw) (p : Nat) (x : Part) : (h.setPart p x).untimed = h.untimed := rfl
@[simp] theorem Hw.setPart_transit (h : Hw) (p : Nat) (x : Part) : (h.setPart p x).transit = h.transit := rfl
@[simp] theorem Hw.setPart_strands (h : Hw) (p : Nat) (x : Part) : (h.setPart p x).strands = h.strands := rfl
@[simp] theorem Hw.setPart_cores (h : Hw) (p : Nat) (x : Part) : (h.setPart p x).cores = h.cores := rfl
@[simp] theorem Hw.setPart_dies (h : Hw) (p : Nat) (x : Part) : (h.setPart p x).dies = h.dies := rfl
@[simp] theorem Hw.setPart_pkg (h : Hw) (p : Nat) (x : Part) : (h.setPart p x).pkg = h.pkg := rfl
@[simp] theorem Hw.setPart_soAhead (h : Hw) (p : Nat) (x : Part) : (h.setPart p x).soAhead = h.soAhead := rfl

@[simp] theorem Hw.updStrand_wtick (h : Hw) (i : Nat) (f : Strand → Strand) : (h.updStrand i f).wtick = h.wtick := rfl
@[simp] theorem Hw.updStrand_ftime (h : Hw) (i : Nat) (f : Strand → Strand) : (h.updStrand i f).ftime = h.ftime := rfl
@[simp] theorem Hw.updStrand_fsub (h : Hw) (i : Nat) (f : Strand → Strand) : (h.updStrand i f).fsub = h.fsub := rfl
@[simp] theorem Hw.updStrand_fresh (h : Hw) (i : Nat) (f : Strand → Strand) : (h.updStrand i f).fresh = h.fresh := rfl
@[simp] theorem Hw.updStrand_seq (h : Hw) (i : Nat) (f : Strand → Strand) : (h.updStrand i f).seq = h.seq := rfl
@[simp] theorem Hw.updStrand_cur (h : Hw) (i : Nat) (f : Strand → Strand) : (h.updStrand i f).cur = h.cur := rfl
@[simp] theorem Hw.updStrand_agenda (h : Hw) (i : Nat) (f : Strand → Strand) : (h.updStrand i f).agenda = h.agenda := rfl
@[simp] theorem Hw.updStrand_phase (h : Hw) (i : Nat) (f : Strand → Strand) : (h.updStrand i f).phase = h.phase := rfl
@[simp] theorem Hw.updStrand_todo (h : Hw) (i : Nat) (f : Strand → Strand) : (h.updStrand i f).todo = h.todo := rfl
@[simp] theorem Hw.updStrand_flight (h : Hw) (i : Nat) (f : Strand → Strand) : (h.updStrand i f).flight = h.flight := rfl
@[simp] theorem Hw.updStrand_pend (h : Hw) (i : Nat) (f : Strand → Strand) : (h.updStrand i f).pend = h.pend := rfl
@[simp] theorem Hw.updStrand_untimed (h : Hw) (i : Nat) (f : Strand → Strand) : (h.updStrand i f).untimed = h.untimed := rfl
@[simp] theorem Hw.updStrand_transit (h : Hw) (i : Nat) (f : Strand → Strand) : (h.updStrand i f).transit = h.transit := rfl
@[simp] theorem Hw.updStrand_cores (h : Hw) (i : Nat) (f : Strand → Strand) : (h.updStrand i f).cores = h.cores := rfl
@[simp] theorem Hw.updStrand_dies (h : Hw) (i : Nat) (f : Strand → Strand) : (h.updStrand i f).dies = h.dies := rfl
@[simp] theorem Hw.updStrand_parts (h : Hw) (i : Nat) (f : Strand → Strand) : (h.updStrand i f).parts = h.parts := rfl
@[simp] theorem Hw.updStrand_pkg (h : Hw) (i : Nat) (f : Strand → Strand) : (h.updStrand i f).pkg = h.pkg := rfl
@[simp] theorem Hw.updStrand_soAhead (h : Hw) (i : Nat) (f : Strand → Strand) : (h.updStrand i f).soAhead = h.soAhead := rfl

@[simp] theorem Hw.updCore_wtick (h : Hw) (c : Nat) (f : Core → Core) : (h.updCore c f).wtick = h.wtick := rfl
@[simp] theorem Hw.updCore_ftime (h : Hw) (c : Nat) (f : Core → Core) : (h.updCore c f).ftime = h.ftime := rfl
@[simp] theorem Hw.updCore_fsub (h : Hw) (c : Nat) (f : Core → Core) : (h.updCore c f).fsub = h.fsub := rfl
@[simp] theorem Hw.updCore_fresh (h : Hw) (c : Nat) (f : Core → Core) : (h.updCore c f).fresh = h.fresh := rfl
@[simp] theorem Hw.updCore_seq (h : Hw) (c : Nat) (f : Core → Core) : (h.updCore c f).seq = h.seq := rfl
@[simp] theorem Hw.updCore_cur (h : Hw) (c : Nat) (f : Core → Core) : (h.updCore c f).cur = h.cur := rfl
@[simp] theorem Hw.updCore_agenda (h : Hw) (c : Nat) (f : Core → Core) : (h.updCore c f).agenda = h.agenda := rfl
@[simp] theorem Hw.updCore_phase (h : Hw) (c : Nat) (f : Core → Core) : (h.updCore c f).phase = h.phase := rfl
@[simp] theorem Hw.updCore_todo (h : Hw) (c : Nat) (f : Core → Core) : (h.updCore c f).todo = h.todo := rfl
@[simp] theorem Hw.updCore_flight (h : Hw) (c : Nat) (f : Core → Core) : (h.updCore c f).flight = h.flight := rfl
@[simp] theorem Hw.updCore_pend (h : Hw) (c : Nat) (f : Core → Core) : (h.updCore c f).pend = h.pend := rfl
@[simp] theorem Hw.updCore_untimed (h : Hw) (c : Nat) (f : Core → Core) : (h.updCore c f).untimed = h.untimed := rfl
@[simp] theorem Hw.updCore_transit (h : Hw) (c : Nat) (f : Core → Core) : (h.updCore c f).transit = h.transit := rfl
@[simp] theorem Hw.updCore_strands (h : Hw) (c : Nat) (f : Core → Core) : (h.updCore c f).strands = h.strands := rfl
@[simp] theorem Hw.updCore_dies (h : Hw) (c : Nat) (f : Core → Core) : (h.updCore c f).dies = h.dies := rfl
@[simp] theorem Hw.updCore_parts (h : Hw) (c : Nat) (f : Core → Core) : (h.updCore c f).parts = h.parts := rfl
@[simp] theorem Hw.updCore_pkg (h : Hw) (c : Nat) (f : Core → Core) : (h.updCore c f).pkg = h.pkg := rfl
@[simp] theorem Hw.updCore_soAhead (h : Hw) (c : Nat) (f : Core → Core) : (h.updCore c f).soAhead = h.soAhead := rfl

@[simp] theorem Hw.updDie_wtick (h : Hw) (d : Nat) (f : Die → Die) : (h.updDie d f).wtick = h.wtick := rfl
@[simp] theorem Hw.updDie_ftime (h : Hw) (d : Nat) (f : Die → Die) : (h.updDie d f).ftime = h.ftime := rfl
@[simp] theorem Hw.updDie_fsub (h : Hw) (d : Nat) (f : Die → Die) : (h.updDie d f).fsub = h.fsub := rfl
@[simp] theorem Hw.updDie_fresh (h : Hw) (d : Nat) (f : Die → Die) : (h.updDie d f).fresh = h.fresh := rfl
@[simp] theorem Hw.updDie_seq (h : Hw) (d : Nat) (f : Die → Die) : (h.updDie d f).seq = h.seq := rfl
@[simp] theorem Hw.updDie_cur (h : Hw) (d : Nat) (f : Die → Die) : (h.updDie d f).cur = h.cur := rfl
@[simp] theorem Hw.updDie_agenda (h : Hw) (d : Nat) (f : Die → Die) : (h.updDie d f).agenda = h.agenda := rfl
@[simp] theorem Hw.updDie_phase (h : Hw) (d : Nat) (f : Die → Die) : (h.updDie d f).phase = h.phase := rfl
@[simp] theorem Hw.updDie_todo (h : Hw) (d : Nat) (f : Die → Die) : (h.updDie d f).todo = h.todo := rfl
@[simp] theorem Hw.updDie_flight (h : Hw) (d : Nat) (f : Die → Die) : (h.updDie d f).flight = h.flight := rfl
@[simp] theorem Hw.updDie_pend (h : Hw) (d : Nat) (f : Die → Die) : (h.updDie d f).pend = h.pend := rfl
@[simp] theorem Hw.updDie_untimed (h : Hw) (d : Nat) (f : Die → Die) : (h.updDie d f).untimed = h.untimed := rfl
@[simp] theorem Hw.updDie_transit (h : Hw) (d : Nat) (f : Die → Die) : (h.updDie d f).transit = h.transit := rfl
@[simp] theorem Hw.updDie_strands (h : Hw) (d : Nat) (f : Die → Die) : (h.updDie d f).strands = h.strands := rfl
@[simp] theorem Hw.updDie_cores (h : Hw) (d : Nat) (f : Die → Die) : (h.updDie d f).cores = h.cores := rfl
@[simp] theorem Hw.updDie_parts (h : Hw) (d : Nat) (f : Die → Die) : (h.updDie d f).parts = h.parts := rfl
@[simp] theorem Hw.updDie_pkg (h : Hw) (d : Nat) (f : Die → Die) : (h.updDie d f).pkg = h.pkg := rfl
@[simp] theorem Hw.updDie_soAhead (h : Hw) (d : Nat) (f : Die → Die) : (h.updDie d f).soAhead = h.soAhead := rfl

@[simp] theorem Hw.updPart_wtick (h : Hw) (p : Nat) (f : Part → Part) : (h.updPart p f).wtick = h.wtick := rfl
@[simp] theorem Hw.updPart_ftime (h : Hw) (p : Nat) (f : Part → Part) : (h.updPart p f).ftime = h.ftime := rfl
@[simp] theorem Hw.updPart_fsub (h : Hw) (p : Nat) (f : Part → Part) : (h.updPart p f).fsub = h.fsub := rfl
@[simp] theorem Hw.updPart_fresh (h : Hw) (p : Nat) (f : Part → Part) : (h.updPart p f).fresh = h.fresh := rfl
@[simp] theorem Hw.updPart_seq (h : Hw) (p : Nat) (f : Part → Part) : (h.updPart p f).seq = h.seq := rfl
@[simp] theorem Hw.updPart_cur (h : Hw) (p : Nat) (f : Part → Part) : (h.updPart p f).cur = h.cur := rfl
@[simp] theorem Hw.updPart_agenda (h : Hw) (p : Nat) (f : Part → Part) : (h.updPart p f).agenda = h.agenda := rfl
@[simp] theorem Hw.updPart_phase (h : Hw) (p : Nat) (f : Part → Part) : (h.updPart p f).phase = h.phase := rfl
@[simp] theorem Hw.updPart_todo (h : Hw) (p : Nat) (f : Part → Part) : (h.updPart p f).todo = h.todo := rfl
@[simp] theorem Hw.updPart_flight (h : Hw) (p : Nat) (f : Part → Part) : (h.updPart p f).flight = h.flight := rfl
@[simp] theorem Hw.updPart_pend (h : Hw) (p : Nat) (f : Part → Part) : (h.updPart p f).pend = h.pend := rfl
@[simp] theorem Hw.updPart_untimed (h : Hw) (p : Nat) (f : Part → Part) : (h.updPart p f).untimed = h.untimed := rfl
@[simp] theorem Hw.updPart_transit (h : Hw) (p : Nat) (f : Part → Part) : (h.updPart p f).transit = h.transit := rfl
@[simp] theorem Hw.updPart_strands (h : Hw) (p : Nat) (f : Part → Part) : (h.updPart p f).strands = h.strands := rfl
@[simp] theorem Hw.updPart_cores (h : Hw) (p : Nat) (f : Part → Part) : (h.updPart p f).cores = h.cores := rfl
@[simp] theorem Hw.updPart_dies (h : Hw) (p : Nat) (f : Part → Part) : (h.updPart p f).dies = h.dies := rfl
@[simp] theorem Hw.updPart_pkg (h : Hw) (p : Nat) (f : Part → Part) : (h.updPart p f).pkg = h.pkg := rfl
@[simp] theorem Hw.updPart_soAhead (h : Hw) (p : Nat) (f : Part → Part) : (h.updPart p f).soAhead = h.soAhead := rfl

@[simp] theorem Hw.updPkg_wtick (h : Hw) (f : Package → Package) : (h.updPkg f).wtick = h.wtick := rfl
@[simp] theorem Hw.updPkg_ftime (h : Hw) (f : Package → Package) : (h.updPkg f).ftime = h.ftime := rfl
@[simp] theorem Hw.updPkg_fsub (h : Hw) (f : Package → Package) : (h.updPkg f).fsub = h.fsub := rfl
@[simp] theorem Hw.updPkg_fresh (h : Hw) (f : Package → Package) : (h.updPkg f).fresh = h.fresh := rfl
@[simp] theorem Hw.updPkg_seq (h : Hw) (f : Package → Package) : (h.updPkg f).seq = h.seq := rfl
@[simp] theorem Hw.updPkg_cur (h : Hw) (f : Package → Package) : (h.updPkg f).cur = h.cur := rfl
@[simp] theorem Hw.updPkg_agenda (h : Hw) (f : Package → Package) : (h.updPkg f).agenda = h.agenda := rfl
@[simp] theorem Hw.updPkg_phase (h : Hw) (f : Package → Package) : (h.updPkg f).phase = h.phase := rfl
@[simp] theorem Hw.updPkg_todo (h : Hw) (f : Package → Package) : (h.updPkg f).todo = h.todo := rfl
@[simp] theorem Hw.updPkg_flight (h : Hw) (f : Package → Package) : (h.updPkg f).flight = h.flight := rfl
@[simp] theorem Hw.updPkg_pend (h : Hw) (f : Package → Package) : (h.updPkg f).pend = h.pend := rfl
@[simp] theorem Hw.updPkg_untimed (h : Hw) (f : Package → Package) : (h.updPkg f).untimed = h.untimed := rfl
@[simp] theorem Hw.updPkg_transit (h : Hw) (f : Package → Package) : (h.updPkg f).transit = h.transit := rfl
@[simp] theorem Hw.updPkg_strands (h : Hw) (f : Package → Package) : (h.updPkg f).strands = h.strands := rfl
@[simp] theorem Hw.updPkg_cores (h : Hw) (f : Package → Package) : (h.updPkg f).cores = h.cores := rfl
@[simp] theorem Hw.updPkg_dies (h : Hw) (f : Package → Package) : (h.updPkg f).dies = h.dies := rfl
@[simp] theorem Hw.updPkg_parts (h : Hw) (f : Package → Package) : (h.updPkg f).parts = h.parts := rfl
@[simp] theorem Hw.updPkg_soAhead (h : Hw) (f : Package → Package) : (h.updPkg f).soAhead = h.soAhead := rfl

@[simp] theorem Hw.upd_wtick (h : Hw) (f : Strand → Strand) : (h.upd f).wtick = h.wtick := rfl
@[simp] theorem Hw.upd_ftime (h : Hw) (f : Strand → Strand) : (h.upd f).ftime = h.ftime := rfl
@[simp] theorem Hw.upd_fsub (h : Hw) (f : Strand → Strand) : (h.upd f).fsub = h.fsub := rfl
@[simp] theorem Hw.upd_fresh (h : Hw) (f : Strand → Strand) : (h.upd f).fresh = h.fresh := rfl
@[simp] theorem Hw.upd_seq (h : Hw) (f : Strand → Strand) : (h.upd f).seq = h.seq := rfl
@[simp] theorem Hw.upd_cur (h : Hw) (f : Strand → Strand) : (h.upd f).cur = h.cur := rfl
@[simp] theorem Hw.upd_agenda (h : Hw) (f : Strand → Strand) : (h.upd f).agenda = h.agenda := rfl
@[simp] theorem Hw.upd_phase (h : Hw) (f : Strand → Strand) : (h.upd f).phase = h.phase := rfl
@[simp] theorem Hw.upd_todo (h : Hw) (f : Strand → Strand) : (h.upd f).todo = h.todo := rfl
@[simp] theorem Hw.upd_flight (h : Hw) (f : Strand → Strand) : (h.upd f).flight = h.flight := rfl
@[simp] theorem Hw.upd_pend (h : Hw) (f : Strand → Strand) : (h.upd f).pend = h.pend := rfl
@[simp] theorem Hw.upd_untimed (h : Hw) (f : Strand → Strand) : (h.upd f).untimed = h.untimed := rfl
@[simp] theorem Hw.upd_transit (h : Hw) (f : Strand → Strand) : (h.upd f).transit = h.transit := rfl
@[simp] theorem Hw.upd_cores (h : Hw) (f : Strand → Strand) : (h.upd f).cores = h.cores := rfl
@[simp] theorem Hw.upd_dies (h : Hw) (f : Strand → Strand) : (h.upd f).dies = h.dies := rfl
@[simp] theorem Hw.upd_parts (h : Hw) (f : Strand → Strand) : (h.upd f).parts = h.parts := rfl
@[simp] theorem Hw.upd_pkg (h : Hw) (f : Strand → Strand) : (h.upd f).pkg = h.pkg := rfl
@[simp] theorem Hw.upd_soAhead (h : Hw) (f : Strand → Strand) : (h.upd f).soAhead = h.soAhead := rfl

@[simp] theorem Hw.pendFor_wtick (h : Hw) (k lat : Nat) (a : PendAct) : (h.pendFor k lat a).wtick = h.wtick := rfl
@[simp] theorem Hw.pendFor_ftime (h : Hw) (k lat : Nat) (a : PendAct) : (h.pendFor k lat a).ftime = h.ftime := rfl
@[simp] theorem Hw.pendFor_fsub (h : Hw) (k lat : Nat) (a : PendAct) : (h.pendFor k lat a).fsub = h.fsub := rfl
@[simp] theorem Hw.pendFor_fresh (h : Hw) (k lat : Nat) (a : PendAct) : (h.pendFor k lat a).fresh = h.fresh := rfl
@[simp] theorem Hw.pendFor_cur (h : Hw) (k lat : Nat) (a : PendAct) : (h.pendFor k lat a).cur = h.cur := rfl
@[simp] theorem Hw.pendFor_agenda (h : Hw) (k lat : Nat) (a : PendAct) : (h.pendFor k lat a).agenda = h.agenda := rfl
@[simp] theorem Hw.pendFor_phase (h : Hw) (k lat : Nat) (a : PendAct) : (h.pendFor k lat a).phase = h.phase := rfl
@[simp] theorem Hw.pendFor_todo (h : Hw) (k lat : Nat) (a : PendAct) : (h.pendFor k lat a).todo = h.todo := rfl
@[simp] theorem Hw.pendFor_flight (h : Hw) (k lat : Nat) (a : PendAct) : (h.pendFor k lat a).flight = h.flight := rfl
@[simp] theorem Hw.pendFor_untimed (h : Hw) (k lat : Nat) (a : PendAct) : (h.pendFor k lat a).untimed = h.untimed := rfl
@[simp] theorem Hw.pendFor_transit (h : Hw) (k lat : Nat) (a : PendAct) : (h.pendFor k lat a).transit = h.transit := rfl
@[simp] theorem Hw.pendFor_strands (h : Hw) (k lat : Nat) (a : PendAct) : (h.pendFor k lat a).strands = h.strands := rfl
@[simp] theorem Hw.pendFor_cores (h : Hw) (k lat : Nat) (a : PendAct) : (h.pendFor k lat a).cores = h.cores := rfl
@[simp] theorem Hw.pendFor_dies (h : Hw) (k lat : Nat) (a : PendAct) : (h.pendFor k lat a).dies = h.dies := rfl
@[simp] theorem Hw.pendFor_parts (h : Hw) (k lat : Nat) (a : PendAct) : (h.pendFor k lat a).parts = h.parts := rfl
@[simp] theorem Hw.pendFor_pkg (h : Hw) (k lat : Nat) (a : PendAct) : (h.pendFor k lat a).pkg = h.pkg := rfl
@[simp] theorem Hw.pendFor_soAhead (h : Hw) (k lat : Nat) (a : PendAct) : (h.pendFor k lat a).soAhead = h.soAhead := rfl

@[simp] theorem Hw.later_wtick (h : Hw) (lat : Nat) (a : PendAct) : (h.later lat a).wtick = h.wtick := rfl
@[simp] theorem Hw.later_ftime (h : Hw) (lat : Nat) (a : PendAct) : (h.later lat a).ftime = h.ftime := rfl
@[simp] theorem Hw.later_fsub (h : Hw) (lat : Nat) (a : PendAct) : (h.later lat a).fsub = h.fsub := rfl
@[simp] theorem Hw.later_fresh (h : Hw) (lat : Nat) (a : PendAct) : (h.later lat a).fresh = h.fresh := rfl
@[simp] theorem Hw.later_cur (h : Hw) (lat : Nat) (a : PendAct) : (h.later lat a).cur = h.cur := rfl
@[simp] theorem Hw.later_agenda (h : Hw) (lat : Nat) (a : PendAct) : (h.later lat a).agenda = h.agenda := rfl
@[simp] theorem Hw.later_phase (h : Hw) (lat : Nat) (a : PendAct) : (h.later lat a).phase = h.phase := rfl
@[simp] theorem Hw.later_todo (h : Hw) (lat : Nat) (a : PendAct) : (h.later lat a).todo = h.todo := rfl
@[simp] theorem Hw.later_flight (h : Hw) (lat : Nat) (a : PendAct) : (h.later lat a).flight = h.flight := rfl
@[simp] theorem Hw.later_untimed (h : Hw) (lat : Nat) (a : PendAct) : (h.later lat a).untimed = h.untimed := rfl
@[simp] theorem Hw.later_transit (h : Hw) (lat : Nat) (a : PendAct) : (h.later lat a).transit = h.transit := rfl
@[simp] theorem Hw.later_strands (h : Hw) (lat : Nat) (a : PendAct) : (h.later lat a).strands = h.strands := rfl
@[simp] theorem Hw.later_cores (h : Hw) (lat : Nat) (a : PendAct) : (h.later lat a).cores = h.cores := rfl
@[simp] theorem Hw.later_dies (h : Hw) (lat : Nat) (a : PendAct) : (h.later lat a).dies = h.dies := rfl
@[simp] theorem Hw.later_parts (h : Hw) (lat : Nat) (a : PendAct) : (h.later lat a).parts = h.parts := rfl
@[simp] theorem Hw.later_pkg (h : Hw) (lat : Nat) (a : PendAct) : (h.later lat a).pkg = h.pkg := rfl
@[simp] theorem Hw.later_soAhead (h : Hw) (lat : Nat) (a : PendAct) : (h.later lat a).soAhead = h.soAhead := rfl

@[simp] theorem Hw.at_wtick (h : Hw) (w : Nat) (e : Event) : (h.at w e).wtick = h.wtick := rfl
@[simp] theorem Hw.at_ftime (h : Hw) (w : Nat) (e : Event) : (h.at w e).ftime = h.ftime := rfl
@[simp] theorem Hw.at_fsub (h : Hw) (w : Nat) (e : Event) : (h.at w e).fsub = h.fsub := rfl
@[simp] theorem Hw.at_fresh (h : Hw) (w : Nat) (e : Event) : (h.at w e).fresh = h.fresh := rfl
@[simp] theorem Hw.at_seq (h : Hw) (w : Nat) (e : Event) : (h.at w e).seq = h.seq := rfl
@[simp] theorem Hw.at_cur (h : Hw) (w : Nat) (e : Event) : (h.at w e).cur = h.cur := rfl
@[simp] theorem Hw.at_agenda (h : Hw) (w : Nat) (e : Event) : (h.at w e).agenda = h.agenda := rfl
@[simp] theorem Hw.at_phase (h : Hw) (w : Nat) (e : Event) : (h.at w e).phase = h.phase := rfl
@[simp] theorem Hw.at_todo (h : Hw) (w : Nat) (e : Event) : (h.at w e).todo = h.todo := rfl
@[simp] theorem Hw.at_pend (h : Hw) (w : Nat) (e : Event) : (h.at w e).pend = h.pend := rfl
@[simp] theorem Hw.at_untimed (h : Hw) (w : Nat) (e : Event) : (h.at w e).untimed = h.untimed := rfl
@[simp] theorem Hw.at_transit (h : Hw) (w : Nat) (e : Event) : (h.at w e).transit = h.transit := rfl
@[simp] theorem Hw.at_strands (h : Hw) (w : Nat) (e : Event) : (h.at w e).strands = h.strands := rfl
@[simp] theorem Hw.at_cores (h : Hw) (w : Nat) (e : Event) : (h.at w e).cores = h.cores := rfl
@[simp] theorem Hw.at_dies (h : Hw) (w : Nat) (e : Event) : (h.at w e).dies = h.dies := rfl
@[simp] theorem Hw.at_parts (h : Hw) (w : Nat) (e : Event) : (h.at w e).parts = h.parts := rfl
@[simp] theorem Hw.at_pkg (h : Hw) (w : Nat) (e : Event) : (h.at w e).pkg = h.pkg := rfl
@[simp] theorem Hw.at_soAhead (h : Hw) (w : Nat) (e : Event) : (h.at w e).soAhead = h.soAhead := rfl

@[simp] theorem Hw.soon_wtick (h : Hw) (e : Event) : (h.soon e).wtick = h.wtick := rfl
@[simp] theorem Hw.soon_ftime (h : Hw) (e : Event) : (h.soon e).ftime = h.ftime := rfl
@[simp] theorem Hw.soon_fsub (h : Hw) (e : Event) : (h.soon e).fsub = h.fsub := rfl
@[simp] theorem Hw.soon_fresh (h : Hw) (e : Event) : (h.soon e).fresh = h.fresh := rfl
@[simp] theorem Hw.soon_seq (h : Hw) (e : Event) : (h.soon e).seq = h.seq := rfl
@[simp] theorem Hw.soon_cur (h : Hw) (e : Event) : (h.soon e).cur = h.cur := rfl
@[simp] theorem Hw.soon_phase (h : Hw) (e : Event) : (h.soon e).phase = h.phase := rfl
@[simp] theorem Hw.soon_todo (h : Hw) (e : Event) : (h.soon e).todo = h.todo := rfl
@[simp] theorem Hw.soon_flight (h : Hw) (e : Event) : (h.soon e).flight = h.flight := rfl
@[simp] theorem Hw.soon_pend (h : Hw) (e : Event) : (h.soon e).pend = h.pend := rfl
@[simp] theorem Hw.soon_untimed (h : Hw) (e : Event) : (h.soon e).untimed = h.untimed := rfl
@[simp] theorem Hw.soon_transit (h : Hw) (e : Event) : (h.soon e).transit = h.transit := rfl
@[simp] theorem Hw.soon_strands (h : Hw) (e : Event) : (h.soon e).strands = h.strands := rfl
@[simp] theorem Hw.soon_cores (h : Hw) (e : Event) : (h.soon e).cores = h.cores := rfl
@[simp] theorem Hw.soon_dies (h : Hw) (e : Event) : (h.soon e).dies = h.dies := rfl
@[simp] theorem Hw.soon_parts (h : Hw) (e : Event) : (h.soon e).parts = h.parts := rfl
@[simp] theorem Hw.soon_pkg (h : Hw) (e : Event) : (h.soon e).pkg = h.pkg := rfl
@[simp] theorem Hw.soon_soAhead (h : Hw) (e : Event) : (h.soon e).soAhead = h.soAhead := rfl

@[simp] theorem Hw.out_wtick (h : Hw) (o : Output) : (h.out o).wtick = h.wtick := rfl
@[simp] theorem Hw.out_ftime (h : Hw) (o : Output) : (h.out o).ftime = h.ftime := rfl
@[simp] theorem Hw.out_fsub (h : Hw) (o : Output) : (h.out o).fsub = h.fsub := rfl
@[simp] theorem Hw.out_fresh (h : Hw) (o : Output) : (h.out o).fresh = h.fresh := rfl
@[simp] theorem Hw.out_seq (h : Hw) (o : Output) : (h.out o).seq = h.seq := rfl
@[simp] theorem Hw.out_cur (h : Hw) (o : Output) : (h.out o).cur = h.cur := rfl
@[simp] theorem Hw.out_agenda (h : Hw) (o : Output) : (h.out o).agenda = h.agenda := rfl
@[simp] theorem Hw.out_phase (h : Hw) (o : Output) : (h.out o).phase = h.phase := rfl
@[simp] theorem Hw.out_todo (h : Hw) (o : Output) : (h.out o).todo = h.todo := rfl
@[simp] theorem Hw.out_flight (h : Hw) (o : Output) : (h.out o).flight = h.flight := rfl
@[simp] theorem Hw.out_pend (h : Hw) (o : Output) : (h.out o).pend = h.pend := rfl
@[simp] theorem Hw.out_untimed (h : Hw) (o : Output) : (h.out o).untimed = h.untimed := rfl
@[simp] theorem Hw.out_transit (h : Hw) (o : Output) : (h.out o).transit = h.transit := rfl
@[simp] theorem Hw.out_strands (h : Hw) (o : Output) : (h.out o).strands = h.strands := rfl
@[simp] theorem Hw.out_cores (h : Hw) (o : Output) : (h.out o).cores = h.cores := rfl
@[simp] theorem Hw.out_dies (h : Hw) (o : Output) : (h.out o).dies = h.dies := rfl
@[simp] theorem Hw.out_parts (h : Hw) (o : Output) : (h.out o).parts = h.parts := rfl
@[simp] theorem Hw.out_soAhead (h : Hw) (o : Output) : (h.out o).soAhead = h.soAhead := rfl

@[simp] theorem Hw.used_wtick (h : Hw) : (h.used).wtick = h.wtick := rfl
@[simp] theorem Hw.used_ftime (h : Hw) : (h.used).ftime = h.ftime := rfl
@[simp] theorem Hw.used_fsub (h : Hw) : (h.used).fsub = h.fsub := rfl
@[simp] theorem Hw.used_seq (h : Hw) : (h.used).seq = h.seq := rfl
@[simp] theorem Hw.used_cur (h : Hw) : (h.used).cur = h.cur := rfl
@[simp] theorem Hw.used_agenda (h : Hw) : (h.used).agenda = h.agenda := rfl
@[simp] theorem Hw.used_phase (h : Hw) : (h.used).phase = h.phase := rfl
@[simp] theorem Hw.used_todo (h : Hw) : (h.used).todo = h.todo := rfl
@[simp] theorem Hw.used_flight (h : Hw) : (h.used).flight = h.flight := rfl
@[simp] theorem Hw.used_pend (h : Hw) : (h.used).pend = h.pend := rfl
@[simp] theorem Hw.used_untimed (h : Hw) : (h.used).untimed = h.untimed := rfl
@[simp] theorem Hw.used_transit (h : Hw) : (h.used).transit = h.transit := rfl
@[simp] theorem Hw.used_strands (h : Hw) : (h.used).strands = h.strands := rfl
@[simp] theorem Hw.used_cores (h : Hw) : (h.used).cores = h.cores := rfl
@[simp] theorem Hw.used_dies (h : Hw) : (h.used).dies = h.dies := rfl
@[simp] theorem Hw.used_parts (h : Hw) : (h.used).parts = h.parts := rfl
@[simp] theorem Hw.used_pkg (h : Hw) : (h.used).pkg = h.pkg := rfl
@[simp] theorem Hw.used_soAhead (h : Hw) : (h.used).soAhead = h.soAhead := rfl

@[simp] theorem Hw.advance_wtick (h : Hw) : (h.advance).wtick = h.wtick := rfl
@[simp] theorem Hw.advance_ftime (h : Hw) : (h.advance).ftime = h.ftime := rfl
@[simp] theorem Hw.advance_fsub (h : Hw) : (h.advance).fsub = h.fsub := rfl
@[simp] theorem Hw.advance_fresh (h : Hw) : (h.advance).fresh = h.fresh := rfl
@[simp] theorem Hw.advance_seq (h : Hw) : (h.advance).seq = h.seq := rfl
@[simp] theorem Hw.advance_cur (h : Hw) : (h.advance).cur = h.cur := rfl
@[simp] theorem Hw.advance_agenda (h : Hw) : (h.advance).agenda = h.agenda := rfl
@[simp] theorem Hw.advance_phase (h : Hw) : (h.advance).phase = h.phase := rfl
@[simp] theorem Hw.advance_todo (h : Hw) : (h.advance).todo = h.todo := rfl
@[simp] theorem Hw.advance_flight (h : Hw) : (h.advance).flight = h.flight := rfl
@[simp] theorem Hw.advance_pend (h : Hw) : (h.advance).pend = h.pend := rfl
@[simp] theorem Hw.advance_untimed (h : Hw) : (h.advance).untimed = h.untimed := rfl
@[simp] theorem Hw.advance_transit (h : Hw) : (h.advance).transit = h.transit := rfl
@[simp] theorem Hw.advance_cores (h : Hw) : (h.advance).cores = h.cores := rfl
@[simp] theorem Hw.advance_dies (h : Hw) : (h.advance).dies = h.dies := rfl
@[simp] theorem Hw.advance_parts (h : Hw) : (h.advance).parts = h.parts := rfl
@[simp] theorem Hw.advance_pkg (h : Hw) : (h.advance).pkg = h.pkg := rfl
@[simp] theorem Hw.advance_soAhead (h : Hw) : (h.advance).soAhead = h.soAhead := rfl

@[simp] theorem Hw.record_wtick (h : Hw) (slot sev unit addr code : Nat) (detail : Option Nat) : (h.record slot sev unit addr code detail).wtick = h.wtick := by unfold Hw.record; split <;> rfl
@[simp] theorem Hw.record_ftime (h : Hw) (slot sev unit addr code : Nat) (detail : Option Nat) : (h.record slot sev unit addr code detail).ftime = h.ftime := by unfold Hw.record; split <;> rfl
@[simp] theorem Hw.record_fsub (h : Hw) (slot sev unit addr code : Nat) (detail : Option Nat) : (h.record slot sev unit addr code detail).fsub = h.fsub := by unfold Hw.record; split <;> rfl
@[simp] theorem Hw.record_fresh (h : Hw) (slot sev unit addr code : Nat) (detail : Option Nat) : (h.record slot sev unit addr code detail).fresh = h.fresh := by unfold Hw.record; split <;> rfl
@[simp] theorem Hw.record_seq (h : Hw) (slot sev unit addr code : Nat) (detail : Option Nat) : (h.record slot sev unit addr code detail).seq = h.seq := by unfold Hw.record; split <;> rfl
@[simp] theorem Hw.record_cur (h : Hw) (slot sev unit addr code : Nat) (detail : Option Nat) : (h.record slot sev unit addr code detail).cur = h.cur := by unfold Hw.record; split <;> rfl
@[simp] theorem Hw.record_agenda (h : Hw) (slot sev unit addr code : Nat) (detail : Option Nat) : (h.record slot sev unit addr code detail).agenda = h.agenda := by unfold Hw.record; split <;> rfl
@[simp] theorem Hw.record_phase (h : Hw) (slot sev unit addr code : Nat) (detail : Option Nat) : (h.record slot sev unit addr code detail).phase = h.phase := by unfold Hw.record; split <;> rfl
@[simp] theorem Hw.record_todo (h : Hw) (slot sev unit addr code : Nat) (detail : Option Nat) : (h.record slot sev unit addr code detail).todo = h.todo := by unfold Hw.record; split <;> rfl
@[simp] theorem Hw.record_flight (h : Hw) (slot sev unit addr code : Nat) (detail : Option Nat) : (h.record slot sev unit addr code detail).flight = h.flight := by unfold Hw.record; split <;> rfl
@[simp] theorem Hw.record_pend (h : Hw) (slot sev unit addr code : Nat) (detail : Option Nat) : (h.record slot sev unit addr code detail).pend = h.pend := by unfold Hw.record; split <;> rfl
@[simp] theorem Hw.record_untimed (h : Hw) (slot sev unit addr code : Nat) (detail : Option Nat) : (h.record slot sev unit addr code detail).untimed = h.untimed := by unfold Hw.record; split <;> rfl
@[simp] theorem Hw.record_transit (h : Hw) (slot sev unit addr code : Nat) (detail : Option Nat) : (h.record slot sev unit addr code detail).transit = h.transit := by unfold Hw.record; split <;> rfl
@[simp] theorem Hw.record_strands (h : Hw) (slot sev unit addr code : Nat) (detail : Option Nat) : (h.record slot sev unit addr code detail).strands = h.strands := by unfold Hw.record; split <;> rfl
@[simp] theorem Hw.record_cores (h : Hw) (slot sev unit addr code : Nat) (detail : Option Nat) : (h.record slot sev unit addr code detail).cores = h.cores := by unfold Hw.record; split <;> rfl
@[simp] theorem Hw.record_parts (h : Hw) (slot sev unit addr code : Nat) (detail : Option Nat) : (h.record slot sev unit addr code detail).parts = h.parts := by unfold Hw.record; split <;> rfl
@[simp] theorem Hw.record_pkg (h : Hw) (slot sev unit addr code : Nat) (detail : Option Nat) : (h.record slot sev unit addr code detail).pkg = h.pkg := by unfold Hw.record; split <;> rfl
@[simp] theorem Hw.record_soAhead (h : Hw) (slot sev unit addr code : Nat) (detail : Option Nat) : (h.record slot sev unit addr code detail).soAhead = h.soAhead := by unfold Hw.record; split <;> rfl

@[simp] theorem State.updHw_mem (s : State) (f : Hw → Hw) : (s.updHw f).mem = s.mem := rfl
@[simp] theorem State.updHw_hw (s : State) (f : Hw → Hw) : (s.updHw f).hw = f s.hw := rfl
@[simp] theorem State.poke_hw (s : State) (k : Nat) (bs : List Byte) : (s.poke k bs).hw = s.hw := rfl
@[simp] theorem State.poke_mem (s : State) (k : Nat) (bs : List Byte) : (s.poke k bs).mem = Memory.writeBytes s.mem k bs := rfl

@[simp] theorem Strand.goTo_status (st : Strand) (a : W64) : (st.goTo a).status = st.status := rfl
@[simp] theorem Strand.goTo_unit (st : Strand) (a : W64) : (st.goTo a).unit = st.unit := rfl
@[simp] theorem Strand.goTo_codeStart (st : Strand) (a : W64) : (st.goTo a).codeStart = st.codeStart := rfl
@[simp] theorem Strand.goTo_codeLen (st : Strand) (a : W64) : (st.goTo a).codeLen = st.codeLen := rfl
@[simp] theorem Strand.goTo_mode (st : Strand) (a : W64) : (st.goTo a).mode = st.mode := rfl
@[simp] theorem Strand.goTo_glen (st : Strand) (a : W64) : (st.goTo a).glen = st.glen := rfl
@[simp] theorem Strand.goTo_gpre (st : Strand) (a : W64) : (st.goTo a).gpre = st.gpre := rfl
@[simp] theorem Strand.goTo_gsync (st : Strand) (a : W64) : (st.goTo a).gsync = st.gsync := rfl
@[simp] theorem Strand.goTo_flags (st : Strand) (a : W64) : (st.goTo a).flags = st.flags := rfl
@[simp] theorem Strand.goTo_rndm (st : Strand) (a : W64) : (st.goTo a).rndm = st.rndm := rfl
@[simp] theorem Strand.goTo_srseed (st : Strand) (a : W64) : (st.goTo a).srseed = st.srseed := rfl
@[simp] theorem Strand.goTo_mixsel (st : Strand) (a : W64) : (st.goTo a).mixsel = st.mixsel := rfl
@[simp] theorem Strand.goTo_hookAddr (st : Strand) (a : W64) : (st.goTo a).hookAddr = st.hookAddr := rfl
@[simp] theorem Strand.goTo_hookEn (st : Strand) (a : W64) : (st.goTo a).hookEn = st.hookEn := rfl
@[simp] theorem Strand.goTo_viewSlot (st : Strand) (a : W64) : (st.goTo a).viewSlot = st.viewSlot := rfl
@[simp] theorem Strand.goTo_v (st : Strand) (a : W64) : (st.goTo a).v = st.v := rfl
@[simp] theorem Strand.goTo_k (st : Strand) (a : W64) : (st.goTo a).k = st.k := rfl
@[simp] theorem Strand.goTo_b (st : Strand) (a : W64) : (st.goTo a).b = st.b := rfl
@[simp] theorem Strand.goTo_emu (st : Strand) (a : W64) : (st.goTo a).emu = st.emu := rfl
@[simp] theorem Strand.goTo_rfl_ (st : Strand) (a : W64) : (st.goTo a).rfl_ = st.rfl_ := rfl
@[simp] theorem Strand.goTo_nxt (st : Strand) (a : W64) : (st.goTo a).nxt = st.nxt := rfl
@[simp] theorem Strand.goTo_bnd (st : Strand) (a : W64) : (st.goTo a).bnd = st.bnd := rfl
@[simp] theorem Strand.goTo_sflt (st : Strand) (a : W64) : (st.goTo a).sflt = st.sflt := rfl
@[simp] theorem Strand.goTo_dcode (st : Strand) (a : W64) : (st.goTo a).dcode = st.dcode := rfl
@[simp] theorem Strand.goTo_info (st : Strand) (a : W64) : (st.goTo a).info = st.info := rfl
@[simp] theorem Strand.goTo_clu (st : Strand) (a : W64) : (st.goTo a).clu = st.clu := rfl
@[simp] theorem Strand.goTo_cause (st : Strand) (a : W64) : (st.goTo a).cause = st.cause := rfl
@[simp] theorem Strand.goTo_sepc (st : Strand) (a : W64) : (st.goTo a).sepc = st.sepc := rfl
@[simp] theorem Strand.goTo_stval (st : Strand) (a : W64) : (st.goTo a).stval = st.stval := rfl
@[simp] theorem Strand.goTo_svec (st : Strand) (a : W64) : (st.goTo a).svec = st.svec := rfl
@[simp] theorem Strand.goTo_semu (st : Strand) (a : W64) : (st.goTo a).semu = st.semu := rfl
@[simp] theorem Strand.goTo_sfcode (st : Strand) (a : W64) : (st.goTo a).sfcode = st.sfcode := rfl
@[simp] theorem Strand.goTo_ssave (st : Strand) (a : W64) : (st.goTo a).ssave = st.ssave := rfl
@[simp] theorem Strand.goTo_kxsel (st : Strand) (a : W64) : (st.goTo a).kxsel = st.kxsel := rfl
@[simp] theorem Strand.goTo_stub (st : Strand) (a : W64) : (st.goTo a).stub = st.stub := rfl
@[simp] theorem Strand.goTo_chk (st : Strand) (a : W64) : (st.goTo a).chk = st.chk := rfl
@[simp] theorem Strand.goTo_resume (st : Strand) (a : W64) : (st.goTo a).resume = st.resume := rfl
@[simp] theorem Strand.goTo_restorePc (st : Strand) (a : W64) : (st.goTo a).restorePc = st.restorePc := rfl
@[simp] theorem Strand.goTo_diverting (st : Strand) (a : W64) : (st.goTo a).diverting = st.diverting := rfl
@[simp] theorem Strand.goTo_wait (st : Strand) (a : W64) : (st.goTo a).wait = st.wait := rfl
@[simp] theorem Strand.goTo_notBefore (st : Strand) (a : W64) : (st.goTo a).notBefore = st.notBefore := rfl
@[simp] theorem Strand.goTo_units (st : Strand) (a : W64) : (st.goTo a).units = st.units := rfl
@[simp] theorem Strand.goTo_wunits (st : Strand) (a : W64) : (st.goTo a).wunits = st.wunits := rfl
@[simp] theorem Strand.goTo_owed (st : Strand) (a : W64) : (st.goTo a).owed = st.owed := rfl
@[simp] theorem Strand.goTo_viewTrap (st : Strand) (a : W64) : (st.goTo a).viewTrap = st.viewTrap := rfl
@[simp] theorem Strand.goTo_quorumLost (st : Strand) (a : W64) : (st.goTo a).quorumLost = st.quorumLost := rfl
@[simp] theorem Strand.goTo_held (st : Strand) (a : W64) : (st.goTo a).held = st.held := rfl
@[simp] theorem Strand.goTo_inTrap (st : Strand) (a : W64) : (st.goTo a).inTrap = st.inTrap := rfl
@[simp] theorem Strand.goTo_trapHold (st : Strand) (a : W64) : (st.goTo a).trapHold = st.trapHold := rfl
@[simp] theorem Strand.goTo_hooks (st : Strand) (a : W64) : (st.goTo a).hooks = st.hooks := rfl
@[simp] theorem Strand.goTo_trapPc (st : Strand) (a : W64) : (st.goTo a).trapPc = st.trapPc := rfl
@[simp] theorem Strand.goTo_startTick (st : Strand) (a : W64) : (st.goTo a).startTick = st.startTick := rfl
@[simp] theorem Strand.goTo_anchored (st : Strand) (a : W64) : (st.goTo a).anchored = st.anchored := rfl
@[simp] theorem Strand.goTo_retiredAt (st : Strand) (a : W64) : (st.goTo a).retiredAt = st.retiredAt := rfl
@[simp] theorem Strand.goTo_recvq (st : Strand) (a : W64) : (st.goTo a).recvq = st.recvq := rfl
@[simp] theorem Strand.goTo_unaccepted (st : Strand) (a : W64) : (st.goTo a).unaccepted = st.unaccepted := rfl
@[simp] theorem Strand.goTo_fencedW (st : Strand) (a : W64) : (st.goTo a).fencedW = st.fencedW := rfl
@[simp] theorem Strand.goTo_fencedR (st : Strand) (a : W64) : (st.goTo a).fencedR = st.fencedR := rfl
@[simp] theorem Strand.goTo_fencedSeq (st : Strand) (a : W64) : (st.goTo a).fencedSeq = st.fencedSeq := rfl
@[simp] theorem Strand.goTo_dieReleases (st : Strand) (a : W64) : (st.goTo a).dieReleases = st.dieReleases := rfl
@[simp] theorem Strand.goTo_upset (st : Strand) (a : W64) : (st.goTo a).upset = st.upset := rfl
@[simp] theorem Strand.goTo_fencedSeqR (st : Strand) (a : W64) : (st.goTo a).fencedSeqR = st.fencedSeqR := rfl
@[simp] theorem Strand.goTo_acqSeq (st : Strand) (a : W64) : (st.goTo a).acqSeq = st.acqSeq := rfl
@[simp] theorem Strand.goTo_joined (st : Strand) (a : W64) : (st.goTo a).joined = st.joined := rfl
@[simp] theorem Strand.goTo_thawed (st : Strand) (a : W64) : (st.goTo a).thawed = st.thawed := rfl
@[simp] theorem Strand.goTo_kb (st : Strand) (a : W64) : (st.goTo a).kb = st.kb := rfl
@[simp] theorem Strand.goTo_sb (st : Strand) (a : W64) : (st.goTo a).sb = st.sb := rfl
@[simp] theorem Strand.setBank_status (st : Strand) (c : Bool) (b : Bank) : (st.setBank c b).status = st.status := by cases c <;> rfl
@[simp] theorem Strand.setBank_unit (st : Strand) (c : Bool) (b : Bank) : (st.setBank c b).unit = st.unit := by cases c <;> rfl
@[simp] theorem Strand.setBank_codeStart (st : Strand) (c : Bool) (b : Bank) : (st.setBank c b).codeStart = st.codeStart := by cases c <;> rfl
@[simp] theorem Strand.setBank_codeLen (st : Strand) (c : Bool) (b : Bank) : (st.setBank c b).codeLen = st.codeLen := by cases c <;> rfl
@[simp] theorem Strand.setBank_mode (st : Strand) (c : Bool) (b : Bank) : (st.setBank c b).mode = st.mode := by cases c <;> rfl
@[simp] theorem Strand.setBank_glen (st : Strand) (c : Bool) (b : Bank) : (st.setBank c b).glen = st.glen := by cases c <;> rfl
@[simp] theorem Strand.setBank_gpre (st : Strand) (c : Bool) (b : Bank) : (st.setBank c b).gpre = st.gpre := by cases c <;> rfl
@[simp] theorem Strand.setBank_gsync (st : Strand) (c : Bool) (b : Bank) : (st.setBank c b).gsync = st.gsync := by cases c <;> rfl
@[simp] theorem Strand.setBank_flags (st : Strand) (c : Bool) (b : Bank) : (st.setBank c b).flags = st.flags := by cases c <;> rfl
@[simp] theorem Strand.setBank_rndm (st : Strand) (c : Bool) (b : Bank) : (st.setBank c b).rndm = st.rndm := by cases c <;> rfl
@[simp] theorem Strand.setBank_srseed (st : Strand) (c : Bool) (b : Bank) : (st.setBank c b).srseed = st.srseed := by cases c <;> rfl
@[simp] theorem Strand.setBank_mixsel (st : Strand) (c : Bool) (b : Bank) : (st.setBank c b).mixsel = st.mixsel := by cases c <;> rfl
@[simp] theorem Strand.setBank_hookAddr (st : Strand) (c : Bool) (b : Bank) : (st.setBank c b).hookAddr = st.hookAddr := by cases c <;> rfl
@[simp] theorem Strand.setBank_hookEn (st : Strand) (c : Bool) (b : Bank) : (st.setBank c b).hookEn = st.hookEn := by cases c <;> rfl
@[simp] theorem Strand.setBank_viewSlot (st : Strand) (c : Bool) (b : Bank) : (st.setBank c b).viewSlot = st.viewSlot := by cases c <;> rfl
@[simp] theorem Strand.setBank_v (st : Strand) (c : Bool) (b : Bank) : (st.setBank c b).v = st.v := by cases c <;> rfl
@[simp] theorem Strand.setBank_k (st : Strand) (c : Bool) (b : Bank) : (st.setBank c b).k = st.k := by cases c <;> rfl
@[simp] theorem Strand.setBank_b (st : Strand) (c : Bool) (b : Bank) : (st.setBank c b).b = st.b := by cases c <;> rfl
@[simp] theorem Strand.setBank_emu (st : Strand) (c : Bool) (b : Bank) : (st.setBank c b).emu = st.emu := by cases c <;> rfl
@[simp] theorem Strand.setBank_rfl_ (st : Strand) (c : Bool) (b : Bank) : (st.setBank c b).rfl_ = st.rfl_ := by cases c <;> rfl
@[simp] theorem Strand.setBank_nxt (st : Strand) (c : Bool) (b : Bank) : (st.setBank c b).nxt = st.nxt := by cases c <;> rfl
@[simp] theorem Strand.setBank_bnd (st : Strand) (c : Bool) (b : Bank) : (st.setBank c b).bnd = st.bnd := by cases c <;> rfl
@[simp] theorem Strand.setBank_sflt (st : Strand) (c : Bool) (b : Bank) : (st.setBank c b).sflt = st.sflt := by cases c <;> rfl
@[simp] theorem Strand.setBank_dcode (st : Strand) (c : Bool) (b : Bank) : (st.setBank c b).dcode = st.dcode := by cases c <;> rfl
@[simp] theorem Strand.setBank_info (st : Strand) (c : Bool) (b : Bank) : (st.setBank c b).info = st.info := by cases c <;> rfl
@[simp] theorem Strand.setBank_clu (st : Strand) (c : Bool) (b : Bank) : (st.setBank c b).clu = st.clu := by cases c <;> rfl
@[simp] theorem Strand.setBank_cause (st : Strand) (c : Bool) (b : Bank) : (st.setBank c b).cause = st.cause := by cases c <;> rfl
@[simp] theorem Strand.setBank_sepc (st : Strand) (c : Bool) (b : Bank) : (st.setBank c b).sepc = st.sepc := by cases c <;> rfl
@[simp] theorem Strand.setBank_stval (st : Strand) (c : Bool) (b : Bank) : (st.setBank c b).stval = st.stval := by cases c <;> rfl
@[simp] theorem Strand.setBank_svec (st : Strand) (c : Bool) (b : Bank) : (st.setBank c b).svec = st.svec := by cases c <;> rfl
@[simp] theorem Strand.setBank_semu (st : Strand) (c : Bool) (b : Bank) : (st.setBank c b).semu = st.semu := by cases c <;> rfl
@[simp] theorem Strand.setBank_sfcode (st : Strand) (c : Bool) (b : Bank) : (st.setBank c b).sfcode = st.sfcode := by cases c <;> rfl
@[simp] theorem Strand.setBank_ssave (st : Strand) (c : Bool) (b : Bank) : (st.setBank c b).ssave = st.ssave := by cases c <;> rfl
@[simp] theorem Strand.setBank_kxsel (st : Strand) (c : Bool) (b : Bank) : (st.setBank c b).kxsel = st.kxsel := by cases c <;> rfl
@[simp] theorem Strand.setBank_stub (st : Strand) (c : Bool) (b : Bank) : (st.setBank c b).stub = st.stub := by cases c <;> rfl
@[simp] theorem Strand.setBank_chk (st : Strand) (c : Bool) (b : Bank) : (st.setBank c b).chk = st.chk := by cases c <;> rfl
@[simp] theorem Strand.setBank_resume (st : Strand) (c : Bool) (b : Bank) : (st.setBank c b).resume = st.resume := by cases c <;> rfl
@[simp] theorem Strand.setBank_restorePc (st : Strand) (c : Bool) (b : Bank) : (st.setBank c b).restorePc = st.restorePc := by cases c <;> rfl
@[simp] theorem Strand.setBank_diverting (st : Strand) (c : Bool) (b : Bank) : (st.setBank c b).diverting = st.diverting := by cases c <;> rfl
@[simp] theorem Strand.setBank_wait (st : Strand) (c : Bool) (b : Bank) : (st.setBank c b).wait = st.wait := by cases c <;> rfl
@[simp] theorem Strand.setBank_notBefore (st : Strand) (c : Bool) (b : Bank) : (st.setBank c b).notBefore = st.notBefore := by cases c <;> rfl
@[simp] theorem Strand.setBank_units (st : Strand) (c : Bool) (b : Bank) : (st.setBank c b).units = st.units := by cases c <;> rfl
@[simp] theorem Strand.setBank_wunits (st : Strand) (c : Bool) (b : Bank) : (st.setBank c b).wunits = st.wunits := by cases c <;> rfl
@[simp] theorem Strand.setBank_owed (st : Strand) (c : Bool) (b : Bank) : (st.setBank c b).owed = st.owed := by cases c <;> rfl
@[simp] theorem Strand.setBank_viewTrap (st : Strand) (c : Bool) (b : Bank) : (st.setBank c b).viewTrap = st.viewTrap := by cases c <;> rfl
@[simp] theorem Strand.setBank_quorumLost (st : Strand) (c : Bool) (b : Bank) : (st.setBank c b).quorumLost = st.quorumLost := by cases c <;> rfl
@[simp] theorem Strand.setBank_held (st : Strand) (c : Bool) (b : Bank) : (st.setBank c b).held = st.held := by cases c <;> rfl
@[simp] theorem Strand.setBank_inTrap (st : Strand) (c : Bool) (b : Bank) : (st.setBank c b).inTrap = st.inTrap := by cases c <;> rfl
@[simp] theorem Strand.setBank_trapHold (st : Strand) (c : Bool) (b : Bank) : (st.setBank c b).trapHold = st.trapHold := by cases c <;> rfl
@[simp] theorem Strand.setBank_hooks (st : Strand) (c : Bool) (b : Bank) : (st.setBank c b).hooks = st.hooks := by cases c <;> rfl
@[simp] theorem Strand.setBank_trapPc (st : Strand) (c : Bool) (b : Bank) : (st.setBank c b).trapPc = st.trapPc := by cases c <;> rfl
@[simp] theorem Strand.setBank_startTick (st : Strand) (c : Bool) (b : Bank) : (st.setBank c b).startTick = st.startTick := by cases c <;> rfl
@[simp] theorem Strand.setBank_anchored (st : Strand) (c : Bool) (b : Bank) : (st.setBank c b).anchored = st.anchored := by cases c <;> rfl
@[simp] theorem Strand.setBank_retiredAt (st : Strand) (c : Bool) (b : Bank) : (st.setBank c b).retiredAt = st.retiredAt := by cases c <;> rfl
@[simp] theorem Strand.setBank_recvq (st : Strand) (c : Bool) (b : Bank) : (st.setBank c b).recvq = st.recvq := by cases c <;> rfl
@[simp] theorem Strand.setBank_unaccepted (st : Strand) (c : Bool) (b : Bank) : (st.setBank c b).unaccepted = st.unaccepted := by cases c <;> rfl
@[simp] theorem Strand.setBank_fencedW (st : Strand) (c : Bool) (b : Bank) : (st.setBank c b).fencedW = st.fencedW := by cases c <;> rfl
@[simp] theorem Strand.setBank_fencedR (st : Strand) (c : Bool) (b : Bank) : (st.setBank c b).fencedR = st.fencedR := by cases c <;> rfl
@[simp] theorem Strand.setBank_fencedSeq (st : Strand) (c : Bool) (b : Bank) : (st.setBank c b).fencedSeq = st.fencedSeq := by cases c <;> rfl
@[simp] theorem Strand.setBank_dieReleases (st : Strand) (c : Bool) (b : Bank) : (st.setBank c b).dieReleases = st.dieReleases := by cases c <;> rfl
@[simp] theorem Strand.setBank_upset (st : Strand) (c : Bool) (b : Bank) : (st.setBank c b).upset = st.upset := by cases c <;> rfl
@[simp] theorem Strand.setBank_fencedSeqR (st : Strand) (c : Bool) (b : Bank) : (st.setBank c b).fencedSeqR = st.fencedSeqR := by cases c <;> rfl
@[simp] theorem Strand.setBank_acqSeq (st : Strand) (c : Bool) (b : Bank) : (st.setBank c b).acqSeq = st.acqSeq := by cases c <;> rfl
@[simp] theorem Strand.setBank_joined (st : Strand) (c : Bool) (b : Bank) : (st.setBank c b).joined = st.joined := by cases c <;> rfl
@[simp] theorem Strand.setBank_thawed (st : Strand) (c : Bool) (b : Bank) : (st.setBank c b).thawed = st.thawed := by cases c <;> rfl
@[simp] theorem Strand.setBank_pc (st : Strand) (c : Bool) (b : Bank) : (st.setBank c b).pc = st.pc := by cases c <;> rfl
@[simp] theorem Strand.updBank_status (st : Strand) (f : Bank → Bank) : (st.updBank f).status = st.status := Strand.setBank_status st _ _
@[simp] theorem Strand.updBank_unit (st : Strand) (f : Bank → Bank) : (st.updBank f).unit = st.unit := Strand.setBank_unit st _ _
@[simp] theorem Strand.updBank_codeStart (st : Strand) (f : Bank → Bank) : (st.updBank f).codeStart = st.codeStart := Strand.setBank_codeStart st _ _
@[simp] theorem Strand.updBank_codeLen (st : Strand) (f : Bank → Bank) : (st.updBank f).codeLen = st.codeLen := Strand.setBank_codeLen st _ _
@[simp] theorem Strand.updBank_mode (st : Strand) (f : Bank → Bank) : (st.updBank f).mode = st.mode := Strand.setBank_mode st _ _
@[simp] theorem Strand.updBank_glen (st : Strand) (f : Bank → Bank) : (st.updBank f).glen = st.glen := Strand.setBank_glen st _ _
@[simp] theorem Strand.updBank_gpre (st : Strand) (f : Bank → Bank) : (st.updBank f).gpre = st.gpre := Strand.setBank_gpre st _ _
@[simp] theorem Strand.updBank_gsync (st : Strand) (f : Bank → Bank) : (st.updBank f).gsync = st.gsync := Strand.setBank_gsync st _ _
@[simp] theorem Strand.updBank_flags (st : Strand) (f : Bank → Bank) : (st.updBank f).flags = st.flags := Strand.setBank_flags st _ _
@[simp] theorem Strand.updBank_rndm (st : Strand) (f : Bank → Bank) : (st.updBank f).rndm = st.rndm := Strand.setBank_rndm st _ _
@[simp] theorem Strand.updBank_srseed (st : Strand) (f : Bank → Bank) : (st.updBank f).srseed = st.srseed := Strand.setBank_srseed st _ _
@[simp] theorem Strand.updBank_mixsel (st : Strand) (f : Bank → Bank) : (st.updBank f).mixsel = st.mixsel := Strand.setBank_mixsel st _ _
@[simp] theorem Strand.updBank_hookAddr (st : Strand) (f : Bank → Bank) : (st.updBank f).hookAddr = st.hookAddr := Strand.setBank_hookAddr st _ _
@[simp] theorem Strand.updBank_hookEn (st : Strand) (f : Bank → Bank) : (st.updBank f).hookEn = st.hookEn := Strand.setBank_hookEn st _ _
@[simp] theorem Strand.updBank_viewSlot (st : Strand) (f : Bank → Bank) : (st.updBank f).viewSlot = st.viewSlot := Strand.setBank_viewSlot st _ _
@[simp] theorem Strand.updBank_v (st : Strand) (f : Bank → Bank) : (st.updBank f).v = st.v := Strand.setBank_v st _ _
@[simp] theorem Strand.updBank_k (st : Strand) (f : Bank → Bank) : (st.updBank f).k = st.k := Strand.setBank_k st _ _
@[simp] theorem Strand.updBank_b (st : Strand) (f : Bank → Bank) : (st.updBank f).b = st.b := Strand.setBank_b st _ _
@[simp] theorem Strand.updBank_emu (st : Strand) (f : Bank → Bank) : (st.updBank f).emu = st.emu := Strand.setBank_emu st _ _
@[simp] theorem Strand.updBank_rfl_ (st : Strand) (f : Bank → Bank) : (st.updBank f).rfl_ = st.rfl_ := Strand.setBank_rfl_ st _ _
@[simp] theorem Strand.updBank_nxt (st : Strand) (f : Bank → Bank) : (st.updBank f).nxt = st.nxt := Strand.setBank_nxt st _ _
@[simp] theorem Strand.updBank_bnd (st : Strand) (f : Bank → Bank) : (st.updBank f).bnd = st.bnd := Strand.setBank_bnd st _ _
@[simp] theorem Strand.updBank_sflt (st : Strand) (f : Bank → Bank) : (st.updBank f).sflt = st.sflt := Strand.setBank_sflt st _ _
@[simp] theorem Strand.updBank_dcode (st : Strand) (f : Bank → Bank) : (st.updBank f).dcode = st.dcode := Strand.setBank_dcode st _ _
@[simp] theorem Strand.updBank_info (st : Strand) (f : Bank → Bank) : (st.updBank f).info = st.info := Strand.setBank_info st _ _
@[simp] theorem Strand.updBank_clu (st : Strand) (f : Bank → Bank) : (st.updBank f).clu = st.clu := Strand.setBank_clu st _ _
@[simp] theorem Strand.updBank_cause (st : Strand) (f : Bank → Bank) : (st.updBank f).cause = st.cause := Strand.setBank_cause st _ _
@[simp] theorem Strand.updBank_sepc (st : Strand) (f : Bank → Bank) : (st.updBank f).sepc = st.sepc := Strand.setBank_sepc st _ _
@[simp] theorem Strand.updBank_stval (st : Strand) (f : Bank → Bank) : (st.updBank f).stval = st.stval := Strand.setBank_stval st _ _
@[simp] theorem Strand.updBank_svec (st : Strand) (f : Bank → Bank) : (st.updBank f).svec = st.svec := Strand.setBank_svec st _ _
@[simp] theorem Strand.updBank_semu (st : Strand) (f : Bank → Bank) : (st.updBank f).semu = st.semu := Strand.setBank_semu st _ _
@[simp] theorem Strand.updBank_sfcode (st : Strand) (f : Bank → Bank) : (st.updBank f).sfcode = st.sfcode := Strand.setBank_sfcode st _ _
@[simp] theorem Strand.updBank_ssave (st : Strand) (f : Bank → Bank) : (st.updBank f).ssave = st.ssave := Strand.setBank_ssave st _ _
@[simp] theorem Strand.updBank_kxsel (st : Strand) (f : Bank → Bank) : (st.updBank f).kxsel = st.kxsel := Strand.setBank_kxsel st _ _
@[simp] theorem Strand.updBank_stub (st : Strand) (f : Bank → Bank) : (st.updBank f).stub = st.stub := Strand.setBank_stub st _ _
@[simp] theorem Strand.updBank_chk (st : Strand) (f : Bank → Bank) : (st.updBank f).chk = st.chk := Strand.setBank_chk st _ _
@[simp] theorem Strand.updBank_resume (st : Strand) (f : Bank → Bank) : (st.updBank f).resume = st.resume := Strand.setBank_resume st _ _
@[simp] theorem Strand.updBank_restorePc (st : Strand) (f : Bank → Bank) : (st.updBank f).restorePc = st.restorePc := Strand.setBank_restorePc st _ _
@[simp] theorem Strand.updBank_diverting (st : Strand) (f : Bank → Bank) : (st.updBank f).diverting = st.diverting := Strand.setBank_diverting st _ _
@[simp] theorem Strand.updBank_wait (st : Strand) (f : Bank → Bank) : (st.updBank f).wait = st.wait := Strand.setBank_wait st _ _
@[simp] theorem Strand.updBank_notBefore (st : Strand) (f : Bank → Bank) : (st.updBank f).notBefore = st.notBefore := Strand.setBank_notBefore st _ _
@[simp] theorem Strand.updBank_units (st : Strand) (f : Bank → Bank) : (st.updBank f).units = st.units := Strand.setBank_units st _ _
@[simp] theorem Strand.updBank_wunits (st : Strand) (f : Bank → Bank) : (st.updBank f).wunits = st.wunits := Strand.setBank_wunits st _ _
@[simp] theorem Strand.updBank_owed (st : Strand) (f : Bank → Bank) : (st.updBank f).owed = st.owed := Strand.setBank_owed st _ _
@[simp] theorem Strand.updBank_viewTrap (st : Strand) (f : Bank → Bank) : (st.updBank f).viewTrap = st.viewTrap := Strand.setBank_viewTrap st _ _
@[simp] theorem Strand.updBank_quorumLost (st : Strand) (f : Bank → Bank) : (st.updBank f).quorumLost = st.quorumLost := Strand.setBank_quorumLost st _ _
@[simp] theorem Strand.updBank_held (st : Strand) (f : Bank → Bank) : (st.updBank f).held = st.held := Strand.setBank_held st _ _
@[simp] theorem Strand.updBank_inTrap (st : Strand) (f : Bank → Bank) : (st.updBank f).inTrap = st.inTrap := Strand.setBank_inTrap st _ _
@[simp] theorem Strand.updBank_trapHold (st : Strand) (f : Bank → Bank) : (st.updBank f).trapHold = st.trapHold := Strand.setBank_trapHold st _ _
@[simp] theorem Strand.updBank_hooks (st : Strand) (f : Bank → Bank) : (st.updBank f).hooks = st.hooks := Strand.setBank_hooks st _ _
@[simp] theorem Strand.updBank_trapPc (st : Strand) (f : Bank → Bank) : (st.updBank f).trapPc = st.trapPc := Strand.setBank_trapPc st _ _
@[simp] theorem Strand.updBank_startTick (st : Strand) (f : Bank → Bank) : (st.updBank f).startTick = st.startTick := Strand.setBank_startTick st _ _
@[simp] theorem Strand.updBank_anchored (st : Strand) (f : Bank → Bank) : (st.updBank f).anchored = st.anchored := Strand.setBank_anchored st _ _
@[simp] theorem Strand.updBank_retiredAt (st : Strand) (f : Bank → Bank) : (st.updBank f).retiredAt = st.retiredAt := Strand.setBank_retiredAt st _ _
@[simp] theorem Strand.updBank_recvq (st : Strand) (f : Bank → Bank) : (st.updBank f).recvq = st.recvq := Strand.setBank_recvq st _ _
@[simp] theorem Strand.updBank_unaccepted (st : Strand) (f : Bank → Bank) : (st.updBank f).unaccepted = st.unaccepted := Strand.setBank_unaccepted st _ _
@[simp] theorem Strand.updBank_fencedW (st : Strand) (f : Bank → Bank) : (st.updBank f).fencedW = st.fencedW := Strand.setBank_fencedW st _ _
@[simp] theorem Strand.updBank_fencedR (st : Strand) (f : Bank → Bank) : (st.updBank f).fencedR = st.fencedR := Strand.setBank_fencedR st _ _
@[simp] theorem Strand.updBank_fencedSeq (st : Strand) (f : Bank → Bank) : (st.updBank f).fencedSeq = st.fencedSeq := Strand.setBank_fencedSeq st _ _
@[simp] theorem Strand.updBank_dieReleases (st : Strand) (f : Bank → Bank) : (st.updBank f).dieReleases = st.dieReleases := Strand.setBank_dieReleases st _ _
@[simp] theorem Strand.updBank_upset (st : Strand) (f : Bank → Bank) : (st.updBank f).upset = st.upset := Strand.setBank_upset st _ _
@[simp] theorem Strand.updBank_fencedSeqR (st : Strand) (f : Bank → Bank) : (st.updBank f).fencedSeqR = st.fencedSeqR := Strand.setBank_fencedSeqR st _ _
@[simp] theorem Strand.updBank_acqSeq (st : Strand) (f : Bank → Bank) : (st.updBank f).acqSeq = st.acqSeq := Strand.setBank_acqSeq st _ _
@[simp] theorem Strand.updBank_joined (st : Strand) (f : Bank → Bank) : (st.updBank f).joined = st.joined := Strand.setBank_joined st _ _
@[simp] theorem Strand.updBank_thawed (st : Strand) (f : Bank → Bank) : (st.updBank f).thawed = st.thawed := Strand.setBank_thawed st _ _
@[simp] theorem Strand.updBank_pc (st : Strand) (f : Bank → Bank) : (st.updBank f).pc = st.pc := Strand.setBank_pc st _ _
@[simp] theorem Strand.branchTo_status (st : Strand) (t : W64) : (st.branchTo t).status = st.status := Strand.setBank_status st _ _
@[simp] theorem Strand.branchTo_unit (st : Strand) (t : W64) : (st.branchTo t).unit = st.unit := Strand.setBank_unit st _ _
@[simp] theorem Strand.branchTo_codeStart (st : Strand) (t : W64) : (st.branchTo t).codeStart = st.codeStart := Strand.setBank_codeStart st _ _
@[simp] theorem Strand.branchTo_codeLen (st : Strand) (t : W64) : (st.branchTo t).codeLen = st.codeLen := Strand.setBank_codeLen st _ _
@[simp] theorem Strand.branchTo_mode (st : Strand) (t : W64) : (st.branchTo t).mode = st.mode := Strand.setBank_mode st _ _
@[simp] theorem Strand.branchTo_glen (st : Strand) (t : W64) : (st.branchTo t).glen = st.glen := Strand.setBank_glen st _ _
@[simp] theorem Strand.branchTo_gpre (st : Strand) (t : W64) : (st.branchTo t).gpre = st.gpre := Strand.setBank_gpre st _ _
@[simp] theorem Strand.branchTo_gsync (st : Strand) (t : W64) : (st.branchTo t).gsync = st.gsync := Strand.setBank_gsync st _ _
@[simp] theorem Strand.branchTo_flags (st : Strand) (t : W64) : (st.branchTo t).flags = st.flags := Strand.setBank_flags st _ _
@[simp] theorem Strand.branchTo_rndm (st : Strand) (t : W64) : (st.branchTo t).rndm = st.rndm := Strand.setBank_rndm st _ _
@[simp] theorem Strand.branchTo_srseed (st : Strand) (t : W64) : (st.branchTo t).srseed = st.srseed := Strand.setBank_srseed st _ _
@[simp] theorem Strand.branchTo_mixsel (st : Strand) (t : W64) : (st.branchTo t).mixsel = st.mixsel := Strand.setBank_mixsel st _ _
@[simp] theorem Strand.branchTo_hookAddr (st : Strand) (t : W64) : (st.branchTo t).hookAddr = st.hookAddr := Strand.setBank_hookAddr st _ _
@[simp] theorem Strand.branchTo_hookEn (st : Strand) (t : W64) : (st.branchTo t).hookEn = st.hookEn := Strand.setBank_hookEn st _ _
@[simp] theorem Strand.branchTo_viewSlot (st : Strand) (t : W64) : (st.branchTo t).viewSlot = st.viewSlot := Strand.setBank_viewSlot st _ _
@[simp] theorem Strand.branchTo_v (st : Strand) (t : W64) : (st.branchTo t).v = st.v := Strand.setBank_v st _ _
@[simp] theorem Strand.branchTo_k (st : Strand) (t : W64) : (st.branchTo t).k = st.k := Strand.setBank_k st _ _
@[simp] theorem Strand.branchTo_b (st : Strand) (t : W64) : (st.branchTo t).b = st.b := Strand.setBank_b st _ _
@[simp] theorem Strand.branchTo_emu (st : Strand) (t : W64) : (st.branchTo t).emu = st.emu := Strand.setBank_emu st _ _
@[simp] theorem Strand.branchTo_rfl_ (st : Strand) (t : W64) : (st.branchTo t).rfl_ = st.rfl_ := Strand.setBank_rfl_ st _ _
@[simp] theorem Strand.branchTo_nxt (st : Strand) (t : W64) : (st.branchTo t).nxt = st.nxt := Strand.setBank_nxt st _ _
@[simp] theorem Strand.branchTo_bnd (st : Strand) (t : W64) : (st.branchTo t).bnd = st.bnd := Strand.setBank_bnd st _ _
@[simp] theorem Strand.branchTo_sflt (st : Strand) (t : W64) : (st.branchTo t).sflt = st.sflt := Strand.setBank_sflt st _ _
@[simp] theorem Strand.branchTo_dcode (st : Strand) (t : W64) : (st.branchTo t).dcode = st.dcode := Strand.setBank_dcode st _ _
@[simp] theorem Strand.branchTo_info (st : Strand) (t : W64) : (st.branchTo t).info = st.info := Strand.setBank_info st _ _
@[simp] theorem Strand.branchTo_clu (st : Strand) (t : W64) : (st.branchTo t).clu = st.clu := Strand.setBank_clu st _ _
@[simp] theorem Strand.branchTo_cause (st : Strand) (t : W64) : (st.branchTo t).cause = st.cause := Strand.setBank_cause st _ _
@[simp] theorem Strand.branchTo_sepc (st : Strand) (t : W64) : (st.branchTo t).sepc = st.sepc := Strand.setBank_sepc st _ _
@[simp] theorem Strand.branchTo_stval (st : Strand) (t : W64) : (st.branchTo t).stval = st.stval := Strand.setBank_stval st _ _
@[simp] theorem Strand.branchTo_svec (st : Strand) (t : W64) : (st.branchTo t).svec = st.svec := Strand.setBank_svec st _ _
@[simp] theorem Strand.branchTo_semu (st : Strand) (t : W64) : (st.branchTo t).semu = st.semu := Strand.setBank_semu st _ _
@[simp] theorem Strand.branchTo_sfcode (st : Strand) (t : W64) : (st.branchTo t).sfcode = st.sfcode := Strand.setBank_sfcode st _ _
@[simp] theorem Strand.branchTo_ssave (st : Strand) (t : W64) : (st.branchTo t).ssave = st.ssave := Strand.setBank_ssave st _ _
@[simp] theorem Strand.branchTo_kxsel (st : Strand) (t : W64) : (st.branchTo t).kxsel = st.kxsel := Strand.setBank_kxsel st _ _
@[simp] theorem Strand.branchTo_stub (st : Strand) (t : W64) : (st.branchTo t).stub = st.stub := Strand.setBank_stub st _ _
@[simp] theorem Strand.branchTo_chk (st : Strand) (t : W64) : (st.branchTo t).chk = st.chk := Strand.setBank_chk st _ _
@[simp] theorem Strand.branchTo_resume (st : Strand) (t : W64) : (st.branchTo t).resume = st.resume := Strand.setBank_resume st _ _
@[simp] theorem Strand.branchTo_restorePc (st : Strand) (t : W64) : (st.branchTo t).restorePc = st.restorePc := Strand.setBank_restorePc st _ _
@[simp] theorem Strand.branchTo_diverting (st : Strand) (t : W64) : (st.branchTo t).diverting = st.diverting := Strand.setBank_diverting st _ _
@[simp] theorem Strand.branchTo_wait (st : Strand) (t : W64) : (st.branchTo t).wait = st.wait := Strand.setBank_wait st _ _
@[simp] theorem Strand.branchTo_notBefore (st : Strand) (t : W64) : (st.branchTo t).notBefore = st.notBefore := Strand.setBank_notBefore st _ _
@[simp] theorem Strand.branchTo_units (st : Strand) (t : W64) : (st.branchTo t).units = st.units := Strand.setBank_units st _ _
@[simp] theorem Strand.branchTo_wunits (st : Strand) (t : W64) : (st.branchTo t).wunits = st.wunits := Strand.setBank_wunits st _ _
@[simp] theorem Strand.branchTo_owed (st : Strand) (t : W64) : (st.branchTo t).owed = st.owed := Strand.setBank_owed st _ _
@[simp] theorem Strand.branchTo_viewTrap (st : Strand) (t : W64) : (st.branchTo t).viewTrap = st.viewTrap := Strand.setBank_viewTrap st _ _
@[simp] theorem Strand.branchTo_quorumLost (st : Strand) (t : W64) : (st.branchTo t).quorumLost = st.quorumLost := Strand.setBank_quorumLost st _ _
@[simp] theorem Strand.branchTo_held (st : Strand) (t : W64) : (st.branchTo t).held = st.held := Strand.setBank_held st _ _
@[simp] theorem Strand.branchTo_inTrap (st : Strand) (t : W64) : (st.branchTo t).inTrap = st.inTrap := Strand.setBank_inTrap st _ _
@[simp] theorem Strand.branchTo_trapHold (st : Strand) (t : W64) : (st.branchTo t).trapHold = st.trapHold := Strand.setBank_trapHold st _ _
@[simp] theorem Strand.branchTo_hooks (st : Strand) (t : W64) : (st.branchTo t).hooks = st.hooks := Strand.setBank_hooks st _ _
@[simp] theorem Strand.branchTo_trapPc (st : Strand) (t : W64) : (st.branchTo t).trapPc = st.trapPc := Strand.setBank_trapPc st _ _
@[simp] theorem Strand.branchTo_startTick (st : Strand) (t : W64) : (st.branchTo t).startTick = st.startTick := Strand.setBank_startTick st _ _
@[simp] theorem Strand.branchTo_anchored (st : Strand) (t : W64) : (st.branchTo t).anchored = st.anchored := Strand.setBank_anchored st _ _
@[simp] theorem Strand.branchTo_retiredAt (st : Strand) (t : W64) : (st.branchTo t).retiredAt = st.retiredAt := Strand.setBank_retiredAt st _ _
@[simp] theorem Strand.branchTo_recvq (st : Strand) (t : W64) : (st.branchTo t).recvq = st.recvq := Strand.setBank_recvq st _ _
@[simp] theorem Strand.branchTo_unaccepted (st : Strand) (t : W64) : (st.branchTo t).unaccepted = st.unaccepted := Strand.setBank_unaccepted st _ _
@[simp] theorem Strand.branchTo_fencedW (st : Strand) (t : W64) : (st.branchTo t).fencedW = st.fencedW := Strand.setBank_fencedW st _ _
@[simp] theorem Strand.branchTo_fencedR (st : Strand) (t : W64) : (st.branchTo t).fencedR = st.fencedR := Strand.setBank_fencedR st _ _
@[simp] theorem Strand.branchTo_fencedSeq (st : Strand) (t : W64) : (st.branchTo t).fencedSeq = st.fencedSeq := Strand.setBank_fencedSeq st _ _
@[simp] theorem Strand.branchTo_dieReleases (st : Strand) (t : W64) : (st.branchTo t).dieReleases = st.dieReleases := Strand.setBank_dieReleases st _ _
@[simp] theorem Strand.branchTo_upset (st : Strand) (t : W64) : (st.branchTo t).upset = st.upset := Strand.setBank_upset st _ _
@[simp] theorem Strand.branchTo_fencedSeqR (st : Strand) (t : W64) : (st.branchTo t).fencedSeqR = st.fencedSeqR := Strand.setBank_fencedSeqR st _ _
@[simp] theorem Strand.branchTo_acqSeq (st : Strand) (t : W64) : (st.branchTo t).acqSeq = st.acqSeq := Strand.setBank_acqSeq st _ _
@[simp] theorem Strand.branchTo_joined (st : Strand) (t : W64) : (st.branchTo t).joined = st.joined := Strand.setBank_joined st _ _
@[simp] theorem Strand.branchTo_thawed (st : Strand) (t : W64) : (st.branchTo t).thawed = st.thawed := Strand.setBank_thawed st _ _
/-- Control that falls through a group changes the loops of the bank in use and the program counter (R168). -/
theorem Strand.fallThrough_shape (st : Strand) : ∃ f a, st.fallThrough = { st.updBank f with pc := a } := by
  unfold Strand.fallThrough
  split
  · exact ⟨id, st.next, by cases h : st.mode <;> simp [Strand.updBank, Strand.setBank, Strand.sup, Strand.bank, h]⟩
  · dsimp only
    split
    · exact ⟨_, _, rfl⟩
    · exact ⟨_, _, rfl⟩
@[simp] theorem Strand.fallThrough_status (st : Strand) : st.fallThrough.status = st.status := by
  obtain ⟨f, a, h⟩ := st.fallThrough_shape; rw [h]; exact Strand.updBank_status st f
@[simp] theorem Strand.fallThrough_unit (st : Strand) : st.fallThrough.unit = st.unit := by
  obtain ⟨f, a, h⟩ := st.fallThrough_shape; rw [h]; exact Strand.updBank_unit st f
@[simp] theorem Strand.fallThrough_codeStart (st : Strand) : st.fallThrough.codeStart = st.codeStart := by
  obtain ⟨f, a, h⟩ := st.fallThrough_shape; rw [h]; exact Strand.updBank_codeStart st f
@[simp] theorem Strand.fallThrough_codeLen (st : Strand) : st.fallThrough.codeLen = st.codeLen := by
  obtain ⟨f, a, h⟩ := st.fallThrough_shape; rw [h]; exact Strand.updBank_codeLen st f
@[simp] theorem Strand.fallThrough_mode (st : Strand) : st.fallThrough.mode = st.mode := by
  obtain ⟨f, a, h⟩ := st.fallThrough_shape; rw [h]; exact Strand.updBank_mode st f
@[simp] theorem Strand.fallThrough_glen (st : Strand) : st.fallThrough.glen = st.glen := by
  obtain ⟨f, a, h⟩ := st.fallThrough_shape; rw [h]; exact Strand.updBank_glen st f
@[simp] theorem Strand.fallThrough_gpre (st : Strand) : st.fallThrough.gpre = st.gpre := by
  obtain ⟨f, a, h⟩ := st.fallThrough_shape; rw [h]; exact Strand.updBank_gpre st f
@[simp] theorem Strand.fallThrough_gsync (st : Strand) : st.fallThrough.gsync = st.gsync := by
  obtain ⟨f, a, h⟩ := st.fallThrough_shape; rw [h]; exact Strand.updBank_gsync st f
@[simp] theorem Strand.fallThrough_flags (st : Strand) : st.fallThrough.flags = st.flags := by
  obtain ⟨f, a, h⟩ := st.fallThrough_shape; rw [h]; exact Strand.updBank_flags st f
@[simp] theorem Strand.fallThrough_rndm (st : Strand) : st.fallThrough.rndm = st.rndm := by
  obtain ⟨f, a, h⟩ := st.fallThrough_shape; rw [h]; exact Strand.updBank_rndm st f
@[simp] theorem Strand.fallThrough_srseed (st : Strand) : st.fallThrough.srseed = st.srseed := by
  obtain ⟨f, a, h⟩ := st.fallThrough_shape; rw [h]; exact Strand.updBank_srseed st f
@[simp] theorem Strand.fallThrough_mixsel (st : Strand) : st.fallThrough.mixsel = st.mixsel := by
  obtain ⟨f, a, h⟩ := st.fallThrough_shape; rw [h]; exact Strand.updBank_mixsel st f
@[simp] theorem Strand.fallThrough_hookAddr (st : Strand) : st.fallThrough.hookAddr = st.hookAddr := by
  obtain ⟨f, a, h⟩ := st.fallThrough_shape; rw [h]; exact Strand.updBank_hookAddr st f
@[simp] theorem Strand.fallThrough_hookEn (st : Strand) : st.fallThrough.hookEn = st.hookEn := by
  obtain ⟨f, a, h⟩ := st.fallThrough_shape; rw [h]; exact Strand.updBank_hookEn st f
@[simp] theorem Strand.fallThrough_viewSlot (st : Strand) : st.fallThrough.viewSlot = st.viewSlot := by
  obtain ⟨f, a, h⟩ := st.fallThrough_shape; rw [h]; exact Strand.updBank_viewSlot st f
@[simp] theorem Strand.fallThrough_v (st : Strand) : st.fallThrough.v = st.v := by
  obtain ⟨f, a, h⟩ := st.fallThrough_shape; rw [h]; exact Strand.updBank_v st f
@[simp] theorem Strand.fallThrough_k (st : Strand) : st.fallThrough.k = st.k := by
  obtain ⟨f, a, h⟩ := st.fallThrough_shape; rw [h]; exact Strand.updBank_k st f
@[simp] theorem Strand.fallThrough_b (st : Strand) : st.fallThrough.b = st.b := by
  obtain ⟨f, a, h⟩ := st.fallThrough_shape; rw [h]; exact Strand.updBank_b st f
@[simp] theorem Strand.fallThrough_emu (st : Strand) : st.fallThrough.emu = st.emu := by
  obtain ⟨f, a, h⟩ := st.fallThrough_shape; rw [h]; exact Strand.updBank_emu st f
@[simp] theorem Strand.fallThrough_rfl_ (st : Strand) : st.fallThrough.rfl_ = st.rfl_ := by
  obtain ⟨f, a, h⟩ := st.fallThrough_shape; rw [h]; exact Strand.updBank_rfl_ st f
@[simp] theorem Strand.fallThrough_nxt (st : Strand) : st.fallThrough.nxt = st.nxt := by
  obtain ⟨f, a, h⟩ := st.fallThrough_shape; rw [h]; exact Strand.updBank_nxt st f
@[simp] theorem Strand.fallThrough_bnd (st : Strand) : st.fallThrough.bnd = st.bnd := by
  obtain ⟨f, a, h⟩ := st.fallThrough_shape; rw [h]; exact Strand.updBank_bnd st f
@[simp] theorem Strand.fallThrough_sflt (st : Strand) : st.fallThrough.sflt = st.sflt := by
  obtain ⟨f, a, h⟩ := st.fallThrough_shape; rw [h]; exact Strand.updBank_sflt st f
@[simp] theorem Strand.fallThrough_dcode (st : Strand) : st.fallThrough.dcode = st.dcode := by
  obtain ⟨f, a, h⟩ := st.fallThrough_shape; rw [h]; exact Strand.updBank_dcode st f
@[simp] theorem Strand.fallThrough_info (st : Strand) : st.fallThrough.info = st.info := by
  obtain ⟨f, a, h⟩ := st.fallThrough_shape; rw [h]; exact Strand.updBank_info st f
@[simp] theorem Strand.fallThrough_clu (st : Strand) : st.fallThrough.clu = st.clu := by
  obtain ⟨f, a, h⟩ := st.fallThrough_shape; rw [h]; exact Strand.updBank_clu st f
@[simp] theorem Strand.fallThrough_cause (st : Strand) : st.fallThrough.cause = st.cause := by
  obtain ⟨f, a, h⟩ := st.fallThrough_shape; rw [h]; exact Strand.updBank_cause st f
@[simp] theorem Strand.fallThrough_sepc (st : Strand) : st.fallThrough.sepc = st.sepc := by
  obtain ⟨f, a, h⟩ := st.fallThrough_shape; rw [h]; exact Strand.updBank_sepc st f
@[simp] theorem Strand.fallThrough_stval (st : Strand) : st.fallThrough.stval = st.stval := by
  obtain ⟨f, a, h⟩ := st.fallThrough_shape; rw [h]; exact Strand.updBank_stval st f
@[simp] theorem Strand.fallThrough_svec (st : Strand) : st.fallThrough.svec = st.svec := by
  obtain ⟨f, a, h⟩ := st.fallThrough_shape; rw [h]; exact Strand.updBank_svec st f
@[simp] theorem Strand.fallThrough_semu (st : Strand) : st.fallThrough.semu = st.semu := by
  obtain ⟨f, a, h⟩ := st.fallThrough_shape; rw [h]; exact Strand.updBank_semu st f
@[simp] theorem Strand.fallThrough_sfcode (st : Strand) : st.fallThrough.sfcode = st.sfcode := by
  obtain ⟨f, a, h⟩ := st.fallThrough_shape; rw [h]; exact Strand.updBank_sfcode st f
@[simp] theorem Strand.fallThrough_ssave (st : Strand) : st.fallThrough.ssave = st.ssave := by
  obtain ⟨f, a, h⟩ := st.fallThrough_shape; rw [h]; exact Strand.updBank_ssave st f
@[simp] theorem Strand.fallThrough_kxsel (st : Strand) : st.fallThrough.kxsel = st.kxsel := by
  obtain ⟨f, a, h⟩ := st.fallThrough_shape; rw [h]; exact Strand.updBank_kxsel st f
@[simp] theorem Strand.fallThrough_stub (st : Strand) : st.fallThrough.stub = st.stub := by
  obtain ⟨f, a, h⟩ := st.fallThrough_shape; rw [h]; exact Strand.updBank_stub st f
@[simp] theorem Strand.fallThrough_chk (st : Strand) : st.fallThrough.chk = st.chk := by
  obtain ⟨f, a, h⟩ := st.fallThrough_shape; rw [h]; exact Strand.updBank_chk st f
@[simp] theorem Strand.fallThrough_resume (st : Strand) : st.fallThrough.resume = st.resume := by
  obtain ⟨f, a, h⟩ := st.fallThrough_shape; rw [h]; exact Strand.updBank_resume st f
@[simp] theorem Strand.fallThrough_restorePc (st : Strand) : st.fallThrough.restorePc = st.restorePc := by
  obtain ⟨f, a, h⟩ := st.fallThrough_shape; rw [h]; exact Strand.updBank_restorePc st f
@[simp] theorem Strand.fallThrough_diverting (st : Strand) : st.fallThrough.diverting = st.diverting := by
  obtain ⟨f, a, h⟩ := st.fallThrough_shape; rw [h]; exact Strand.updBank_diverting st f
@[simp] theorem Strand.fallThrough_wait (st : Strand) : st.fallThrough.wait = st.wait := by
  obtain ⟨f, a, h⟩ := st.fallThrough_shape; rw [h]; exact Strand.updBank_wait st f
@[simp] theorem Strand.fallThrough_notBefore (st : Strand) : st.fallThrough.notBefore = st.notBefore := by
  obtain ⟨f, a, h⟩ := st.fallThrough_shape; rw [h]; exact Strand.updBank_notBefore st f
@[simp] theorem Strand.fallThrough_units (st : Strand) : st.fallThrough.units = st.units := by
  obtain ⟨f, a, h⟩ := st.fallThrough_shape; rw [h]; exact Strand.updBank_units st f
@[simp] theorem Strand.fallThrough_wunits (st : Strand) : st.fallThrough.wunits = st.wunits := by
  obtain ⟨f, a, h⟩ := st.fallThrough_shape; rw [h]; exact Strand.updBank_wunits st f
@[simp] theorem Strand.fallThrough_owed (st : Strand) : st.fallThrough.owed = st.owed := by
  obtain ⟨f, a, h⟩ := st.fallThrough_shape; rw [h]; exact Strand.updBank_owed st f
@[simp] theorem Strand.fallThrough_viewTrap (st : Strand) : st.fallThrough.viewTrap = st.viewTrap := by
  obtain ⟨f, a, h⟩ := st.fallThrough_shape; rw [h]; exact Strand.updBank_viewTrap st f
@[simp] theorem Strand.fallThrough_quorumLost (st : Strand) : st.fallThrough.quorumLost = st.quorumLost := by
  obtain ⟨f, a, h⟩ := st.fallThrough_shape; rw [h]; exact Strand.updBank_quorumLost st f
@[simp] theorem Strand.fallThrough_held (st : Strand) : st.fallThrough.held = st.held := by
  obtain ⟨f, a, h⟩ := st.fallThrough_shape; rw [h]; exact Strand.updBank_held st f
@[simp] theorem Strand.fallThrough_inTrap (st : Strand) : st.fallThrough.inTrap = st.inTrap := by
  obtain ⟨f, a, h⟩ := st.fallThrough_shape; rw [h]; exact Strand.updBank_inTrap st f
@[simp] theorem Strand.fallThrough_trapHold (st : Strand) : st.fallThrough.trapHold = st.trapHold := by
  obtain ⟨f, a, h⟩ := st.fallThrough_shape; rw [h]; exact Strand.updBank_trapHold st f
@[simp] theorem Strand.fallThrough_hooks (st : Strand) : st.fallThrough.hooks = st.hooks := by
  obtain ⟨f, a, h⟩ := st.fallThrough_shape; rw [h]; exact Strand.updBank_hooks st f
@[simp] theorem Strand.fallThrough_trapPc (st : Strand) : st.fallThrough.trapPc = st.trapPc := by
  obtain ⟨f, a, h⟩ := st.fallThrough_shape; rw [h]; exact Strand.updBank_trapPc st f
@[simp] theorem Strand.fallThrough_startTick (st : Strand) : st.fallThrough.startTick = st.startTick := by
  obtain ⟨f, a, h⟩ := st.fallThrough_shape; rw [h]; exact Strand.updBank_startTick st f
@[simp] theorem Strand.fallThrough_anchored (st : Strand) : st.fallThrough.anchored = st.anchored := by
  obtain ⟨f, a, h⟩ := st.fallThrough_shape; rw [h]; exact Strand.updBank_anchored st f
@[simp] theorem Strand.fallThrough_retiredAt (st : Strand) : st.fallThrough.retiredAt = st.retiredAt := by
  obtain ⟨f, a, h⟩ := st.fallThrough_shape; rw [h]; exact Strand.updBank_retiredAt st f
@[simp] theorem Strand.fallThrough_recvq (st : Strand) : st.fallThrough.recvq = st.recvq := by
  obtain ⟨f, a, h⟩ := st.fallThrough_shape; rw [h]; exact Strand.updBank_recvq st f
@[simp] theorem Strand.fallThrough_unaccepted (st : Strand) : st.fallThrough.unaccepted = st.unaccepted := by
  obtain ⟨f, a, h⟩ := st.fallThrough_shape; rw [h]; exact Strand.updBank_unaccepted st f
@[simp] theorem Strand.fallThrough_fencedW (st : Strand) : st.fallThrough.fencedW = st.fencedW := by
  obtain ⟨f, a, h⟩ := st.fallThrough_shape; rw [h]; exact Strand.updBank_fencedW st f
@[simp] theorem Strand.fallThrough_fencedR (st : Strand) : st.fallThrough.fencedR = st.fencedR := by
  obtain ⟨f, a, h⟩ := st.fallThrough_shape; rw [h]; exact Strand.updBank_fencedR st f
@[simp] theorem Strand.fallThrough_fencedSeq (st : Strand) : st.fallThrough.fencedSeq = st.fencedSeq := by
  obtain ⟨f, a, h⟩ := st.fallThrough_shape; rw [h]; exact Strand.updBank_fencedSeq st f
@[simp] theorem Strand.fallThrough_dieReleases (st : Strand) : st.fallThrough.dieReleases = st.dieReleases := by
  obtain ⟨f, a, h⟩ := st.fallThrough_shape; rw [h]; exact Strand.updBank_dieReleases st f
@[simp] theorem Strand.fallThrough_upset (st : Strand) : st.fallThrough.upset = st.upset := by
  obtain ⟨f, a, h⟩ := st.fallThrough_shape; rw [h]; exact Strand.updBank_upset st f
@[simp] theorem Strand.fallThrough_fencedSeqR (st : Strand) : st.fallThrough.fencedSeqR = st.fencedSeqR := by
  obtain ⟨f, a, h⟩ := st.fallThrough_shape; rw [h]; exact Strand.updBank_fencedSeqR st f
@[simp] theorem Strand.fallThrough_acqSeq (st : Strand) : st.fallThrough.acqSeq = st.acqSeq := by
  obtain ⟨f, a, h⟩ := st.fallThrough_shape; rw [h]; exact Strand.updBank_acqSeq st f
@[simp] theorem Strand.fallThrough_joined (st : Strand) : st.fallThrough.joined = st.joined := by
  obtain ⟨f, a, h⟩ := st.fallThrough_shape; rw [h]; exact Strand.updBank_joined st f
@[simp] theorem Strand.fallThrough_thawed (st : Strand) : st.fallThrough.thawed = st.thawed := by
  obtain ⟨f, a, h⟩ := st.fallThrough_shape; rw [h]; exact Strand.updBank_thawed st f

end Sys2Proof.Machine
end

