-- ==== Sys2Proof/Laws/Ops.lean ====
section
/-! SUPPORT. The laws of the named operations: reading after writing, the canonical form of memory, what a lookup finds after
an update, the registers of a bank. -/
namespace Sys2Proof.Machine
open Sys2Proof

/-! ### Association lists -/

@[simp] theorem amGet_amSet {α : Type} (l : List (Nat × α)) (k j : Nat) (a d : α) :
    amGet (amSet l k a) j d = if k = j then a else amGet l j d := by
  induction l with
  | nil => simp [amSet, amGet]
  | cons p t ih =>
    obtain ⟨i, b⟩ := p
    simp only [amSet]
    split
    · rfl
    · split
      · next h1 h2 => subst h2; by_cases h : k = j <;> simp [amGet, h]
      · next h1 h2 =>
        simp only [amGet, ih]
        by_cases hi : i = j
        · have : k ≠ j := fun h => h2 (h.trans hi.symm)
          simp [hi, this]
        · simp [hi]

/-! ### Strands, cores, dies and partitions after an update -/

@[simp] theorem Hw.strand_setStrand (h : Hw) (k j : Nat) (st : Strand) :
    (h.setStrand k st).strand j = if k = j then st else h.strand j := amGet_amSet _ _ _ _ _
@[simp] theorem Hw.core_setCore (h : Hw) (k j : Nat) (c : Core) :
    (h.setCore k c).core j = if k = j then c else h.core j := amGet_amSet _ _ _ _ _
@[simp] theorem Hw.die_setDie (h : Hw) (k j : Nat) (d : Die) :
    (h.setDie k d).die j = if k = j then d else h.die j := amGet_amSet _ _ _ _ _
@[simp] theorem Hw.part_setPart (h : Hw) (k j : Nat) (p : Part) :
    (h.setPart k p).part j = if k % 8 = j % 8 then p else h.part j := by
  have e : ((Fin.ofNat 8 k : Fin 8) = Fin.ofNat 8 j) ↔ k % 8 = j % 8 := by
    rw [Fin.ext_iff]; rfl
  unfold Hw.part Hw.setPart
  by_cases h1 : k % 8 = j % 8
  · rw [if_pos h1, ← e.mpr h1]
    show (h.parts.set _ p)[(Fin.ofNat 8 k).val] = p
    exact Vector.getElem_set_self _
  · rw [if_neg h1]
    have : (Fin.ofNat 8 k : Fin 8).val ≠ (Fin.ofNat 8 j : Fin 8).val := h1
    show (h.parts.set _ p)[(Fin.ofNat 8 j).val] = h.parts[(Fin.ofNat 8 j).val]
    exact Vector.getElem_set_ne _ _ this

@[simp] theorem Hw.strand_updStrand (h : Hw) (k j : Nat) (f : Strand → Strand) :
    (h.updStrand k f).strand j = if k = j then f (h.strand j) else h.strand j := by
  simp only [Hw.updStrand, Hw.strand_setStrand]; split
  · next e => rw [e]
  · rfl
@[simp] theorem Hw.core_updCore (h : Hw) (k j : Nat) (f : Core → Core) :
    (h.updCore k f).core j = if k = j then f (h.core j) else h.core j := by
  simp only [Hw.updCore, Hw.core_setCore]; split
  · next e => rw [e]
  · rfl
@[simp] theorem Hw.die_updDie (h : Hw) (k j : Nat) (f : Die → Die) :
    (h.updDie k f).die j = if k = j then f (h.die j) else h.die j := by
  simp only [Hw.updDie, Hw.die_setDie]; split
  · next e => rw [e]
  · rfl
theorem Hw.part_congr (h : Hw) {k j : Nat} (e : k % 8 = j % 8) : h.part k = h.part j := by
  unfold Hw.part
  have : (Fin.ofNat 8 k : Fin 8) = Fin.ofNat 8 j := Fin.ext e
  rw [this]
@[simp] theorem Hw.part_updPart (h : Hw) (k j : Nat) (f : Part → Part) :
    (h.updPart k f).part j = if k % 8 = j % 8 then f (h.part j) else h.part j := by
  simp only [Hw.updPart, Hw.part_setPart]; split
  · next e => rw [h.part_congr e]
  · rfl

/-- What a lookup does not see: the list that it reads is the same. -/
theorem Hw.strand_of_strands {g h : Hw} (e : g.strands = h.strands) (k : Nat) : g.strand k = h.strand k := by
  simp [Hw.strand, e]
theorem Hw.core_of_cores {g h : Hw} (e : g.cores = h.cores) (k : Nat) : g.core k = h.core k := by simp [Hw.core, e]
theorem Hw.die_of_dies {g h : Hw} (e : g.dies = h.dies) (k : Nat) : g.die k = h.die k := by simp [Hw.die, e]
theorem Hw.part_of_parts {g h : Hw} (e : g.parts = h.parts) (k : Nat) : g.part k = h.part k := by simp [Hw.part, e]

@[simp] theorem Hw.strand_later (h : Hw) (n : Nat) (a : PendAct) (k : Nat) : (h.later n a).strand k = h.strand k := rfl
@[simp] theorem Hw.strand_pendFor (h : Hw) (j n : Nat) (a : PendAct) (k : Nat) : (h.pendFor j n a).strand k = h.strand k := rfl
@[simp] theorem Hw.strand_at (h : Hw) (w : Nat) (e : Event) (k : Nat) : (h.at w e).strand k = h.strand k := rfl
@[simp] theorem Hw.strand_soon (h : Hw) (e : Event) (k : Nat) : (h.soon e).strand k = h.strand k := rfl
@[simp] theorem Hw.strand_updDie (h : Hw) (d : Nat) (f : Die → Die) (k : Nat) : (h.updDie d f).strand k = h.strand k := rfl
@[simp] theorem Hw.strand_updCore (h : Hw) (d : Nat) (f : Core → Core) (k : Nat) : (h.updCore d f).strand k = h.strand k := rfl
@[simp] theorem Hw.strand_updPart (h : Hw) (d : Nat) (f : Part → Part) (k : Nat) : (h.updPart d f).strand k = h.strand k := rfl
@[simp] theorem Hw.strand_updPkg (h : Hw) (f : Package → Package) (k : Nat) : (h.updPkg f).strand k = h.strand k := rfl
@[simp] theorem Hw.core_updStrand (h : Hw) (d : Nat) (f : Strand → Strand) (k : Nat) : (h.updStrand d f).core k = h.core k := rfl
@[simp] theorem Hw.die_updStrand (h : Hw) (d : Nat) (f : Strand → Strand) (k : Nat) : (h.updStrand d f).die k = h.die k := rfl
@[simp] theorem Hw.part_updStrand (h : Hw) (d : Nat) (f : Strand → Strand) (k : Nat) : (h.updStrand d f).part k = h.part k := rfl
@[simp] theorem Hw.core_later (h : Hw) (n : Nat) (a : PendAct) (k : Nat) : (h.later n a).core k = h.core k := rfl
@[simp] theorem Hw.die_later (h : Hw) (n : Nat) (a : PendAct) (k : Nat) : (h.later n a).die k = h.die k := rfl
@[simp] theorem Hw.part_later (h : Hw) (n : Nat) (a : PendAct) (k : Nat) : (h.later n a).part k = h.part k := rfl

@[simp] theorem Hw.st_upd (h : Hw) (f : Strand → Strand) : (h.upd f).st = f h.st := by
  show (h.updStrand h.cur f).strand h.cur = _
  simp [Hw.st]
@[simp] theorem Hw.st_later (h : Hw) (n : Nat) (a : PendAct) : (h.later n a).st = h.st := rfl
@[simp] theorem Hw.st_advance (h : Hw) : h.advance.st = h.st.fallThrough := Hw.st_upd _ _
@[simp] theorem Hw.strand_upd (h : Hw) (f : Strand → Strand) (j : Nat) :
    (h.upd f).strand j = if h.cur = j then f (h.strand j) else h.strand j := Hw.strand_updStrand _ _ _ _
@[simp] theorem Hw.strand_advance (h : Hw) (j : Nat) :
    h.advance.strand j = if h.cur = j then (h.strand j).fallThrough else h.strand j := Hw.strand_updStrand _ _ _ _

/-! ### Pending writes -/

theorem Hw.later_pend (h : Hw) (n : Nat) (a : PendAct) :
    (h.later n a).pend = h.pend ++ [⟨h.myPart, h.useWall h.cur, h.tick + n, h.seq, a⟩] := rfl

/-! ### Registers of a bank (R128) -/

@[simp] theorem Bank.readX_zero (b : Bank) : b.readX 0 = 0 := rfl
@[simp] theorem Bank.writeX_zero (b : Bank) (v : W64) : b.writeX 0 v = b := rfl
theorem Bank.readX_writeX (b : Bank) (r q : XReg) (v : W64) :
    (b.writeX r v).readX q = if q = 0 then 0 else if r = q then v else b.readX q := by
  unfold Bank.writeX Bank.readX
  by_cases hq : q = 0
  · simp [hq]
  · simp only [hq, if_false]
    by_cases hr : r = 0
    · have : (0 : XReg) ≠ q := fun e => hq e.symm
      subst hr; simp [this]
    · simp only [hr, if_false]
      by_cases h : r = q
      · subst h
        rw [if_pos rfl]
        show (b.x.set r.val v r.isLt)[r.val] = v
        exact Vector.getElem_set_self _
      · have : r.val ≠ q.val := fun e => h (Fin.ext e)
        simp only [h, if_false]
        show (b.x.set r.val v r.isLt)[q.val] = b.x[q.val]
        exact Vector.getElem_set_ne _ _ this

@[simp] theorem Strand.bank_setBank (st : Strand) (b : Bank) : (st.setBank st.sup b).bank = b := by
  cases h : st.mode <;> simp [Strand.setBank, Strand.sup, Strand.bank, h]
@[simp] theorem Strand.bank_updBank (st : Strand) (f : Bank → Bank) : (st.updBank f).bank = f st.bank :=
  Strand.bank_setBank _ _

/-! ### Memory (R79): reading after writing, and the canonical form -/

@[simp] theorem Memory.read_nil (k : Nat) : Memory.read [] k = unlisted := rfl

/-- Below the least key of a canonical memory nothing is listed. -/
theorem Memory.read_of_wfFrom {m : Memory} {lo k : Nat} (h : m.wfFrom lo = true) (hk : k < lo) : m.read k = unlisted := by
  induction m generalizing lo with
  | nil => rfl
  | cons p t ih =>
    obtain ⟨j, c⟩ := p
    simp only [Memory.wfFrom, Bool.and_eq_true, decide_eq_true_eq] at h
    have hj : j ≠ k := by omega
    simp only [Memory.read, amGet, if_neg hj]
    exact ih h.2 (by omega)

theorem Memory.wfFrom_mono {m : Memory} {a b : Nat} (h : m.wfFrom b = true) (ab : a ≤ b) : m.wfFrom a = true := by
  cases m with
  | nil => rfl
  | cons p t =>
    obtain ⟨j, c⟩ := p
    simp only [Memory.wfFrom, Bool.and_eq_true, decide_eq_true_eq] at h ⊢
    exact ⟨⟨by omega, h.1.2⟩, h.2⟩

/-- A write keeps the canonical form. -/
theorem Memory.write_wfFrom {m : Memory} {lo k : Nat} (b : Byte) (h : m.wfFrom lo = true) (hk : lo ≤ k) :
    (m.write k b).wfFrom lo = true := by
  induction m generalizing lo with
  | nil =>
    simp only [Memory.write]
    split
    · rfl
    · next hb => simp [Memory.wfFrom, hb, hk]
  | cons p t ih =>
    obtain ⟨j, c⟩ := p
    have h' := h
    simp only [Memory.wfFrom, Bool.and_eq_true, decide_eq_true_eq] at h'
    simp only [Memory.write]
    split
    · next hkj =>
      split
      · exact h
      · next hb =>
        simp only [Memory.wfFrom, Bool.and_eq_true, decide_eq_true_eq]
        exact ⟨⟨hk, hb⟩, ⟨by omega, h'.1.2⟩, h'.2⟩
    · split
      · next hkj =>
        split
        · exact Memory.wfFrom_mono h'.2 (by omega)
        · next hb =>
          simp only [Memory.wfFrom, Bool.and_eq_true, decide_eq_true_eq]
          exact ⟨⟨hk, hb⟩, by rw [hkj]; exact h'.2⟩
      · simp only [Memory.wfFrom, Bool.and_eq_true, decide_eq_true_eq]
        exact ⟨h'.1, ih h'.2 (by omega)⟩

theorem Memory.write_wf {m : Memory} (k : Nat) (b : Byte) (h : m.wf = true) : (m.write k b).wf = true :=
  Memory.write_wfFrom b h (Nat.zero_le _)

theorem Memory.writeBytes_wf {m : Memory} (k : Nat) (bs : List Byte) (h : m.wf = true) : (m.writeBytes k bs).wf = true := by
  induction bs generalizing m k with
  | nil => exact h
  | cons b t ih => exact ih _ (Memory.write_wf k b h)

theorem State.poke_wf {s : State} (k : Nat) (bs : List Byte) (h : Memory.wf s.mem = true) :
    Memory.wf (s.poke k bs).mem = true := Memory.writeBytes_wf k bs h

/-- A read after a write (canonical memories). -/
theorem Memory.read_writeFrom {m : Memory} {lo : Nat} (k j : Nat) (b : Byte) (h : m.wfFrom lo = true) :
    (m.write k b).read j = if k = j then b else m.read j := by
  induction m generalizing lo with
  | nil =>
    simp only [Memory.write]
    split
    · next hb => simp [Memory.read, amGet, hb]
    · simp [Memory.read, amGet]
  | cons p t ih =>
    obtain ⟨i, c⟩ := p
    simp only [Memory.wfFrom, Bool.and_eq_true, decide_eq_true_eq] at h
    simp only [Memory.write]
    split
    · next hki =>
      split
      · next hb =>
        by_cases hk : k = j
        · subst hk
          have : i ≠ k := by omega
          rw [if_pos rfl, hb]
          simp only [Memory.read, amGet, if_neg this]
          exact Memory.read_of_wfFrom h.2 (by omega)
        · rw [if_neg hk]
      · simp [Memory.read, amGet]
    · split
      · next hki =>
        subst hki
        split
        · next hb =>
          by_cases hk : k = j
          · subst hk
            rw [if_pos rfl, hb]
            exact Memory.read_of_wfFrom h.2 (by omega)
          · rw [if_neg hk]; simp [Memory.read, amGet, hk]
        · by_cases hk : k = j <;> simp [Memory.read, amGet, hk]
      · next hlt hne =>
        have := ih h.2
        simp only [Memory.read, amGet] at this ⊢
        by_cases hi : i = j
        · have : k ≠ j := fun e => hne (e.trans hi.symm)
          simp [hi, this]
        · simp [hi, this]

theorem Memory.read_write {m : Memory} (k j : Nat) (b : Byte) (h : m.wf = true) :
    (m.write k b).read j = if k = j then b else m.read j := Memory.read_writeFrom k j b h

/-- A read after a store of several bytes: the byte stored there, or what stood there before. -/
theorem Memory.read_writeBytes {m : Memory} (k j : Nat) (bs : List Byte) (h : m.wf = true) :
    (m.writeBytes k bs).read j = if k ≤ j then bs.getD (j - k) (m.read j) else m.read j := by
  induction bs generalizing m k with
  | nil => simp [Memory.writeBytes]
  | cons b t ih =>
    rw [Memory.writeBytes, ih _ (Memory.write_wf k b h), Memory.read_write k j b h]
    by_cases h1 : k = j
    · subst h1
      rw [if_neg (by omega), if_pos rfl, if_pos (Nat.le_refl k), Nat.sub_self]; rfl
    · by_cases h2 : k ≤ j
      · have e : j - k = (j - (k + 1)) + 1 := by omega
        rw [if_pos (by omega), if_pos h2, if_neg h1, e]; rfl
      · rw [if_neg (by omega), if_neg h2, if_neg h1]

theorem Memory.reset_wf : Memory.wf State.reset.mem = true := rfl

/-! ### Bytes of a number (R3) -/

@[simp] theorem leBytes_length (n v : Nat) : (leBytes n v).length = n := by
  induction n generalizing v with
  | zero => rfl
  | succ n ih => simp [leBytes, ih]

theorem leNat_leBytes (n v : Nat) : leNat (leBytes n v) = v % 256 ^ n := by
  induction n generalizing v with
  | zero => simp [leBytes, leNat, Nat.mod_one]
  | succ n ih =>
    have e : (BitVec.ofNat 8 v).toNat = v % 256 := BitVec.toNat_ofNat v 8
    rw [leBytes, leNat, ih, e, Nat.pow_succ, Nat.mul_comm (256 ^ n) 256, Nat.mod_mul]

/-! ### The shape of a meaning -/

/-- An instruction at issue answers a next state whose memory is the same: its stores land later (R7, R82). -/
theorem issue_next (s : State) (f : Memory → Hw → Hw) : issue s f = .next { s with hw := f s.mem s.hw } := rfl

theorem atSlot_next {slot : Nat} {s : State} {f : State → State} (h : slot < 48) : atSlot slot s f = .next (f s) := by
  simp [atSlot, h]
theorem inPart_next {p : Nat} {s : State} {f : State → State} (h : p < 8) : inPart p s f = .next (f s) := by
  simp [inPart, h]

/-! ### Taking a trap (R359) -/

theorem Hw.trapOf_kernel (h : Hw) (k : Nat) (t : TrapInfo) (hm : (h.strand k).mode = .kernel) :
    h.trapOf k t = h.updStrand k fun st => st.enterTrap h.wtick k t := by simp [Hw.trapOf, hm]

end Sys2Proof.Machine
end

