-- ==== Sys2Proof/Laws/Issue.lean ====
section
/-! SUPPORT. What the shared operations do at an issue, in the words of the statements: the result of an arithmetic group, a
scheduled write, a trap. -/
namespace Sys2Proof.Machine
open Sys2Proof Sys2Proof.Claims

/-! ### Landings -/

@[simp] theorem landings_nil : landings [] = [] := rfl
@[simp] theorem landings_append (a b : List Pend) : landings (a ++ b) = landings a ++ landings b := by simp [landings]
theorem landings_later (h : Hw) (n : Nat) (a : PendAct) :
    landings (h.later n a).pend = landings h.pend ++ [inTicks h (n, a)] := by
  rw [Hw.later_pend, landings_append]; rfl

theorem inTicks_later (h : Hw) (n : Nat) (a : PendAct) : inTicks (h.later n a) = inTicks h := rfl

theorem landings_landX (h : Hw) (d : XReg) (v : W64) (lat : Nat) :
    landings (h.landX d v lat).pend = landings h.pend ++ (xWrite h d v lat).map (inTicks h) := by
  unfold Hw.landX xWrite
  split
  · simp
  · rw [landings_later]; rfl
theorem landings_landFlags (h : Hw) (b : BitVec 6) (lat : Nat) :
    landings (h.landFlags b lat).pend = landings h.pend ++ (flagWrite h b lat).map (inTicks h) := by
  unfold Hw.landFlags flagWrite
  split
  · simp
  · rw [landings_later]; rfl

/-- Scheduling a write changes the pending writes and the issue counter only. -/
theorem landX_shape (h : Hw) (d : XReg) (v : W64) (lat : Nat) :
    h.landX d v lat = { h with pend := (h.landX d v lat).pend, seq := (h.landX d v lat).seq } := by
  unfold Hw.landX; split <;> rfl
theorem landFlags_shape (h : Hw) (b : BitVec 6) (lat : Nat) :
    h.landFlags b lat = { h with pend := (h.landFlags b lat).pend, seq := (h.landFlags b lat).seq } := by
  unfold Hw.landFlags; split <;> rfl

/-- A scalar result: what it schedules, and that nothing but the strand, the pending writes and the issue counter differs. -/
theorem result_shape (h : Hw) (d : XReg) (v : W64) (fl : FlagBits) (lat : Nat) :
    h.result d v fl lat = { h.advance with pend := (h.result d v fl lat).pend, seq := (h.result d v fl lat).seq } := by
  unfold Hw.result
  rw [landX_shape, landFlags_shape]; rfl

theorem landings_result (h : Hw) (d : XReg) (v : W64) (fl : FlagBits) (lat : Nat) :
    landings (h.result d v fl lat).pend =
      landings h.pend ++ (xWrite h d v lat ++ flagWrite h fl lat).map (inTicks h) := by
  unfold Hw.result
  rw [Hw.advance_pend, landings_landFlags, landings_landX]
  rw [landX_shape]
  simp only [List.map_append, List.append_assoc]; rfl

/-- An issue that leaves the strand changed by `f` and completes with a scalar result. -/
theorem issued_result (s : State) (f : Strand → Strand) (g : Hw) (hg : g = s.hw.upd f)
    (ht : inTicks g = inTicks s.hw) (hs : g.st.sup = s.hw.st.sup) (d : XReg) (v : W64) (fl : FlagBits) (lat : Nat) :
    Issued s { s with hw := g.result d v fl lat } g.st.fallThrough (xWrite s.hw d v lat ++ flagWrite s.hw fl lat) := by
  subst hg
  refine ⟨?_, ?_, ?_, ?_⟩
  · dsimp only; rw [result_shape]; rfl
  · show (Hw.result _ _ _ _ _).st = _
    rw [result_shape]; exact Hw.st_advance _
  · intro k hk
    show (Hw.result _ _ _ _ _).strand k = _
    rw [result_shape]
    show (s.hw.upd f).advance.strand k = _
    have hk' : s.hw.cur ≠ k := fun e => hk e.symm
    simp [hk']
  · show landings (Hw.result _ _ _ _ _).pend = _
    rw [landings_result, ht]
    have e1 : xWrite (s.hw.upd f) d v lat = xWrite s.hw d v lat := by
      unfold xWrite; rw [hs]; rfl
    rw [e1]; rfl

/-- An arithmetic group: control falls through it, and the result lands. -/
theorem computes_result (s : State) (i : Instr) (d : XReg) (v : W64) (fl : FlagBits) (lat : Nat)
    (h : exec i s = .next { s with hw := s.hw.result d v fl lat }) : Computes s i d v fl lat := by
  refine ⟨_, h, ?_, ?_, ?_, ?_⟩
  · dsimp only; rw [result_shape]; rfl
  · show (Hw.result _ _ _ _ _).st = _
    rw [result_shape]; exact Hw.st_advance _
  · intro k hk
    show (Hw.result _ _ _ _ _).strand k = _
    rw [result_shape]
    show s.hw.advance.strand k = _
    have hk' : s.hw.cur ≠ k := fun e => hk e.symm
    simp [hk']
  · exact landings_result _ _ _ _ _

end Sys2Proof.Machine
end

