-- ==== Sys2Proof/Laws/Places.lean ====
section
/-! SUPPORT. Reading back what was just updated: partitions, graph contexts, fabric groups, and bytes stored at a key. -/
namespace Sys2Proof.Machine
open Sys2Proof

theorem vget_set {α : Type} {n : Nat} (v : Vector α n) (i j : Fin n) (a : α) (h : i.val < n) :
    (v.set i.val a h).get j = if i = j then a else v.get j := by
  show (v.set i.val a h)[j.val] = if i = j then a else v[j.val]
  rw [Vector.getElem_set]
  simp [Fin.ext_iff]

theorem ofNat_ne {n i j : Nat} (hi : i < n + 1) (hj : j < n + 1) (h : j ≠ i) : Fin.ofNat (n + 1) i ≠ Fin.ofNat (n + 1) j := by
  intro e
  have e2 := congrArg Fin.val e
  simp only [Fin.ofNat] at e2
  rw [Nat.mod_eq_of_lt hi, Nat.mod_eq_of_lt hj] at e2
  exact h e2.symm

/-! ### Partitions -/

@[simp] theorem Hw.part_updPart_same (h : Hw) (p : Nat) (f : Part → Part) : (h.updPart p f).part p = f (h.part p) := by
  show (h.parts.set (Fin.ofNat 8 p).val _ (Fin.ofNat 8 p).isLt).get (Fin.ofNat 8 p) = _
  rw [vget_set, if_pos rfl]
theorem Hw.part_updPart_ne (h : Hw) (p j : Nat) (f : Part → Part) (hp : p < 8) (hj : j < 8) (n : j ≠ p) :
    (h.updPart p f).part j = h.part j := by
  show (h.parts.set (Fin.ofNat 8 p).val _ (Fin.ofNat 8 p).isLt).get (Fin.ofNat 8 j) = _
  rw [vget_set, if_neg (ofNat_ne hp hj n)]; rfl

/-! ### Graph contexts -/

@[simp] theorem Hw.graph_updGraph_same (h : Hw) (g : Nat) (f : GraphCtx → GraphCtx) : (h.updGraph g f).graph g = f (h.graph g) := by
  show (h.pkg.graphs.set (Fin.ofNat 16 g).val _ (Fin.ofNat 16 g).isLt).get (Fin.ofNat 16 g) = _
  rw [vget_set, if_pos rfl]; rfl
theorem Hw.graph_updGraph_ne (h : Hw) (g j : Nat) (f : GraphCtx → GraphCtx) (hg : g < 16) (hj : j < 16) (n : j ≠ g) :
    (h.updGraph g f).graph j = h.graph j := by
  show (h.pkg.graphs.set (Fin.ofNat 16 g).val _ (Fin.ofNat 16 g).isLt).get (Fin.ofNat 16 j) = _
  rw [vget_set, if_neg (ofNat_ne hg hj n)]; rfl
theorem Hw.updGraph_shape (h : Hw) (g : Nat) (f : GraphCtx → GraphCtx) :
    h.updGraph g f = { h with pkg := { h.pkg with graphs := (h.updGraph g f).pkg.graphs } } := rfl

/-- A node step does nothing in a context that does not run. -/
theorem State.atNode_idle (s : State) (g ty : Nat) (f : Node → State) (h : (s.hw.graph g).run = false) : s.atNode g ty f = s := by
  unfold State.atNode; simp [h]
/-- It acts on the node where the context stands, read well and of its type. -/
theorem State.atNode_at (s : State) (g ty : Nat) (f : Node → State) (n : Node) (h : (s.hw.graph g).run = true)
    (hn : s.node? (s.hw.graph g).node = some n) (hz : n.mbz = false) (ht : n.type = ty) : s.atNode g ty f = f n := by
  unfold State.atNode; simp [h, hn, hz, ht]
/-- It is a graph fault at any other node. -/
theorem State.atNode_fault (s : State) (g ty : Nat) (f : Node → State) (h : (s.hw.graph g).run = true)
    (hn : s.node? (s.hw.graph g).node = none ∨ ∃ y, s.node? (s.hw.graph g).node = some y ∧ (y.mbz = true ∨ y.type ≠ ty)) :
    s.atNode g ty f = s.updHw fun h => h.graphFault g := by
  unfold State.atNode
  rcases hn with hn | ⟨y, hn, hy⟩
  · simp [h, hn]
  · simp [h, hn, hy]

/-! ### Fabric groups -/

theorem find_map_num (l : List FabGroup) (g e : Nat) (f : FabGroup → FabGroup) (hf : ∀ x, (f x).num = x.num) :
    (l.map fun x => if x.num = g then f x else x).find? (fun x => x.num == e) =
      (l.find? fun x => x.num == e).map fun x => if x.num = g then f x else x := by
  induction l with
  | nil => rfl
  | cons x t ih =>
    have hx : (if x.num = g then f x else x).num = x.num := by split <;> simp [hf]
    simp only [List.map_cons, List.find?_cons, hx]
    split <;> simp_all

/-- An update of a fabric group that keeps its number. -/
theorem Hw.fab_updFab_same (h : Hw) (p g : Nat) (f : FabGroup → FabGroup) (hf : ∀ x, (f x).num = x.num) :
    (h.updFab p g f).fab? p g = (h.fab? p g).map f := by
  unfold Hw.updFab Hw.fab? Part.fab?
  rw [Hw.part_updPart_same]
  show List.find? _ (List.map _ (h.part p).fabs) = _
  rw [find_map_num _ _ _ _ hf]
  generalize hl : (h.part p).fabs = l
  cases hx : l.find? (fun x => x.num == g) with
  | none => rfl
  | some x =>
    have := List.find?_some hx
    have e : x.num = g := by simpa using this
    simp [e]
theorem Hw.fab_updFab_ne (h : Hw) (p g e : Nat) (f : FabGroup → FabGroup) (hf : ∀ x, (f x).num = x.num) (n : e ≠ g) :
    (h.updFab p g f).fab? p e = h.fab? p e := by
  unfold Hw.updFab Hw.fab? Part.fab?
  rw [Hw.part_updPart_same]
  show List.find? _ (List.map _ (h.part p).fabs) = _
  rw [find_map_num _ _ _ _ hf]
  generalize hl : (h.part p).fabs = l
  cases hx : l.find? (fun x => x.num == e) with
  | none => rfl
  | some x =>
    have := List.find?_some hx
    have e2 : x.num = e := by simpa using this
    have : x.num ≠ g := by omega
    simp [this]

theorem State.put_wf {s : State} (k : Nat) (bs : List Byte) (h : Memory.wf s.mem = true) :
    Memory.wf (s.put k bs).mem = true := Memory.writeBytes_wf k bs h

@[simp] theorem State.put_mem (s : State) (k : Nat) (bs : List Byte) : (s.put k bs).mem = Memory.writeBytes s.mem k bs := rfl
@[simp] theorem State.put_hw (s : State) (k : Nat) (bs : List Byte) : (s.put k bs).hw = s.hw.stored k bs.length := rfl

end Sys2Proof.Machine
end

