-- ==== Sys2Proof/Tests/Slice0.lean ====
section
/-! SUPPORT. Tests of the model on words that the spec writes out and on small states, and witnesses: for each statement of the
obligations, states and operands that meet its hypotheses, clause by clause. -/
namespace Sys2Proof.Tests
set_option Elab.async false
open Sys2Proof Sys2Proof.Machine Sys2Proof.Claims

/-! ### Small states -/

/-- A bank with some registers set. -/
def bk (l : List (XReg × W64)) : Bank := l.foldl (fun b p => b.writeX p.1 p.2) {}
/-- A strand with some registers set. -/
def stx (l : List (XReg × W64)) : Strand := { kb := bk l }
/-- A state in which strand k is at issue. -/
def one (k : Nat) (st : Strand) (h : Hw := {}) (m : List Host.Cell := []) : State :=
  { mem := m, hw := { h with cur := k, strands := [(k, st)] } }
/-- Strands of an MX, a VN and a GS core, and die sequencers of a SW, an NB and an FB die. -/
def mx : Nat := 1792
def vn : Nat := 3328
def gs : Nat := 4352
def sw : Nat := 96
def nb : Nat := 608
def fb : Nat := 1632
/-- A partition that runs a kernel, strict or queued. -/
def running (strict : Bool) : Part := { kernel := some { strict := strict } }
/-- The same with partition 0 as given. -/
def hwPart (q : Part) : Hw := { parts := (Vector.replicate 8 ({} : Part)).set 0 q }

theorem clean_of_none (h : Hw) (e1 : h.pkg.bad = []) (e2 : h.pkg.single = []) (e3 : h.pkg.poison = []) (o n : Nat) : clean h o n := by
  intro b hb
  simp [e1, e2, e3] at hb

/-! ### Witnesses -/

theorem wit_IntegerRegisterOps :
    (fld 0x01000120 24 8 = 0x01 ∧ 18 ≤ fld 0x01000120 4 5) ∧ (fld 0x010001F0 24 8 = 0x01 ∧ fld 0x010001F0 4 5 = 31) := by decide

theorem wit_SaturatingArithmetic : (⟨0, 4, false, false, 0⟩ : Prefix).sat.toNat ≤ 4 ∧ (⟨0, 0, false, false, 0⟩ : Prefix).sat.toNat ≤ 4 := by
  decide

theorem wit_ImmediateOps :
    (63 : BitVec 10).toNat < 64 ∧ (fld 0x09000400 24 8 = 0x09 ∧ 64 ≤ fld 0x09000400 4 10) ∧
    (fld 0x0B003FF0 24 8 = 0x0B ∧ 64 ≤ fld 0x0B003FF0 4 10) := by decide

theorem wit_Division :
    (fld 0x02000040 24 8 = 0x02 ∧ 4 ≤ fld 0x02000040 4 5) ∧ (one mx {}).hw.divBusy = false ∧ (one mx {}).hw.rx 7 = 0 ∧
    (one mx (stx [(7, 1)])).hw.divBusy = false ∧ (one mx (stx [(7, 1)])).hw.rx 7 ≠ 0 := by decide +kernel

theorem wit_ConstantsCountsScaledAdds :
    (fld 0x12000200 24 8 = 0x12 ∧ fld 0x12000200 9 5 ≠ 0) ∧ (fld 0x0D000010 24 8 = 0x0D ∧ fld 0x0D000010 4 15 ≠ 0) ∧
    (fld 0x0E07FFF0 24 8 = 0x0E ∧ fld 0x0E07FFF0 4 15 ≠ 0) := by decide

theorem wit_BitFields : (fld 0x11003E01 24 8 = 0x11 ∧ fld 0x11003E01 9 5 ≠ 0) ∧ fld 0x1000 12 20 ≠ 0 := by decide

/-- A strand at its last word of loop 1, n iterations left. -/
def inLoop (n : Nat) : Strand :=
  { pc := 0x20, kb := { loops := (Vector.replicate 3 ({} : Loop)).set 1 { act := true, count := BitVec.ofNat 32 n, start := 0x10, last := 0x20 } } }

theorem wit_LoopControl :
    (leaves ((inLoop 2).bank.loops.get 1) 0x24 ∧ ¬ leaves ((inLoop 2).bank.loops.get 1) 0x20) ∧ (inLoop 2).glen ≤ 12 ∧
    (∀ n : LoopNo, ¬ endsAt {} (({} : Strand).bank.loops.get n)) ∧
    (endsAt (inLoop 2) ((inLoop 2).bank.loops.get 1) ∧ (∀ m : LoopNo, m ≠ 1 → ¬ endsAt (inLoop 2) ((inLoop 2).bank.loops.get m)) ∧
      1 < ((inLoop 2).bank.loops.get 1).count.toNat) ∧
    (endsAt (inLoop 1) ((inLoop 1).bank.loops.get 1) ∧ (∀ m : LoopNo, m ≠ 1 → ¬ endsAt (inLoop 1) ((inLoop 1).bank.loops.get m)) ∧
      ((inLoop 1).bank.loops.get 1).count.toNat ≤ 1) := by
  unfold leaves endsAt; decide +kernel

/-- A strand with n return addresses, the first of them t. -/
def withRets (n : Nat) (t : W64) (f : Strand → Strand := id) : Strand := f { kb := { bk [(5, 0x40), (6, 0x41)] with rets := List.replicate n t } }

theorem wit_CallsAndReturns :
    let s := one mx (withRets 15 8)
    let r := one mx (withRets 1 8)
    let hook := one mx (withRets 1 8 fun st => { st with inTrap := true, hooks := [(0, false)] })
    let full := one mx (withRets 16 8)
    (s.hw.st.bank.rets.length < 16 ∧ s.hw.st.wordAddr.toNat % 4 = 0 ∧ (s.hw.rx 5).toNat % 4 = 0) ∧
    (r.hw.st.bank.rets = 8 :: [] ∧ (8 : W64).toNat % 4 = 0 ∧ r.hw.st.hooks = []) ∧
    (hook.hw.st.bank.rets = 8 :: [] ∧ hook.hw.st.mode = .kernel ∧ hook.hw.st.hooks = (([] : List W64).length, false) :: [] ∧ hook.hw.strict = false) ∧
    (full.hw.st.mode = .kernel ∧ 16 ≤ full.hw.st.bank.rets.length) ∧
    (s.hw.st.mode = .kernel ∧ (s.hw.rx 6).toNat % 4 ≠ 0) ∧ ((one mx {}).hw.st.mode = .kernel ∧ (one mx {}).hw.st.bank.rets = []) ∧
    ((one mx (withRets 1 9)).hw.st.bank.rets = 9 :: [] ∧ (9 : W64).toNat % 4 ≠ 0) := by decide +kernel

theorem wit_HardwareLoops :
    let s := one mx (inLoop 2)
    let o := fun (n : BitVec 32) => n.toInt
    s.hw.st.mode = .kernel ∧ o 1 < 2 ∧ (2 ≤ o 258 ∧ 257 < o 258) ∧
    (2 ≤ o 2 ∧ o 2 ≤ 257 ∧ (s.hw.st.bank.loops.get 1).act = true) ∧
    (o 257 ≤ 257 ∧ (s.hw.st.bank.loops.get 0).act = false ∧
      ¬ ∀ j : LoopNo, (s.hw.st.bank.loops.get j).act = true →
        (s.hw.st.bank.loops.get j).start.toNat ≤ (Claims.w64 (0x20 + 8)).toNat ∧
        (Claims.w64 (0x20 + 4 * o 2)).toNat < (s.hw.st.bank.loops.get j).last.toNat) ∧
    (∀ j : LoopNo, (({} : Strand).bank.loops.get j).act = true → False) := by decide +kernel

/-- Addresses in x4: the last aligned place of a scratchpad, one beyond it, and a misaligned one. -/
def addrs : Strand := stx [(4, 0x1FFFF8), (5, 0x200000), (6, 0x1001), (7, 0x1FFFF0), (8, 0x1FF000)]

theorem wit_ScratchpadAccesses :
    let s := one vn addrs
    (mayAccess s.hw (s.hw.rx 4) 8 ∧ clean s.hw 0x1FFFF8 8) ∧ (mayAccess s.hw (s.hw.rx 6) 1 ∧ clean s.hw (0x1001 / 4 * 4) 4) := by
  refine ⟨⟨?_, clean_of_none _ rfl rfl rfl _ _⟩, ?_, clean_of_none _ rfl rfl rfl _ _⟩ <;> unfold mayAccess <;> decide +kernel

theorem wit_AtomicResults : (0 < 1 ∧ 255 < 2 ^ (8 * 1)) ∧ signedBytes 1 255 < signedBytes 1 0 ∧ ¬ signedBytes 1 0 < signedBytes 1 255 := by
  unfold signedBytes; decide +kernel

theorem wit_ScratchpadAccessTraps :
    let s := one vn addrs
    s.hw.st.mode = .kernel ∧ hasSpad s.hw.cur = true ∧ 0x200000 ≤ (s.hw.rx 5).toNat ∧
    (¬ 0x200000 ≤ (s.hw.rx 6).toNat ∧ (s.hw.rx 6).toNat % 2 ≠ 0 ∧ (s.hw.rx 6).toNat % 8 ≠ 0) ∧ hasSpad (one fb {}).hw.cur = false := by decide +kernel

/-- A healthy die bound to partition 0, with 16 pages of 4 KiB of the HBM of slot 4 mapped at virtual address 0. -/
def bound : Die :=
  { mix := { health := .good, bound := true }
    regions := (Vector.replicate 16 ({} : Region)).set 0 { v := true, scnt := 16 }
    brim := (List.range 16).map fun i =>
      (i, { frame0 := BitVec.ofNat 64 (2 ^ 60 + 4 * 2 ^ 52 + i * 4096), frame1 := 0, paired := false, p := false, w := true, r := true }) }
/-- A partition 0 of the four switch dies and one die of each other type. -/
def dies : Hw := { dies := [0, 1, 2, 3, 4, 12, 14, 26, 34].map fun d => (d, bound) }
def diesPart (q : Part) : Hw := { dies with parts := (Vector.replicate 8 ({} : Part)).set 0 q }

theorem wit_GlobalScalarAccesses :
    let s := one mx (stx [(4, 0xFFF8)]) dies
    (s.hw.die (slotOf s.hw.cur)).piece 0xFFF8 .both false = .ok (.mem (some 4) (hbmKey 4 0xFFF8)) ∧
    (s.hw.rx 4).toNat % 8 = 0 ∧ (s.hw.st.token s.hw.st.sup 7).pend < 63 := by
  refine ⟨rfl, ?_⟩; decide +kernel

/-- Strand with a sync word's address in x7 and generations in x1 and x2. -/
def syncs : Strand := stx [(7, 0x1FFFF0), (1, 1), (2, 0x80000001)]
def tokens (t : Token) : Strand := { kb := { tok := (Vector.replicate 8 ({} : Token)).set 3 t } }

theorem wit_SyncWordsAndTokenWaits :
    let s := one vn syncs
    (syncPlace s.hw 7 ∧ s.hw.portBusy = false ∧ clean s.hw 0x1FFFF0 16) ∧
    (BitVec.ofNat 32 (spadNat s (0x1FFFF0 + 4) 4) - (s.hw.rx 2).setWidth 32).toNat < 2 ^ 31 ∧
    (¬ (BitVec.ofNat 32 (spadNat s (0x1FFFF0 + 4) 4) - (s.hw.rx 1).setWidth 32).toNat < 2 ^ 31) ∧
    (((tokens {}).token false 3).pend = 0 ∧ ((tokens {}).token false 3).err = false ∧ ((tokens {}).token false 3).fence = false) ∧
    (((tokens { fence := true }).token false 3).pend = 0 ∧ ((tokens { fence := true }).token false 3).err = false ∧
      ((tokens { fence := true }).token false 3).fence = true) ∧
    (((tokens { fence := true, err := true }).token false 3).pend = 0 ∧ ((tokens { fence := true, err := true }).token false 3).fence = true ∧
      ((tokens { fence := true, err := true }).token false 3).err = true ∧ (tokens { fence := true, err := true }).joined = none) ∧
    (((tokens { err := true, code := 0x402 }).token false 3).pend = 0 ∧ ((tokens { err := true, code := 0x402 }).token false 3).err = true ∧
      ((tokens { err := true, code := 0x402 }).token false 3).fence = false ∧ (tokens { err := true }).mode = .kernel ∧ (tokens { err := true }).joined = none) ∧
    ((tokens { pend := 1 }).token false 3).pend ≠ 0 := by
  refine ⟨⟨?_, ?_, clean_of_none _ rfl rfl rfl _ _⟩, ?_⟩
  · unfold syncPlace; decide +kernel
  · decide +kernel
  · unfold spadNat; decide +kernel

theorem wit_MemoryFences :
    let s := one mx {} dies
    ((3 : BitVec 2) ≠ 0 ∧ (4 : BitVec 3).toNat < 5 ∧ (1 : BitVec 2) ≠ 0 ∧ (2 : BitVec 3).toNat < 5 ∧ (2 : BitVec 2) ≠ 0 ∧ (0 : BitVec 3).toNat < 5) ∧
    (s.hw.st.token s.hw.st.sup 0).pend < 63 ∧ s.hw.reaches s.hw.myPart 14 33 = false ∧
    (s.hw.reaches s.hw.myPart 14 34 = true ∧ 34 ≠ 14) ∧ (s.hw.reaches s.hw.myPart 14 14 = true) := by decide +kernel

/-- A core in group 9. -/
def grouped (x : GrpSlot) : Hw := { dies with cores := [(448, { team := some (0, 0), grps := [x] })] }

theorem wit_TeamBarriers :
    let at_ := fun (x : GrpSlot) (l : List Untimed) => (one mx {} { grouped x with untimed := l, wtick := 7 }).hw
    let mine : List Untimed := [{ id := 0, strand := mx, sup := false, tok := 0, op := .store [], pieces := [], due := 1 }]
    let sent : GrpSlot := { num := 9, pending := true, arrivedAt := some 6 }
    let now : GrpSlot := { num := 9, pending := true, arrivedAt := some 7 }
    let slot := fun (h : Hw) => (h.core (coreOf h.cur)).grp 9
    ((at_ sent mine).st.mode = .kernel ∧ slot (at_ sent mine) = some sent ∧ sent.arrivedAt ≠ some (at_ sent mine).wtick) ∧
    (slot (at_ now []) = some now ∧ (at_ now []).inFlight (at_ now []).cur false = [] ∧ (at_ now []).storesInFlight (at_ now []).cur = false) ∧
    (slot (at_ now mine) = some now ∧ now.pending = true ∧ now.arrivedAt = some (at_ now mine).wtick ∧
      (at_ now mine).inFlight (at_ now mine).cur false ≠ []) ∧
    (slot (at_ { num := 9 } []) = some { num := 9 } ∧ (at_ { num := 9 } []).inFlight (at_ { num := 9 } []).cur false = [] ∧
      (at_ { num := 9 } []).storesInFlight (at_ { num := 9 } []).cur = false) ∧
    (let h : Hw := { at_ { num := 9 } [] with pend := [{ part := 0, wall := true, due := 9, seq := 0, act := .store 448 0 0 [1] }] }
     h.strict = false ∧ h.storesInFlight h.cur = true) ∧
    (at_ { num := 9 } mine).inFlight (at_ { num := 9 } mine).cur false ≠ [] ∧
    ((at_ sent []).core (coreOf (at_ sent []).cur)).grp 8 = none ∧ (one mx { mode := .supervisor }).hw.st.mode = .supervisor := by
  decide +kernel

theorem wit_SystemInstructions :
    let s := fun (b : Bool) => one mx {} (hwPart { bken := b })
    (s false).hw.st.mode = .kernel ∧ ((s false).hw.part (s false).hw.myPart).bken = false ∧ ((s true).hw.part (s true).hw.myPart).bken = true ∧
    (one mx { mode := .supervisor }).hw.st.mode = .supervisor := by
  decide +kernel

theorem wit_SupervisorMode :
    let s := fun (st : Strand) => one mx st
    ((s { mode := .supervisor }).hw.strand mx).mode = .supervisor ∧ (s { mode := .supervisor }).hw.strict = false ∧
    (({ mode := .supervisor } : Strand).emu = false ∧ ({} : Strand).rfl_ = false ∧ ({} : Strand).sepc.toNat % 4 = 0 ∧
      ({ mode := .supervisor, sepc := 2 } : Strand).sepc.toNat % 4 ≠ 0) ∧
    (let r : Strand := { rfl_ := true, hookEn := true, cause := 0x20, kb := { rets := List.replicate 15 4 } }
     r.emu = false ∧ r.rfl_ = true ∧ r.hookEn = true ∧ r.cause ∉ [(0x10 : BitVec 8), 0x11, 0x12, 0x13, 0x31] ∧ r.kb.rets.length < 16) ∧
    (({ emu := true } : Strand).emu = true ∧ ({ emu := true } : Strand).sflt = false ∧ ({ emu := true, info := 0x0808 } : Strand).info.getLsbD 4 = false ∧
      ({ emu := true, info := 0x0818 } : Strand).info.getLsbD 4 = true) ∧ (0x01 : BitVec 8) ∉ [(0x05 : BitVec 8), 0x06, 0x07, 0x22] := by
  decide +kernel

/-- A strict partition at schedule tick 5, whose kernel has a checkpoint table and a stub table. -/
def strictPart (pend : Bool) (as : List AnchorRec := []) : Part :=
  { kernel := some { strict := true, chktab := some [{ n := 3, cls := 0, cluster := 0, ctick := 5, spad := [] }, { n := 4, cls := 0, cluster := 0, ctick := 6, spad := [] }]
                     stubtab := some [{ fr := 0, till := 8, stub := 64, restore := 128 }] }
    stick := 5, preemptPend := pend, anchors := as }

theorem wit_AnchorsAndCheckpoints :
    let s := fun (b : Bool) (as : List AnchorRec) => one mx {} (diesPart (strictPart b as))
    let st : Hw := { (s true []).hw with cores := [(448, { team := some (0, 0) })] }
    (one mx {} dies).hw.strict = false ∧ (st.strict = true ∧ (st.part st.myPart).stick % 2 ^ 20 ≠ 6 ∧ (st.part st.myPart).stick % 2 ^ 20 = 5 ∧ st.st.viewTrap = none) ∧
    (∃ a ∈ ((s false [{ at_ := 5, wall := 9, seg := 0 }]).hw.part 0).anchors, a.at_ = 5) ∧ (∀ a ∈ (st.part 0).anchors, a.at_ ≠ 5) ∧
    ((st.chkEntries st.cur).find? (fun e => e.n == 9) = none) ∧
    ((st.chkEntries st.cur).find? (fun e => e.n == 3) = some { n := 3, cls := 0, cluster := 0, ctick := 5, spad := [] }) ∧
    ((st.chkEntries st.cur).find? (fun e => e.n == 4) = some { n := 4, cls := 0, cluster := 0, ctick := 6, spad := [] }) ∧
    (st.st.stub = false ∧ st.st.wait = .none ∧ ({ stub := true } : Strand).stub = true) ∧
    ((s false []).hw.part (s false []).hw.myPart).preemptPend = false ∧ (st.part st.myPart).preemptPend = true ∧
    st.stubFor st.cur st.st.pc.toNat = some { fr := 0, till := 8, stub := 64, restore := 128 } := by decide +kernel

/-- A core of a team whose other strands have retired, on a die whose counter is n. -/
def oneTeam (st : Strand) (n : Nat) : Hw :=
  { cur := mx, strands := [(mx, st), (mx + 1, { status := .retired }), (mx + 2, { status := .retired }), (mx + 3, { status := .retired })], cores := [(448, { team := some (0, 0) })]
    dies := [(14, { bound with counter := n })] }

theorem wit_DrainRetireAndTimeWaits :
    let gone : Strand := { status := .retired, retiredAt := some 0 }
    let busy : Hw := oneTeam { unaccepted := 1 } 1
    ((oneTeam {} 1).st.mode = .kernel ∧ (oneTeam {} 1).drained mx = true ∧ (oneTeam {} 1).st.owed = none) ∧
    ((oneTeam {} 1).setStrand mx gone).teamDone 448 = true ∧
    (({ oneTeam {} 1 with strands := [(mx, {}), (mx + 1, { status := .running })] } : Hw).setStrand mx gone).teamDone 448 = false ∧
    (busy.st.mode = .kernel ∧ busy.drained mx = false) ∧ (oneTeam (stx [(1, 1)]) 1).ftime.toNat < ((oneTeam (stx [(1, 1)]) 1).rx 1).toNat ∧
    ((oneTeam {} 1).rx 1).toNat ≤ (oneTeam {} 1).wtick ∧ (oneTeam (stx [(1, 1)]) 1).wtick < ((oneTeam (stx [(1, 1)]) 1).rx 1).toNat := by
  decide +kernel

theorem wit_SpecialRegisters :
    let s := one mx {} (diesPart (running true))
    let v := one mx { mode := .supervisor }
    ((mayName s.hw 0x000 ∧ mayName s.hw 0x02A) ∧ (mayName v.hw 0x82F ∧ mayName v.hw 0x811)) ∧
    (0x800 ≤ (0x800 : BitVec 12).toNat ∧ s.hw.st.mode = .kernel) ∧
    (List.all [0x007, 0x00E, 0x00F, 0x016, 0x017, 0x019, 0x01F, 0x023, 0x027, 0x02B, 0x030, 0x7FF] fun n => decide (n < 0x800 ∧ n ∉ kernelRegs)) = true ∧
    (s.hw.strict = true ∧ (one mx {}).hw.strict = false ∧ isSeq s.hw.cur = false ∧ isSeq nb = true) ∧
    ((0x020 ≤ 0x022 ∧ 0x022 < 0x023) ∧ (s.hw.st.bank.writeLoop 0x022 0).loopFault = none ∧
      ∀ n ∈ [0x020, 0x02A], (s.hw.st.bank.writeLoop n 4).loopFault = none) ∧ v.hw.st.mode = .supervisor := by
  unfold mayName; decide +kernel

theorem wit_WritesLand :
    let q := fun (a : PendAct) => ({ part := 0, wall := false, due := 0, seq := 0, act := a } : Pend)
    (q (.x mx true 31 1)).act = .x mx true 31 1 ∧ (q (.flags mx 1)).act = .flags mx 1 ∧ Memory.wf [] = true ∧
    (q (.store 448 0 0 [1])).act = .store 448 0 0 [1] ∧ (q (.vstRead vn 0 1 832 0 1024 1024)).act = .vstRead vn 0 1 832 0 1024 1024 ∧
    (q (.atomic 448 0 0 8 .add 1 0 none)).act = .atomic 448 0 0 8 .add 1 0 none ∧
    (q (.atomic 448 0 0 8 .add 1 0 (some (mx, false, 5)))).act = .atomic 448 0 0 8 .add 1 0 (some (mx, false, 5)) ∧
    (q (.v vn 1 1 1 none)).act = .v vn 1 1 1 none ∧ (q (.k vn 1 1)).act = .k vn 1 1 ∧ (q (.b vn 1 1 1)).act = .b vn 1 1 1 ∧
    (q (.swset 448 0 16 5)).act = .swset 448 0 16 5 := by
  decide +kernel

/-- A result that diverged from its lining lands in a strand alone, and in one with a mate in its bundle. -/
theorem wit_WritesLand_lining :
    let q := fun (mates : List (Nat × W64)) => ({ part := 0, wall := false, due := 0, seq := 0, act := .lining vn 8 5 mates } : Pend)
    let h : Hw := { strands := [(vn, { status := .running }), (vn + 1, { status := .running })] }
    let mates : List (Nat × W64) := [(vn, 8), (vn + 1, 16)]
    ((q []).act = .lining vn 8 5 [] ∧ (h.strand vn).mode = .kernel) ∧
    ((q mates).act = .lining vn 8 5 mates ∧ mates ≠ [] ∧ (mates.map (·.1)).Nodup ∧ vn ∈ mates.map (·.1)) ∧
    (vn + 1, 16) ∈ mates ∧ vn + 1 ≠ vn ∧ (h.strand (vn + 1)).status = .running ∧ (h.strand (vn + 1)).mode = .kernel := by decide +kernel

theorem wit_TimedWriteLanding :
    let q := fun (a : PendAct) => ({ part := 7, wall := true, due := 0, seq := 0, act := a } : Pend)
    let due := fun (h : Hw) => h.pend.filter fun q => q.act.rank.isSome && h.isDue 7 q
    let write := q (.x mx false 5 1)
    let h : Hw := { pend := [write] }
    let swap := q (.atomic 448 5 0 8 .add 1 0 (some (mx, false, 5)))
    7 < 8 ∧ due h = [write] ∧ write.act.rank = some 8 ∧ (State.land { mem := [], hw := {} } write).hw.pend = [] ∧
    due { pend := [swap] } = [swap] ∧ 5 < 6 ∧ due {} = [] := by decide +kernel

/-- Three writes that are due, in the order in which they land: a store of one cluster, and two of one register. -/
theorem wit_TimedWriteLanding_several :
    let q := fun (n : Nat) (a : PendAct) => ({ part := 7, wall := true, due := 0, seq := n, act := a } : Pend)
    let h : Hw := { pend := [q 1 (.x mx false 5 1), q 2 (.x mx false 5 2), q 3 (.store 448 0 0 [1])] }
    let l := [q 3 (.store 448 0 0 [1]), q 1 (.x mx false 5 1), q 2 (.x mx false 5 2)]
    (h.pend.filter fun q => q.act.rank.isSome && h.isDue 7 q).Perm l ∧ l.Pairwise landsBefore ∧ (∀ q ∈ l, plain q.act = true) ∧ 2 ≤ l.length := by
  intro q h l
  refine ⟨by decide +kernel, ?_, by decide +kernel, by decide⟩
  refine .cons ?_ (.cons ?_ (.cons ?_ .nil))
  · intro y hy
    simp only [List.mem_cons, List.not_mem_nil, or_false] at hy
    rcases hy with rfl | rfl
    · exact ⟨2, 8, rfl, rfl, by decide, by decide, .inl (by decide)⟩
    · exact ⟨2, 8, rfl, rfl, by decide, by decide, .inl (by decide)⟩
  · intro y hy
    obtain rfl := List.mem_singleton.1 hy
    exact ⟨8, 8, rfl, rfl, by decide, by decide, .inr ⟨rfl, by decide⟩⟩
  · intro y hy; cases hy

/-- An access of strand 0 of a core to 8 bytes of the HBM of slot 4, due now, and the state in which only it is in flight. -/
def inAir (f : Untimed → Untimed) : Untimed :=
  f { id := 7, strand := mx, sup := false, tok := 1, op := .load 5 8 true, pieces := [(.mem (some 4) (hbmKey 4 0xFFF8), 8)], due := 0 }
def airborne (f : Untimed → Untimed) : State := one mx {} { dies with untimed := [inAir f] }
/-- What the end of such an access asks of the state. -/
def mayEnd (f : Untimed → Untimed) : Bool :=
  let s := airborne f
  let u := inAir f
  Memory.wf s.mem && (s.hw.untimed.find? (·.id == u.id) == some u) && s.hw.canComplete u &&
    (piecesFail s.hw (s.hw.partOf (slotOf u.strand)) (slotOf u.strand) u.pieces).isNone && !badPieces s.hw u.pieces && u.code.isNone

theorem wit_WaitsAndUntimedAccessesEnd :
    let w := fun (w : Wait) (f : Strand → Strand) => (one vn (f { wait := w })).hw
    let m := 2 ^ 1024 - 2
    (((w (.token 3) id).strand vn).wait = .token 3 ∧ (((w (.token 3) id).strand vn).token false 3).pend = 0 ∧
      (((w (.token 3) id).strand vn).token false 3).err = false ∧ (((w (.token 3) id).strand vn).token false 3).fence = false) ∧
    (((w (.token 3) fun _ => { tokens { pend := 1 } with wait := .token 3 }).strand vn).token false 3).pend ≠ 0 ∧
    (((w (.sync 0x1FFFF0 0) id).strand vn).wait = .sync 0x1FFFF0 0 ∧ (genAt [] (coreOf vn) 0x1FFFF0 - 0).toNat < 2 ^ 31 ∧
      ¬ (genAt [] (coreOf vn) 0x1FFFF0 - 1).toNat < 2 ^ 31 ∧ (w (.sync 0x1FFFF0 0) id).pkg.bad = [] ∧ (w (.sync 0x1FFFF0 0) id).pkg.poison = []) ∧
    (let waits := w .drain fun st => { st with unaccepted := 1 }
     ((w .drain id).strand vn).wait = .drain ∧ (w .drain id).drained vn = true ∧ ((w .drain id).strand vn).owed = none ∧
      ((waits.strand vn).stub = false ∧ waits.drained vn = false ∧ waits.settled vn = false)) ∧
    (((w (.ftime 0) id).strand vn).wait = .ftime 0 ∧ (0 : W64).toNat ≤ (w (.ftime 0) id).ftime.toNat ∧ (w (.ftime 1) id).ftime.toNat < (1 : W64).toNat) ∧
    (((w (.wtick 0) id).strand vn).wait = .wtick 0 ∧ (0 : W64).toNat ≤ (w (.wtick 0) id).wtick ∧ (w (.wtick 1) id).wtick < (1 : W64).toNat) ∧
    (((w (.space 0 0xFFFF) id).strand vn).wait = .space 0 0xFFFF ∧ 0 < (w (.space 0 0xFFFF) id).room vn 0xFFFF) ∧
    ({ (w (.space 0 0xFFFF) id) with cores := [(832, { aq := List.replicate 8 { id := 0, strand := vn, issued := 0, op := .mtile 0 1 true } })] } : Hw).room vn 0xFFFF = 0 ∧
    -- the passes of an access: a store, a load, an atomic, and the second pass of the two latter, with one element left
    Config.slotType 4 ≠ .fb ∧ 8 ≤ 64 ∧
    (mayEnd (fun u => { u with op := .store (List.replicate 8 1) }) = true ∧ (List.replicate 8 (1 : Byte)).length = 8) ∧
    ((airborne id).hw.pkg.bad = [] ∧ (airborne id).hw.pkg.single = [] ∧ (airborne id).hw.pkg.poison = []) ∧
    (mayEnd id = true ∧ (inAir id).begun = false ∧ (inAir id).left = none) ∧
    mayEnd (fun u => { u with op := .atomic 5 8 .add 1 0 }) = true ∧
    mayEnd (fun u => { u with begun := true, left := some m, data := List.replicate 8 255 }) = true ∧
    mayEnd (fun u => { u with op := .atomic 5 8 .add 1 0, begun := true, left := some m, data := List.replicate 8 255 }) = true := by
  decide +kernel

/-- A partition with group 9, whose target is 2, n of whose teams have arrived. -/
def grouped9 (n : Nat) : Part := { groups := [{ num := 9, tmap := [0, 1], target := 2, count := n, phase := 3, waiting := List.range n }] }
def ent9 (n : Nat) : GroupEntry := { num := 9, tmap := [0, 1], target := 2, count := n, phase := 3, waiting := List.range n }
/-- Two members of a core whose code has a word with the S bit at 0, one of them in a rendezvous. -/
def meeting (w : Wait) : Hw :=
  { strands := [(mx, { status := .running, wait := .rendezvous, codeLen := 4 }), (mx + 1, { status := .running, wait := w, codeLen := 4 })]
    cores := [(448, { team := some (0, 0), syncmask := 3 })] }

theorem wit_BarrierMaster :
    let h := fun (n : Nat) => hwPart (grouped9 n)
    (0 < 8 ∧ 383 < 384 ∧ ((h 1).part 0).group? 9 = some (ent9 1) ∧ (ent9 1).fabric = false) ∧ (2 : BitVec 16) ≠ (ent9 1).phase ∧
    ((3 : BitVec 16) = (ent9 0).phase ∧ (ent9 0).count + 1 ≠ (ent9 0).target) ∧ ((ent9 1).count + 1 = (ent9 1).target) ∧
    ((grouped { num := 9, pending := true }).teamCore 0 0 = some 448 ∧
      ∀ i, i < 4 → ((grouped { num := 9 }).strand (448 * 4 + i)).wait = .none) ∧
    (meeting .rendezvous).rendezvousMet [(codeKey 0 0, 4)] 448 = true ∧ (meeting (.token 0)).rendezvousMet [(codeKey 0 0, 4)] 448 = false ∧ 47 < 48 := by decide +kernel

/-- The host's memory with a packet at 0x1000 and an image at 0x2000 of a queued kernel that places nothing. -/
def launchMem : List Host.Cell :=
  let put := fun (a : Nat) (b : Byte) (m : List Host.Cell) => Memory.write m (hostKey a) b
  put 0x1019 0x20 (put 0x101F 0x80 (put 0x2000 1 (put 0x2004 1 (put 0x2010 1 (put 0x2019 1 [])))))
def packetAt : W64 := 0x8000000000001000
/-- A partition whose queue 0 holds n packets. -/
def queued (n : Nat) (sup : Bool) : Hw :=
  diesPart { queues := (Vector.replicate 4 []).set 0 (List.replicate n { packet := packetAt }), supervisor := sup }
def planFits (x : Except Nat Plan) : Bool := match x with | .ok pl => pl.brim.isNone | .error _ => false
def planFails (x : Except Nat Plan) (c : Nat) : Bool := match x with | .ok _ => false | .error d => d == c
theorem of_planFits (x : Except Nat Plan) (h : planFits x = true) : ∃ pl, x = .ok pl ∧ pl.brim = none := by
  cases x with
  | error c => simp [planFits] at h
  | ok pl => exact ⟨pl, rfl, by simpa [planFits] using h⟩
theorem of_planFails (x : Except Nat Plan) (c : Nat) (h : planFails x c = true) : x = .error c := by
  cases x with
  | error d => simpa [planFails] using h
  | ok pl => simp [planFails] at h

theorem wit_LaunchQueues :
    let s := fun n sup => ({ mem := launchMem, hw := queued n sup } : State)
    (∃ pk, (s 63 true).packet? 0 packetAt.toNat = some pk ∧ (((s 63 true).hw.part 0).queues.get (Fin.ofNat 4 pk.prio)).length < 64) ∧
    (∃ pk, (s 64 true).packet? 0 packetAt.toNat = some pk ∧ 64 ≤ (((s 64 true).hw.part 0).queues.get (Fin.ofNat 4 pk.prio)).length) ∧
    (s 0 true).packet? 0 (packetAt.toNat + 4) = none ∧
    (((s 1 true).hw.part 0).kernel = none ∧ ((s 1 true).hw.part 0).pick = some 0 ∧ ((s 1 true).hw.part 0).ending = none ∧
      (((s 1 true).hw.part 0).queues.get (Fin.ofNat 4 0)).head? = some { packet := packetAt }) ∧
    (s 1 false).plan 0 packetAt.toNat = .error 0x0601 ∧ ∃ pl, (s 1 true).plan 0 packetAt.toNat = .ok pl ∧ pl.brim = none := by
  refine ⟨⟨_, rfl, ?_⟩, ⟨_, rfl, ?_⟩, ?_, ?_, of_planFails _ _ ?_, of_planFits _ ?_⟩ <;> decide +kernel

/-- The same packet with a brim image at 0x3000, whose tables define no region. -/
def rewriteMem : List Host.Cell :=
  let put := fun (a : Nat) (b : Byte) (m : List Host.Cell) => Memory.write m (hostKey a) b
  put 0x1031 0x30 (put 0x1037 0x80 (put 0x3000 1 (put 0x3010 1 (put 0x3018 4 launchMem))))
def planRewrites (h : Hw) (x : Except Nat Plan) : Bool :=
  match x with
  | .ok pl => (match pl.brim with | some b => h.rewrites 0 b.1 | none => false)
  | .error _ => false
theorem of_planRewrites (h : Hw) (x : Except Nat Plan) (e : planRewrites h x = true) :
    ∃ pl b, x = .ok pl ∧ pl.brim = some b ∧ h.rewrites 0 b.1 = true := by
  cases x with
  | error c => simp [planRewrites] at e
  | ok pl =>
    cases hb : pl.brim with
    | none => simp [planRewrites, hb] at e
    | some b => exact ⟨pl, b, rfl, hb, by simpa [planRewrites, hb] using e⟩

/-- A launch that rewrites the tables while a request that the old ones placed is outstanding; and a mode switch asked for. -/
theorem wit_LaunchQueues_waits :
    let h := queued 1 true
    let s : State := { mem := rewriteMem, hw := h.updPart 0 fun q => { q with admitted := [(9, .lineRequest 0 0x40 .read [] 64 7, 0)] } }
    ((s.hw.part 0).kernel = none ∧ s.hw.pkg.modeAsked = none ∧ s.hw.pkg.modeSwitch = none ∧ (s.hw.part 0).rewriteSince = none ∧
      (s.hw.part 0).pick = some 0 ∧ ((s.hw.part 0).queues.get (Fin.ofNat 4 0)).head? = some { packet := packetAt } ∧
      s.hw.tablesDrained 0 = false) ∧
    (∃ pl b, s.plan 0 packetAt.toNat = .ok pl ∧ pl.brim = some b ∧ s.hw.rewrites 0 b.1 = true) ∧
    (({ h with pkg := { modeAsked := some .guarded } } : Hw).pkg.modeAsked ≠ none ∧ (h.part 0).restarting = false) ∧
    (∀ w, (({ rewriteSince := some 5 } : Part).rewriteSince = some w → 0x100004 < w + 2 ^ 20)) := by
  refine ⟨by decide +kernel, of_planRewrites _ _ (by decide +kernel), by decide +kernel, ?_⟩
  rintro w h; cases h; decide

/-- A partition whose kernel is in a phase. -/
def phased (strict : Bool) (ph : KPhase) (n : Nat := 1) : Part := { kernel := some { strict := strict, phase := ph }, crown := n, live := false }

theorem wit_KernelStartAndHolds :
    let h := fun q => diesPart q
    (((h (phased true .loading)).part 0).kernel = some { strict := true, phase := .loading } ∧ ((h (phased true .loading)).part 0).crown ≠ 0) ∧
    ((h (phased false .loading)).part 0).kernel = some { phase := .loading } ∧
    ((h { anchors := [{ at_ := 5, wall := 0, seg := 0, reports := [14] }] }).part 0).anchors.find? (fun a => !a.reports.contains 34) =
      some { at_ := 5, wall := 0, seg := 0, reports := [14] } ∧
    ((h (phased true .running)).part 0).live = false ∧ (h { phased true .running with frozen := true }).heldAt 0 0 = true ∧
    (h (phased true .running)).heldAt 0 0 = false := by decide +kernel

theorem wit_KernelCompletion :
    let h := fun (n : Nat) (a : W64) => diesPart { phased true .running n with kernel := some { strict := true, devaddr := a } }
    let ends := fun (q : Part) => diesPart { q with ending := some 1 }
    (47 < 48 ∧ (dies.part 7).kernel = none ∧ (dies.part 7).ending = none) ∧
    (((h 2 8).part ((h 2 8).partOf 14)).kernel = some { strict := true, devaddr := 8 } ∧ ((h 2 8).die 14).ctrAddr = 0 ∧
      2 ≤ ((h 2 8).part ((h 2 8).partOf 14)).crown ∧ ((h 1 8).part ((h 1 8).partOf 14)).crown ≤ 1) ∧
    (((h 2 0).part 0).kernel = some { strict := true } ∧ (h 2 0).partOf 14 < 8) ∧
    (((ends { phased true .running with frozen := true }).part 0).kernel.isSome = true ∧ ((ends { phased true .running with frozen := true }).part 0).frozen = true) ∧
    (((ends (phased true .running)).part 0).ending = some 1 ∧ ((ends (phased true .running)).part 0).frozen = false ∧
      ∀ d ∈ (ends (phased true .running)).diesOf 0, ((ends (phased true .running)).die d).ctrAddr = 0) ∧
    ((phased true .ending).kernel = some { strict := true, phase := .ending } ∧ (phased true .running).context = none ∧ (phased true .running).ending = none) := by
  decide +kernel

/-- The context of a stopped kernel. -/
def stopped0 (k : Kernel) : StopCtx :=
  { kernel := k, stick := 0, holds := 0, crown := 1, strands := [], cores := [], dies := [], spad := [], groups := [] }

/-- The context of a restart: the kernel that it puts back is not yet ending. -/
theorem wit_KernelCompletion_restart :
    let q : Part := { phased true .running with context := some (stopped0 {}) }
    q.kernel = some { strict := true } ∧ q.context = some (stopped0 {}) ∧ ({ strict := true } : Kernel).phase ≠ .ending := by decide

theorem wit_PreemptionAndFreeze :
    let park : Hw := { dies with parts := (diesPart (phased true .running)).parts, strands := [(mx, { status := .running, wait := .park })] }
    let trap : HeldTrap := { cause := 0x39, info := 7 }
    let parked := fun (k : Kernel) (c : Option StopCtx) (fr : Bool) =>
      ({ diesPart { kernel := some k, context := c, frozen := fr } with strands := [(mx, { status := .parked, held := some trap })] } : Hw)
    ((((diesPart { phased true .running with preemptAsked := true }).part 0).kernel = some { strict := true } ∧
      ((diesPart { phased true .running with preemptAsked := true }).part 0).preemptAsked = true) ∧ (dies.part 7).preemptAsked = false) ∧
    (dies.canPark mx = false ∧ park.canPark mx = true ∧ (park.part (park.partOf (slotOf mx))).kernel = some { strict := true }) ∧
    (((parked {} none false).part 0).kernel = some {} ∧ ({} : Kernel).restoring = false ∧ (parked {} none false).allParked 0 = true) ∧
    (((parked { restoring := true, phase := .stopping } (some (stopped0 {})) false).part 0).context = some (stopped0 {}) ∧
      (parked { restoring := true, phase := .stopping } (some (stopped0 {})) false).allParked 0 = true) ∧
    (dies.part 7).frozen = false ∧
    (((parked {} none true).part 0).frozen = true ∧ (parked {} none true).strandsOf 0 = [mx] ∧
      ((parked {} none true).strand mx).held = some trap) := by decide +kernel

/-- A command in a queue of a die. -/
def cmd0 (op : XOp) (started : Bool) : XCmd := { id := 0, strand := nb, core := 152, op := op, d := 0, a := 0, b := 0, started := started }
def withQueue (slot q : Nat) (cs : List XCmd) (w : Nat := 1) : Hw := { dies.updQueue slot q fun _ => { cmds := cs } with wtick := w }

theorem wit_SyncWordsAndEngines :
    let emb : EmbCmd := { id := 0, strand := gs, issued := 0, table := { nr := 1, fmt := tF32, rb := 64, base := 0 }, idx := 0, out := 0, sync := 0, pool := 0, z := 1, n := 1 }
    let g : Gemv := { id := 0, strand := mx, core := 448, b := 0, x := 0, y := 0, sync := 0, fmt := tF32, k := 256, m := 1, sat := false }
    let first := fun (slot q : Nat) (c : XCmd) =>
      decide (((withQueue slot q [c]).die slot).queue q = { cmds := [c] }) && (withQueue slot q [c]).engineReady slot q
    let h3 : Hw := { dies with wtick := 1, cores := [(34 * 32, { eq := [emb] })] }
    let h4 : Hw := { dies.updDie 4 fun d => { d with gemv := [g] } with wtick := 1 }
    let coll := cmd0 .cag false
    Memory.wf [] = true ∧ ({} : Hw).badAt (spadKey 448 0x1FFFF0) 16 = false ∧ Config.slotType 4 = .nb ∧
    -- commands that start: one that moves data, one that has none to move, others, and a collective
    (first 4 7 (cmd0 .csum false) = true ∧ first 4 7 { cmd0 .copy false with b := 64 } = true ∧ (tcwOf .copy 64).len ≠ 0) ∧
    (first 4 7 (cmd0 .copy false) = true ∧ (tcwOf .copy 0).len = 0) ∧ first 4 7 (cmd0 .prefetch false) = true ∧ first 4 7 (cmd0 .migr false) = true ∧
    (first 0 0 coll = true ∧ xIsColl .cag = true ∧ (collDesc coll.desc).tstart ≤ (withQueue 0 0 [coll]).ftime) ∧
    dies.engineReady 4 7 = false ∧ (h3.engineReady 34 0 = true ∧ h3.embHead 34 0 = some (34 * 32, emb) ∧ Config.slotType 34 = .gs) ∧
    ((h4.die 4).gemv = [g] ∧ h4.engineReady 4 15 = true) ∧
    -- and commands that end
    (xIsColl .copy = false ∧ (({ mem := [], hw := withQueue 4 7 [cmd0 .copy true] } : State).xEffect 4 7 (cmd0 .copy true)).isSome = true) ∧
    ({ dies with cores := [(34 * 32, { eq := [{ emb with started := true }] })] } : Hw).embRunning 34 0 = some (34 * 32, { emb with started := true }) := by
  decide +kernel

/-- A fabric group of two ranks in this package. -/
def fab2 (f : FabGroup → FabGroup := id) : FabGroup := f { num := 9, self := 0, nrank := 2, ranks := [(0, 0), (1, 0)], members := [0, 1], block := 64 }
def withFab (f : FabGroup) : Hw := diesPart { fabs := [f], groups := [{ num := 9, fabric := true }] }

theorem wit_EngineCommandsAndCollectives :
    let s := one nb {} dies
    let full := one nb {} (withQueue 4 0 (List.replicate 32 (cmd0 .xstat false)))
    (mayEnqueue s.hw 4 0 .xstat 0x0204000000000000 0 0 ∧ s.hw.queueIsFull 4 0 = false) ∧ (full.hw.queueIsFull 4 0 = true ∧ full.hw.strict = false) ∧
    (s.hw.xTarget s.hw.enqueuer 63 15 .copy = false ∧ s.hw.st.mode = .kernel) ∧ (isSeq sw = true ∧ (one sw {} dies).hw.st.mode = .kernel) := by
  unfold mayEnqueue; decide +kernel

/-- The state in which a collective at the head of queue 0 of die 0 has started, for group 9. -/
def begun (c : XCmd → XCmd) (k : Coll → Coll) (f : FabGroup → FabGroup) : State :=
  let d := BitVec.ofNat 256 (2 ^ 64 + 9 * 2 ^ 148)
  let cmd : XCmd := c { cmd0 .cag true with desc := d, seq := 5, a := 0x0204000000000000 }
  let coll : Coll := k { seq := 5, slot := 0, queue := 0, cmd := 0, op := cmd.op, desc := d, out := 0, inp := cmd.a }
  let h := withFab (f (fab2 fun g => { g with members := [0], colls := [coll] }))
  { mem := [], hw := h.updQueue 0 0 fun _ => { cmds := [cmd] } }
/-- Whether such a collective is quiet, is idle, reads its input, does so now, and is about to, nothing having written the input. -/
def begins (s : State) : List Bool :=
  match ((s.hw.die 0).queue 0).cmds with
  | c :: rest =>
    match s.hw.fab? c.part (collDesc c.desc).grp with
    | some f =>
      match f.colls.find? (·.seq == c.seq) with
      | some k =>
        [xIsColl c.op && c.started, k.err != 0 || f.taken c.seq || f.agent == .lost, f.holds c.seq || k.sent, k.op != .cbc || f.self == k.d.root,
          k.timed && decide (s.hw.ftime.toNat < (collDesc c.desc).tstart.toNat + 512), c.move.isNone && rest.all (fun y => y.id != c.id) && !k.dirty]
      | none => []
    | none => []
  | [] => []

theorem wit_CollectiveStarts :
    begins (begun id (fun k => { k with err := 0x0501 }) id) = [true, true, false, true, false, true] ∧
    begins (begun id (fun k => { k with sent := true }) id) = [true, false, true, true, false, true] ∧
    begins (begun (fun c => { c with op := .cbc }) id fun f => { f with self := 1, members := [1] }) = [true, false, false, false, false, true] ∧
    begins (begun id (fun k => { k with timed := true }) id) = [true, false, false, true, true, true] ∧
    begins (begun id id id) = [true, false, false, true, false, true] := by decide +kernel

/-- A strand of a core in fabric group 9, with a descriptor of one element for that group at its scratchpad's address 0. -/
theorem wit_EngineCommands_collective :
    let h : Hw := { withFab (fab2 id) with cur := mx, strands := [(mx, {})], cores := [(448, { team := some (0, 0), grps := [{ num := 9 }] })] }
    let s : State := { mem := Memory.writeBytes [] (spadKey 448 0) (leBytes 32 (2 ^ 64 + 9 * 2 ^ 148)), hw := h }
    mayCollect s 0 0 .cag 0x0204000000000000 0x0204000000000000 0 (BitVec.ofNat 256 (2 ^ 64 + 9 * 2 ^ 148)) := by
  unfold mayCollect; unfold spadNat; decide +kernel

/-- A strand whose register v1 has a tag, and v2, v3 another. -/
def vecs (a b : Tag) (d1 d2 : BitVec 32768) (f : Strand → Strand := id) : State :=
  one vn (f { kb := bk [(4, 0x1FF000), (5, 0x1FFF80), (6, 0x1FFC00), (7, 0xF000), (8, 0x1FF001)]
              v := (((Vector.replicate 16 ({} : VecReg)).set 1 { tag := a, data := d1 }).set 2 { tag := b, data := d2 }).set 3 { tag := a } }) dies

theorem wit_VectorTransfers :
    let s := vecs 0 0 0 0
    (mayTransfer s.hw (vecAddr s.hw 4 0) (256 * 16) ∧ mayTransfer s.hw (vecAddr s.hw 5 0) 128 ∧ mayTransfer s.hw (vecAddr s.hw 6 0) 1024 ∧
      ∀ o n, clean s.hw o n) ∧
    (∃ ps, (s.hw.die (slotOf s.hw.cur)).pieces 0xF000 4096 .both false = .ok ps) ∧ (s.hw.rx 7).toNat % 64 = 0 ∧ s.hw.gpathBusy = false ∧
    (s.hw.st.token s.hw.st.sup 7).pend < 63 := by
  refine ⟨⟨?_, ?_, ?_, fun o n => clean_of_none _ rfl rfl rfl o n⟩, ⟨_, rfl⟩, ?_⟩
  · unfold mayTransfer vecAddr; decide +kernel
  · unfold mayTransfer vecAddr; decide +kernel
  · unfold mayTransfer vecAddr; decide +kernel
  · decide +kernel

theorem wit_VectorMovesAndShape :
    let s := vecs tI16 tI16 0 0
    (s.hw.vecBusy = false ∧ s.hw.maskBusy = false ∧ (s.hw.vreg 1).tag = (s.hw.vreg 2).tag ∧ isIntTag (s.hw.vreg 1).tag = true) ∧
    ((s.hw.vreg 2).tag = tI16 ∧ ({} : VecReg).tag = tNONE) ∧ (1 : BitVec 1024).getLsbD 0 = true ∧ (1 : BitVec 1024).getLsbD 1023 = false := by
  decide +kernel

theorem wit_VectorArithmeticAndFaults :
    let s := fun a b => vecs a b 0 0
    ((s tF64 tF64).hw.vecBusy = false ∧ (s tF64 tF64).hw.st.upset = none ∧ isFpTag tF64 = true ∧ isIntTag tI8 = true ∧
      ((s tF32 tF32).hw.vreg 1).tag = ((s tF32 tF32).hw.vreg 2).tag ∧ ((s tF32 tF32).hw.vreg 1).tag = ((s tF32 tF32).hw.vreg 3).tag) ∧
    ((s tF32 tF64).hw.st.mode = .kernel ∧ isFpTag ((s tI32 tF64).hw.vreg 1).tag = false ∧ ((s tF32 tF64).hw.vreg 2).tag ≠ ((s tF32 tF64).hw.vreg 1).tag ∧
      isIntTag ((s tF32 tF64).hw.vreg 1).tag = false ∧ ((s tI32 tF64).hw.vreg 2).tag ≠ ((s tI32 tF64).hw.vreg 1).tag ∧
      isCmpTag ((s tB16 tF64).hw.vreg 1).tag = false ∧ ((s tF32 tF64).hw.vreg 2).tag ≠ tI16 ∧ ((s tF32 tF64).hw.vreg 1).tag ≠ tL32) := by
  decide +kernel

/-- 1 + 1 in binary32 with an upset of slot 0, flipping an exponent bit of the sum, and flipping none: the shadow is 2. -/
theorem wit_VectorArithmetic_lining :
    let s := fun (bits : BitVec 32) => vecs tF32 tF32 (packReg 32 [0x3F800000]) (packReg 32 [0x3F800000]) fun st => { st with upset := some (0, bits) }
    let x := b32.unpack (((s 0).hw.vreg 1).elem 0)
    let m := (s 0).hw.mods none
    let sum := (b32.finish false m (drawOf (s 0).hw m 1024 0) (exAdd m.mode x x)).1 % 2 ^ 32
    let shadow := shadowOf m (opAdd.coarse x.coarse x.coarse x.coarse) (opAdd.terms x.coarse x.coarse x.coarse)
    (∀ bits, (s bits).hw.vecBusy = false ∧ (s bits).hw.st.upset = some (0, bits)) ∧ (Claims.maskOf (s 0).hw none).getLsbD 0 = true ∧
    diverged b32 (sum ^^^ 0x02000000) shadow.1 shadow.2 ∧ ¬ diverged b32 (sum ^^^ 0) shadow.1 shadow.2 := by
  intro s x m sum shadow
  have hs : shadow.1.parts = some (false, 1, 0) := by decide +kernel
  have hm : (b32.unpack (sum ^^^ 0)).parts = some (false, 1, 0) := by decide +kernel
  refine ⟨fun bits => ⟨rfl, rfl⟩, by decide +kernel, ⟨false, 5, 0, by decide +kernel, by decide, by decide +kernel, ?_⟩, ?_⟩
  · rintro ⟨s', e', fr', h, -, he, -⟩
    rw [hs] at h; cases h
    revert he; decide
  · rintro ⟨s', e', fr', h, -, -, hn⟩
    rw [hm] at h; cases h
    exact hn ⟨false, 1, 0, hs, rfl, by decide, fun _ => by decide⟩

/-- A tag for each check: of every set of accepted tags one that it does not hold, and, of two or three operands, the one that fails. -/
theorem wit_VectorFormatFaults_tags :
    let s := fun (a b c : Tag) => (vecs a b 0 0 fun st => { st with v := st.v.set 3 { tag := c } }).hw
    let t := fun (h : Hw) (r : VRegNo) => (h.vreg r).tag
    isFpTag tNONE = false ∧ isIntTag tNONE = false ∧ isCmpTag tNONE = false ∧ (isIntTag tF32 || decide (tF32 = tNONE)) = false ∧
    (isFpTag tE4 || isIntTag tE4) = false ∧ tE4 ≠ tF32 ∧ tE4 ≠ tB16 ∧ tE4 ≠ tH16 ∧ tE4 ≠ tL32 ∧ tE4 ≠ tI16 ∧ tE4 ≠ tF4 ∧ tE4 ≠ tI32 ∧ tE4 ≠ tNONE ∧
    -- of three operands: the second, the third, and two that differ from the first
    (isFpTag (t (s tF32 tI32 tF32) 1) = true ∧ isFpTag (t (s tF32 tI32 tF32) 2) = false) ∧
    (isFpTag (t (s tF32 tF32 tI32) 2) = true ∧ isFpTag (t (s tF32 tF32 tI32) 3) = false) ∧
    (isFpTag (t (s tF32 tF64 tF32) 2) = true ∧ isFpTag (t (s tF32 tF64 tF32) 3) = true ∧ t (s tF32 tF64 tF32) 2 ≠ t (s tF32 tF64 tF32) 1) ∧
    (isFpTag (t (s tF32 tF32 tF64) 3) = true ∧ t (s tF32 tF32 tF64) 2 = t (s tF32 tF32 tF64) 1 ∧ t (s tF32 tF32 tF64) 3 ≠ t (s tF32 tF32 tF64) 1) ∧
    (isIntTag (t (s tI16 tI8 tI8) 1) = true ∧ t (s tI16 tI8 tI8) 2 ≠ t (s tI16 tI8 tI8) 1) ∧
    (t (s tL32 tF32 0) 1 = tL32 ∧ t (s tL32 tF32 0) 2 ≠ tL32) ∧ (t (s tF4 tF32 0) 1 = tF4 ∧ t (s tF4 tF32 0) 2 ≠ tI32 ∧ t (s tF4 tF32 0) 2 ≠ tNONE) ∧
    (s tF32 tF32 tF32).st.mode = .kernel := by decide +kernel

theorem wit_VectorReductionsAndConversions :
    let s := fun a b => vecs a b 0 0
    ((s tI64 tI64).hw.vecBusy = false ∧ (s tI64 tI64).hw.st.upset = none ∧ isIntTag tI64 = true ∧ isFpTag tH16 = true) ∧
    (isCvtTag tE4 = true ∧ isCvtTag tF64 = true ∧ (7 : BitVec 4).toNat < max (2048 / elemWidth tE4) (2048 / elemWidth tF64) /
      min (2048 / elemWidth tE4) (2048 / elemWidth tF64)) ∧
    (((s tF32 tL32).hw.vreg 1).tag = tF32 ∧ ((s tL32 tL32).hw.vreg 1).tag = tL32 ∧ ((s tL32 tL32).hw.vreg 2).tag = tL32 ∧
      ((s tL32 tF32).hw.vreg 2).tag = tF32) := by decide +kernel

/-- A parameter row for a tile at scratchpad address 0x1000, and its header. -/
def quantMem : List Host.Cell := Memory.writeBytes [] (spadKey 832 0x1000) [7, 1]

theorem wit_Quantisation :
    let s := fun (t : Tag) => ({ vecs t tI32 0 (packReg 32 [0, 0x1000, 0, 0]) with mem := quantMem } : State)
    let q := qparams ((s tF32).hw.vreg 2) true
    let q4 := qparams ((s tF4).hw.vreg 2) false
    let hd := tileHead (Memory.readNat quantMem (spadKey 832 0x1000) 64)
    (isParamTag ((s tF32).hw.vreg 2).tag = true ∧ q.bad 8 = false ∧ (s tF32).hw.vecBusy = false ∧ (s tF32).hw.portBusy = false ∧ hd.ok = true ∧
      q.addr = 0x1000 ∧ q.addr + 10304 + 4 * hd.cap ≤ 0x200000 ∧ ∀ o n, clean (s tF32).hw o n) ∧
    (isQuantTag tF32 = true ∧ hd.count = 0 ∧ q.ovp = false) ∧
    (((s tF4).hw.vreg 1).tag = tF4 ∧ q4.bad 8 = false ∧ (thimblesAt quantMem (spadKey 832 (q4.addr + 10304)) hd.count).all Thimble.ok = true ∧
      (dequant ((s tF4).hw.vreg 1) 0 (bf16.unpack hd.band) [] q4.row0 (8 * q4.part) 1023).isSome = true) := by
  refine ⟨⟨?_, ?_, ?_, ?_, ?_, ?_, ?_, fun o n => clean_of_none _ rfl rfl rfl o n⟩, ?_, ?_⟩ <;> decide +kernel

/-- A die with an operator of this core at node 5, routed from the strand and to it. -/
def streamDie : Die :=
  { bound with
    ops := [(5, { kind := 1, owner := some 832, throttle := 64, insts := [{ out := [(0, { tag := 0, data := 0 })] }] })]
    routes := [{ src := 0x80, dst := 5, port := 0 }, { src := 5, dst := 0x80, port := 0 }] }
def streams (d : Die) (n : Nat) : State :=
  one vn { kb := bk [(4, 16), (5, 6 + 256), (6, 5), (7, 64), (8, 0x106), (9, 0x8005)], recvq := List.replicate n { tag := 0, data := 0 } }
    { dies := [(26, d)] }

theorem wit_StreamInstructions :
    let s := streams streamDie 17
    let v := s.hw.soView 26
    s.hw.streamBusy = false ∧
    ((s.hw.rx 5).toNat % 64 ≤ 47 ∧ (s.hw.rx 5).toNat / 256 % 16 ≤ 12 ∧ (v.op 6).owner = none ∧ (∀ r ∈ v.routes, r.src ≠ 6 ∧ r.dst ≠ 6) ∧
      badParams 1 (s.hw.vreg 1).data = false) ∧
    rteFault ((streams { streamDie with routes := [] } 0).hw.soView 26) s.hw.cur 0x40 5 = none ∧
    ((s.hw.rx 6).toNat % 64 ≤ 47 ∧ (v.op 5).owner = some (coreOf s.hw.cur) ∧ 1 ≤ (s.hw.rx 7).toNat % 128 ∧ (s.hw.rx 7).toNat % 128 ≤ 64 ∧
      (s.hw.rx 7).toNat % 128 * opStorage (v.op 5).kind ≤ 65536) ∧
    ((s.hw.die 26).routeFrom (endpointOf s.hw.cur) = some { src := 0x80, dst := 5, port := 0 } ∧ 1 ≤ (s.hw.rx 8).toNat % 32 ∧
      (s.hw.rx 8).toNat % 32 ≤ 16 ∧ (s.hw.rx 8).toNat % 32 ≤ s.hw.credits 26 { src := 0x80, dst := 5, port := 0 }) ∧
    s.hw.st.recvq ≠ [] ∧ ((s.hw.rx 8).toNat / 256 % 2 = 1 ∧ (s.hw.rx 6).toNat / 256 % 2 = 0) := by decide +kernel

theorem wit_StreamEvents :
    let link := fun (src dst : Nat) => ((0, { src := src, dst := dst, port := 0 }, { tag := 0, data := 0 }) : Nat × Route × StreamRow)
    let find := fun (x : Nat × Route × StreamRow) (n : Nat) => [x].find? fun l => l.2.1.dst == n && l.2.1.port == 0
    let h := fun n => (streams streamDie n).hw
    (find (link 6 5) 5 = some (link 6 5) ∧ find (link 0x80 5) 5 = some (link 0x80 5) ∧ find (link 5 0x80) 0x80 = some (link 5 0x80)) ∧
    (((h 0).die 26).routeFrom 5 = some { src := 5, dst := 0x80, port := 0 } ∧ (((h 0).die 26).op 5).emitting 0 = some { tag := 0, data := 0 }) ∧
    ((h 64).credits 26 { src := 5, dst := 0x80, port := 0 } = 0 ∧ 0 < (h 63).credits 26 { src := 5, dst := 0x80, port := 0 }) ∧
    ((h 0).die 26).routeFrom 6 = none ∧ slotOf vn = 26 ∧ (nodeOf vn 5 = some 5 ∧ nodeOf vn 0x40 = some 0x80) := by decide +kernel

/-- A core of an MX die that holds the lease of its array, with a tile of 64 rows, a latent descriptor and slots as given. -/
def arrays (lat : Option (BitVec 128)) (slot : Tag × Bool × Nat) (aq : List ArrCmd := []) (d : Die := { bound with loadWindow := false }) : State :=
  one mx { kb := bk [(4, 0x1FFC00), (5, 64 * 65536), (6, 2 * 65536), (7, 0x1FFFF0), (8, 256)] }
    { cores := [(448, { lease := .held, aq := aq, grps := [{ num := 9 }] })]
      dies := [(4, bound), (14, { d with
        arrays := (Vector.replicate 3 ({} : ArrayState)).set 0
          { tileIssued := some { ar := 0, m := 64, keep := true }, rowTag := (List.range 64).map fun i => (i, tF32), latentIssued := lat, slotIssued := Vector.replicate 2 slot, holder := some 448 } })] }
def latent0 : BitVec 128 := BitVec.ofNat 128 (2 ^ 104)

theorem wit_ArrayCommands :
    let s := arrays none (tF32, false, 0)
    let l := arrays (some latent0) (tE4, true, 256)
    let f64 := arrays none (tF64, false, 0)
    let inside := fun (x : W64) (n : Nat) => x.toNat % 64 = 0 ∧ x.toNat + n ≤ 0x200000
    (mayCommand s.hw ∧ rangeOk (rows (s.hw.rx 5)).1 (rows (s.hw.rx 5)).2 True ∧ s.hw.myArr.windowBad 0 64 true = false ∧ s.hw.myArr.windowBad 0 64 false = false) ∧
    (inside (s.hw.rx 4) 1024 ∧ inside 0x1F0000 (1024 * 64)) ∧ (readPair (s.hw.myArr.tagAt 0) tF32 = true ∧ ∀ i, i < 64 → s.hw.myArr.tagAt (0 + i) = tF32) ∧
    (slotFits tF32 (s.hw.myArr.slotIssued.get 0).1 = true ∧ (s.hw.myArr.slotIssued.get 0).2.1 = false ∧ inside 0x1FF800 (mulBytes tF32 * 2) ∧
      s.hw.strict = false) ∧
    (slotFits tF64 (f64.hw.myArr.slotIssued.get 0).1 = true ∧ rangeOk 0 (2 * 2) True) ∧
    (l.hw.myArr.latentIssued.isSome = true ∧ (l.hw.myArr.slotIssued.get 0).2.1 = true ∧
      (l.hw.myArr.slotIssued.get 0).1 = (descOf (l.hw.myArr.latentIssued.getD 0)).tag) ∧
    ((s.hw.core (coreOf s.hw.cur)).grp 9).isSome = true ∧
    (inside 0x1C0000 (panelSize tF32) ∧ (256 + panelSize tF32 ≤ Config.weightSize) ∧ (s.hw.die 14).loadWindow = false ∧
      (s.hw.st.token s.hw.st.sup 7).pend < 63) ∧
    (s.hw.core 448).lease = .held ∧ (one mx {} dies).hw.strict = false ∧ ((one mx {} dies).hw.core 448).lease ≠ .held := by
  unfold mayCommand rangeOk rows; decide +kernel

theorem wit_LatentAndBaseDieProducts :
    let s : State := { arrays none (0, false, 0) with mem := Memory.writeBytes [] (spadKey 448 0x1FFFF0) (leBytes 16 (2 ^ 104)) }
    (mayCommand s.hw ∧ (s.hw.rx 7).toNat % 16 = 0 ∧ (s.hw.rx 7).toNat < 0x200000 ∧ s.hw.portBusy = false ∧
      (descOf (BitVec.ofNat 128 (spadNat s 0x1FFFF0 16))).ok = true) ∧
    (∃ ps, (s.hw.die (slotOf s.hw.cur)).pieces (s.hw.rx 8).toNat 1 .read false = .ok ps) ∧
    ((s.hw.die (slotOf s.hw.cur)).homeOf (s.hw.rx 8).toNat = some 4 ∧ (s.hw.rx 8).toNat % 256 = 0 ∧ (s.hw.rx 4).toNat + 256 * gemvBytes tF32 ≤ 0x200000 ∧
      (s.hw.rx 7).toNat % 4 = 0 ∧ (s.hw.rx 7).toNat + 4 * 4 ≤ 0x200000 ∧ (s.hw.die 4).gemv.length < 16) := by
  refine ⟨?_, ⟨_, rfl⟩, ?_⟩
  · unfold mayCommand spadNat; decide +kernel
  · decide +kernel

theorem wit_ArrayEvents :
    let q := fun (op : ArrOp) => (arrays none (0, false, 0) [{ id := 7, strand := mx, issued := 0, op := op }]).hw
    let later := fun (op : ArrOp) => { q op with parts := (Vector.replicate 8 ({} : Part)).set 0 { pclk := 1 } }
    let head := fun (op : ArrOp) (load : Bool) => ((later op).channelHead 14 0 load).bind fun x => if x.1.halted = none then some x.1.op else none
    let asked : Hw := { dies := [(14, bound)], pend := [{ part := 0, wall := false, due := 0, seq := 0, act := .leaseAsk mx 5 }] }
    let free : Hw := { cores := [(448, { lease := .pend })], dies := [(14, bound)] }
    let two : Hw := { (q (.mtile 0 1 true)) with cores := [(448, { lease := .held }), (449, { lease := .pend })] }
    ((free.arr 14 0).holder = none ∧ (free.core 448).lease = .pend ∧ free.leaseAsks 14 0 = [] ∧ [1, 2, 3, 4].map (fun k => 14 * 32 + 4 * 0 + ((free.arr 14 0).ptr + k) % 4) = [448, 449, 450, 451]) ∧
    ((asked.arr 14 0).holder = none ∧ asked.leaseAsks 14 0 = [(mx, 5)] ∧ coreOf mx = 448) ∧
    (dies.leaseAsks 14 0 = [] ∧ ∀ c ∈ [448, 449, 450, 451], (dies.core c).lease ≠ .pend) ∧
    (448 / 32 = 14 ∧ arrOf 448 = 0 ∧ (two.arr 14 0).holder ≠ some 449 ∧ (two.arr 14 0).holder = some 448 ∧ two.strictOf (two.partOf 14) = false ∧
      (∃ e ∈ arrCores 14 0, e ≠ 448 ∧ (two.core e).lease = .pend) ∧
      ∀ e ∈ arrCores 14 0, e ≠ 448 → ((q (.mtile 0 1 true)).core e).lease ≠ .pend) ∧
    dies.channelHead 14 0 false = none ∧ head (.mzero 0 4 tF32) false = some (.mzero 0 4 tF32) ∧
    head (.mwrite 0 0 4 tF32) false = some (.mwrite 0 0 4 tF32) ∧
    head (.mread 0 0 4 tF32 tF32 false false {} 1) false = some (.mread 0 0 4 tF32 tF32 false false {} 1) ∧
    head (.mscale 0 0 4 [tF32] {} 1) false = some (.mscale 0 0 4 [tF32] {} 1) ∧ head (.mtile 0 4 true) false = some (.mtile 0 4 true) ∧
    head (.mmma 0 0 0 4 tF32 0 0 false true 0 false none) false = some (.mmma 0 0 0 4 tF32 0 0 false true 0 false none) ∧
    ((q (.mtile 0 1 true)).slotB 14 0 0).valid = true ∧ head (.mlat latent0) true = some (.mlat latent0) ∧
    (let d : Die := { bound with arrays := (Vector.replicate 3 ({} : ArrayState)).set 0 { load := some { id := 7, deferred := true } } }
     let h := fun (ph : Nat) => (arrays none (0, false, 0) [{ id := 7, strand := mx, issued := 0, op := .mbld 1 0 0 tF32 false 0 256 0 none }] d).hw.updDie 14 fun x =>
       { x with wsph := ph, arrays := d.arrays }
     (∃ b ∈ (h 511).waitingBanks 14 0 true, inWindow ((h 511).die 14).wsph b = true) ∧
       ∀ b ∈ (h 512).waitingBanks 14 0 true, inWindow ((h 512).die 14).wsph b = false) := by decide +kernel

/-- A strand of a GS core: a bitmap pair of one word, tables of operands, registers of integers and of numbers. -/
def gathers (h : Hw := {}) : State :=
  one gs { kb := bk [(4, BitVec.ofNat 64 (2 ^ 42 + 2 ^ 21 * 8)), (5, 0x1FFFF8), (6, BitVec.ofNat 64 (2 ^ 42)), (7, BitVec.ofNat 64 (1024 + 65536)), (8, 0x1FFFF0), (9, 0x1FFFF8)]
           v := ((Vector.replicate 16 ({} : VecReg)).set 1 { tag := tI32 }).set 2 { tag := tF32 } } h

theorem wit_GatherInstructions :
    let s := gathers { cores := [(1088, { et := (Vector.replicate 8 none).set 3 (some { nr := 1, fmt := tF32, rb := 64, base := 0 }) })] }
    let e : EmbTable := { nr := 1, fmt := tF32, rb := 64, base := 0 }
    (∃ p, bitmapPair (s.hw.rx 4) false true = .ok p ∧ (s.hw.rx 5).toNat % 8 = 0 ∧ (s.hw.rx 5).toNat + 8 * p.w ≤ 0x200000) ∧
    (∃ p, bitmapPair (s.hw.rx 6) false false = .ok p ∧ (s.hw.rx 9).toNat % 4 = 0 ∧ (s.hw.rx 9).toNat + 4 * (p.w + 1) ≤ 0x200000) ∧
    (∃ p, bitmapPair (BitVec.ofNat 64 (2 ^ 55 + 2 ^ 42 + 2 ^ 21 * 8)) true true = .ok p) ∧
    (s.hw.gatherBusy = false ∧ (∀ o n, clean s.hw o n) ∧ (s.hw.rx 5).toNat < 2 ^ 42 ∧ (s.hw.core (coreOf s.hw.cur)).iq.length < 4) ∧
    (0 < (s.hw.rx 7).toNat % 2048 ∧ (s.hw.rx 7).toNat % 2048 ≤ 1024 ∧ (s.hw.rx 9).toNat % 4 = 0 ∧ (s.hw.vreg 1).tag = tI32 ∧ (s.hw.vreg 2).tag = tF32 ∧
      (s.hw.rx 9).toNat + 4 ≤ 0x200000 ∧ 0 < (s.hw.rx 7).toNat / 65536 % 65536 ∧ (s.hw.rx 9).toNat + 4 * ((s.hw.rx 7).toNat / 65536 % 65536) + 4 ≤ 0x200000) ∧
    (s.hw.pend = [] ∧ 32768 % 64 = 0 ∧ (embSize tF32).isSome = true ∧ EngAddr.ofNat 0 = some (.virt 0)) ∧
    ((s.hw.core (coreOf s.hw.cur)).et.get (3 : BitVec 3).toFin = some e ∧ (s.hw.rx 9).toNat + 4 * 1 ≤ 0x200000 ∧ embRow e 0 ≤ 0x1000 ∧
      (s.hw.rx 8).toNat % 16 = 0 ∧ (s.hw.core (coreOf s.hw.cur)).eq.length < 8) := by
  refine ⟨⟨_, rfl, ?_⟩, ⟨_, rfl, ?_⟩, ⟨_, rfl⟩, ⟨?_, fun o n => clean_of_none _ rfl rfl rfl o n, ?_⟩, ?_⟩ <;> decide +kernel

theorem wit_GatherEvents :
    let x : Isect := { id := 3, strand := gs, issued := 0, dest := 5, bf16 := false, w := 1, bma := 0, bmb := 8, vala := 0, valb := 0, acc := 0 }
    let h : Hw := { cores := [(1088, { iq := [x] })], dies := [(34, bound)], parts := (Vector.replicate 8 ({} : Part)).set 0 { pclk := 1 } }
    let q : Pend := { part := 0, wall := false, due := 1, seq := 0, act := .gstat gs false 5 true }
    h.isectReady 34 1 = false ∧ (h.isectReady 34 0 = true ∧ h.isectHead 34 0 = some (1088, x)) ∧
    (Memory.wf [] = true ∧ 0x1FFFF8 + 4 * 1 + 4 ≤ 0x200000 ∧ h.pkg.bad = [] ∧ h.pkg.poison = []) ∧
    (({ h with pend := [q] } : Hw).pend = [] ++ [q] ∧ ({ h with pend := [q] } : Hw).isDue q.part q = true) := by decide +kernel

theorem wit_ViewAgents :
    let h := fun (f : FabGroup → FabGroup) => withFab (fab2 f)
    let f3 := fun (g : FabGroup → FabGroup) => g { fab2 id with self := 1, nrank := 3, ranks := [(0, 0), (1, 0), (2, 0)], members := [0, 1, 2] }
    (0 < 8 ∧ (h id).fab? 0 9 = some (fab2 id) ∧ (1 : BitVec 32) ≠ (fab2 id).view ∧ (fab2 id).ranks[1]? = some (1, 0) ∧ (h id).pkg.pkgId = 0) ∧
    ((fab2 fun f => { f with agent := .changing }).agent = .changing ∧ (fab2 fun f => { f with agent := .proposing }).agent = .proposing) ∧
    -- a suspicion: the coordinator is another rank, and this rank
    ((f3 id).agent = .steady ∧ 1 ∈ (f3 id).members ∧ 2 ∈ (f3 id).members ∧ 2 ∉ (f3 id).suspects ∧
      ({ f3 id with suspects := unionRanks (f3 id).suspects [2] } : FabGroup).coordinator = some 0) ∧
    (2 ≠ (f3 id).self ∧ 1 ≠ (fab2 id).self) ∧
    (1 ∈ (fab2 id).members ∧ 1 ∉ (fab2 id).suspects ∧ ({ fab2 id with suspects := unionRanks (fab2 id).suspects [1] } : FabGroup).coordinator = some (fab2 id).self) ∧
    -- proposals, accepts, commits
    (0 ∈ [0, 1] ∧ (fab2 id).view + 1 = 1 ∧ 0 ∉ [1] ∧ (fab2 fun f => { f with agent := .lost }).agent = .lost) ∧
    ((f3 fun f => { f with agent := .proposing }).self = 1 ∧ 0 < 1 ∧ 1 ≤ 2 ∧ (f3 fun f => { f with agent := .changing, proposer := 1 }).proposer = 1) ∧
    (let f := f3 fun f => { f with agent := .proposing, accepts := [(1, 0, 0)] }
     (∀ a ∈ f.accepts, a.1 ≠ 2) ∧ ¬ 2 * ((f.accepts ++ [(2, 0, 0)]).filter fun (a : Nat × BitVec 32 × BitVec 32) => f.members.contains a.1).length ≤ f.members.length ∧
       (f.accepts ++ [(2, 0, 0)]).filter (fun (a : Nat × BitVec 32 × BitVec 32) => f.members.contains a.1) = (1, 0, 0) :: [(2, 0, 0)]) ∧
    (let f := f3 fun f => { f with agent := .proposing }
     2 * ((f.accepts ++ [(2, 0, 0)]).filter fun (a : Nat × BitVec 32 × BitVec 32) => f.members.contains a.1).length ≤ f.members.length) ∧
    (let f := fab2 fun f => { f with agent := .changing }
     f.agent ≠ .lost ∧ f.self ∉ [1] ∧ f.self ∈ f.members ∧ f.self ∈ [0] ∧ f.suspects = [] ∧ ∀ r ∈ f.admitted, r ∈ [0]) ∧
    -- joins, their acknowledgements, and time limits
    (let f := fab2 fun f => { f with awaitAck := [1] }
     1 ∈ f.awaitAck ∧ (0 ∉ f.awaitAck ∧ 0 ∈ f.members) ∧ (2 ∉ f.awaitAck ∧ 2 ∉ f.members)) ∧
    (2 ∉ (fab2 id).members ∧ (f3 id).coordinator = some 0 ∧ (f3 id).self ≠ 0 ∧ (fab2 id).coordinator = some (fab2 id).self) ∧
    (let f := f3 fun f => { f with agent := .proposing, accepts := [(1, 0, 0)] }
     let sus := unionRanks f.suspects (f.members.filter fun r => f.accepts.all fun (a : Nat × BitVec 32 × BitVec 32) => a.1 != r)
     2 ≤ f.members.length ∧ 2 * (f.members.filter fun r => !sus.contains r).length ≤ f.members.length) ∧
    (let f := f3 fun f => { f with agent := .proposing, accepts := [(1, 0, 0), (0, 0, 0)] }
     let sus := unionRanks f.suspects (f.members.filter fun r => f.accepts.all fun (a : Nat × BitVec 32 × BitVec 32) => a.1 != r)
     f.members.length < 2 * (f.members.filter fun r => !sus.contains r).length) ∧
    (let f := f3 fun f => { f with agent := .changing, proposer := 0 }
     ({ f with agent := .steady, suspects := insertRank f.proposer f.suspects } : FabGroup).coordinator = some 1 ∧ f.self = 1) ∧
    (let f := f3 fun f => { f with agent := .changing, proposer := 2 }
     ({ f with agent := .steady, suspects := insertRank f.proposer f.suspects } : FabGroup).coordinator = some 0) := by
  refine ⟨?_, ?_, ?_, ?_, ?_, ?_, ?_, ?_, ?_, ?_, ?_, ?_, ?_, ?_, ?_, ?_⟩ <;> decide +kernel

theorem wit_FabricEvents :
    let coll : Coll := { seq := 5, slot := 0, queue := 0, cmd := 0, op := .cag, desc := 0, out := 0, inp := 0 }
    let got : Coll := { coll with got := [(1, [])] }
    let f := fun (c : Coll) => fab2 fun f => { f with view := 1, colls := [c] }
    let waits := fun (w : Wait) => ({ withFab (fab2 id) with strands := [(mx, { wait := w })] } : Hw)
    ((withFab (f coll)).fab? 0 9 = some (f coll) ∧ 1 ≤ ((f coll).view - 0).toNat ∧ ((f coll).view - 0).toNat < 2 ^ 31 ∧ (f coll).agent ≠ .lost) ∧
    (let g : FabGroup := { f coll with past := [(0, [0, 1], 5)], lastC := 5 }
     g.taken 5 = true ∧ ∃ c ∈ g.colls, c.seq = 5) ∧
    (¬ 1 ≤ ((f coll).view - 1).toNat ∧ (2 : BitVec 32) ≠ (f coll).view ∧ (∃ c ∈ (f coll).colls, c.seq = 5) ∧ (f coll).taken 5 = false ∧
      (∀ c ∈ (f coll).colls, ∀ x ∈ c.got, x.1 ≠ 1) ∧ ∀ c ∈ (f coll).colls, c.seq ≠ 6) ∧
    ((f coll).colls.find? (fun c => c.seq == 5) = some coll ∧ (f got).colls.find? (fun c => c.seq == 5) = some got ∧ (∃ x ∈ got.got, x.1 = 1) ∧
      (f coll).self ∈ (f coll).members ∧ 1 ∈ (f coll).members ∧ 1 < (f coll).ranks.length) ∧
    -- a block that has come and is not placed yet, one that is placed, and a result that no block is
    (let here := { got with placed := [1] }
     (got.moves = true ∧ (f got).receives got (f got).self = true ∧ 1 ∉ got.placed) ∧ (withFab (f here)).delivered (f here) here 1 = true ∧
       ({ got with op := .cred } : Coll).moves = false) ∧
    (({} : Package).slavePort ≠ some 3 ∧ ({ slavePort := some 3 } : Package).slavePort = some 3) ∧
    ((waits (.token 0)).strictOf 0 = false ∧ ((waits (.token 0)).strand mx).mode = .kernel ∧ ((waits (.token 0)).strand mx).wait ≠ .none ∧
      ((waits (.token 0)).strand mx).wait ≠ .park ∧ (waits (.token 0)).partOf (slotOf mx) = 0 ∧ ((waits (.token 0)).strand mx).hookEn = false ∧ ((waits .none).strand mx).wait = .none) ∧
    ({} : Package).clock = .free ∧ ({ clock := .locked } : Package).clock = .locked ∧ ({ clock := .holdover } : Package).clock = .holdover := by
  decide +kernel

/-- A page descriptor at host address 0x4000, mapped at virtual address 0 by the walk from 0x3000: the HBM of slot 4 and, as its
other frame, the far memory of slot 12, for reading and writing as d2's bits say. -/
def tables (d2 : Byte) : List Host.Cell :=
  Memory.writeBytes (Memory.writeBytes [] (hostKey 0x3000) (leBytes 8 (2 ^ 63 + 0x4001))) (hostKey 0x4000)
    (leBytes 8 (2 ^ 60 + 4 * 2 ^ 52) ++ leBytes 8 (2 ^ 61 + 12 * 2 ^ 52) ++ [d2])
def walked (d2 : Byte) (f : Hw → Hw := id) : State :=
  let d : Die := { bound with regions := (Vector.replicate 16 ({} : Region)).set 0 { v := true, root := 0x8000000000003000, geo := 1, scnt := 16 } }
  { mem := tables d2, hw := f { dies with dies := [0, 1, 2, 3, 4, 12, 14, 26, 34].map fun n => (n, d) } }
def walkEnds (x : Except Nat (BrimEntry × Nat)) : Option (Bool × Bool × Nat) :=
  match x with | .ok (e, o) => some (e.allows .read, e.allows .write, o) | .error _ => none
theorem of_walkEnds (x : Except Nat (BrimEntry × Nat)) (r w : Bool) (o : Nat) (h : walkEnds x = some (r, w, o)) :
    ∃ e, x = .ok (e, o) ∧ e.allows .read = r ∧ e.allows .write = w := by
  match x, h with
  | .ok (e, o'), h => simp [walkEnds] at h; exact ⟨e, by simp [h], h.1, h.2.1⟩
/-- A partition that has admitted a request, to be served at tick w. -/
def admits (e : Event) (w : Nat) (frozen : Bool) : Part := { admitted := [(w, e, 0)], frozen := frozen }

theorem wit_OutsideRequests :
    let booted : Hw := { dies with pkg := { bootStep := 6 } }
    let u : Untimed := { id := 7, strand := mx, sup := false, tok := 1, op := .load 5 8 true, pieces := [(.remote 1 0 0, 8)], due := 0 }
    let moves := walked 3 fun h => h.updDie 12 fun d => { d with moving := [(0, 0x8000000000004000)] }
    let other := walked 3 fun h => h.updDie 4 fun d => { d with tgen := 1 }
    let at_ := fun (q : Part) => ({ dies with pkg := { bootStep := 6 }, parts := (Vector.replicate 8 ({} : Part)).set 0 q } : Hw)
    let ask : Event := .lineRequest 0 0x40 .read [] 64 7
    let due := fun (h : Hw) (a : Nat × Event × BitVec 2) => decide (a.1 ≤ h.wtick ∧ a.2.1 = ask)
    (∃ c, (({ mem := [], hw := dies } : State).ownerWalk 0 0 0x10000).1 = .error c) ∧
    -- a page that may be written, and one that may only be read
    (∃ e, ((walked 3).ownerWalk 0 ((walked 3).hw.master 0) 0x40).1 = .ok (e, 0x40) ∧ e.allows .read = true ∧ e.allows .write = true) ∧
    (∃ e, ((walked 1).ownerWalk 0 ((walked 1).hw.master 0) 0xFC0).1 = .ok (e, 0xFC0) ∧ e.allows .read = true ∧ e.allows .write = false) ∧
    (∃ e, (moves.ownerWalk 0 (moves.hw.master 0) 0x40).1 = .ok (e, 0x40) ∧ e.allows .read = true ∧ e.allows .write = true) ∧
    (Memory.wf (tables 3) = true ∧ (walked 3).hw.portHeld 0 = false ∧ (diesPart { frozen := true }).portHeld 0 = true ∧ (walked 3).hw.movingIn 0 = [] ∧
      moves.hw.movingIn 0 = [(0, 0x8000000000004000)]) ∧
    (other.hw.staleAt 0 4 = true ∧ (walked 3).hw.staleAt 0 4 = false) ∧
    -- a request not admitted yet, its port held and free; one admitted and due, in a freeze and out of one; a partition without a switch die
    ((at_ { rewriteSince := some 0 }).portHeld 0 = true ∧ (at_ {}).portHeld 0 = false ∧ ((at_ {}).part 0).admitted = [] ∧
      (∀ fr, ((at_ (admits ask 0 fr)).part 0).admitted = [] ++ (0, ask, 0) :: [] ∧ due (at_ (admits ask 0 fr)) (0, ask, 0) = true ∧
        ((at_ (admits ask 0 fr)).part 0).frozen = fr) ∧
      (∀ a ∈ ((at_ (admits ask 1 false)).part 0).admitted, due (at_ (admits ask 1 false)) a = false) ∧
      (∀ d ∈ dies.diesOf 7, isSw d = false) ∧ ∃ d ∈ dies.diesOf 0, isSw d = true) ∧
    ((walked 3).hw.pieceFails 0 0 (.mem (some 4) (hbmKey 4 0x40)) = none ∧ (walked 3).hw.pieceFails 0 0 (.mem (some 5) (hbmKey 5 0)) ≠ none ∧
      dies.badAt (hbmKey 4 0x40) 8 = false ∧ ({ dies with pkg := { bad := [hbmKey 4 0x40] } } : Hw).badAt (hbmKey 4 0x40) 8 = true) ∧
    (({ dies with untimed := [u] } : Hw).untimed.find? (fun x => x.id == 7) = some u ∧ ∀ u ∈ dies.untimed, u.id ≠ 7) ∧
    (dies.pkg.up = false ∧ booted.pkg.up = true ∧ windowKey 4 .sram 0x0FFFFFF8 8 = some (sramKey 4 0x0FFFFFF8) ∧ windowKey 4 .sram 0x0FFFFFF9 8 = none ∧
      booted.ldUp 4 = true ∧ booted.ldUp 5 = false ∧ populated 4 = true ∧ populated 36 = false ∧ 0x10000 < 0xFFF9 + 8) ∧
    (((at_ { frozen := true }).part 0).frozen = true ∧ ((at_ { rewriteSince := some 0 }).part 0).rewriteSince.isSome = true ∧
      moves.inMove 0 (hbmKey 4 0xFFF) 8 = true ∧ moves.inMove 0 (hbmKey 4 0x1000) 8 = false) ∧
    ((leBytes 8 packetAt.toNat).length = 8 ∧ isSw 0 = true ∧ (booted.die 0).mix.bound = true ∧ booted.master (booted.partOf 0) = 0) := by
  refine ⟨⟨_, rfl⟩, of_walkEnds _ true true 0x40 ?_, of_walkEnds _ true false 0xFC0 ?_, of_walkEnds _ true true 0x40 ?_, ?_⟩ <;> decide +kernel

theorem wit_TiersAndBinding :
    let h := fun (q : Part) (w : Nat) => ({ diesPart q with wtick := w } : Hw)
    let s := walked 15
    let en : Option BrimEntry := (s.readDesc 0 12 0x8000000000004000).map fun e => e.entry 0x8000000000004000
    ((dies.part 7).rewriteSince = none ∧ ((h { rewriteSince := some 5 } 0x100004).part 0).rewriteSince = some 5 ∧ 0x100004 < 5 + 2 ^ 20 ∧ 5 + 2 ^ 20 ≤ 0x100005) ∧
    ((diesPart (running false)).part 0).kernel.isSome = true ∧ Config.slotType 11 ≠ .fb ∧ Config.slotType 12 = .fb ∧
    (s.hw.inPartition 0 12 = true ∧ (s.hw.part 0).kernel = none ∧ s.hw.portHeld 0 = false ∧ (s.hw.die 12).pageAt 0 = some 4096) ∧
    (en.map (fun e => e.paired) = some true ∧ en.map (fun e => isNear (e.frame false) && isFar (e.frame true) || isFar (e.frame false) && isNear (e.frame true)) = some true ∧
      en.map (fun e => s.hw.frameOk (s.hw.die 12).ilv (e.frame true).toNat 4096) = some true) ∧
    ((s.hw.die 12).moving = [] ∧ ((s.hw.updDie 12 fun d => { d with moving := [(0, 0x8000000000004000)] }).die 12).moving = (0, 0x8000000000004000) :: []) ∧
    (let idle := fun (w : Nat) => ({ mem := [], hw := h {} w } : State)
     (idle (2 ^ 20)).canRefreshSelf 12 = true ∧ (idle (2 ^ 20 - 1)).canRefreshSelf 12 = false) ∧
    ((h { rewriteSince := some 5 } 0x100005).part 0).kernel = none ∧ (({} : Part).idle = true ∧ (running false).idle = false) ∧
    (Config.slotType 35 ≠ .none ∧ dies.rebindable 35 = true ∧ (diesPart (running false)).rebindable 14 = false ∧ (dies.diesOf 0).any isSw = true ∧
      isSw 35 = false) := by decide +kernel

theorem wit_Reliability :
    let w := sramKey 4 8
    let h := fun (k : Package) => ({ dies with pkg := k } : Hw)
    let k : Kernel := { strict := true, used := [14, 34] }
    let run : Hw := diesPart { kernel := some k, routeDies := [0, 1, 2, 3, 14, 34] }
    let lone : Hw := diesPart { kernel := some { k with vcare := 1 }, routeDies := [1, 14, 34] }
    (h {}).scrubHits 4 = [] ∧
    ((h { single := [w - 8] }).scrubHits 4 = [(w - 8, unitOfKey (w - 8))] ∧ (dies.die 4).wbuf = []) ∧
    ((({ h {} with wtick := 1024 } : Hw).updDie 4 fun d => { d with wbuf := [(w, 0, true)] }).die 4).wbuf = [] ++ (w, 0, true) :: [] ∧
    (0 + 1024 ≤ 1024 ∧ dies.partOf 4 < 8) ∧ ({ dies with wtick := 1024 } : Hw).retiring 5 = [] ∧
    (let d := (dies.die 4).note 0 ⟨1, 4, 8, 0, none, 4⟩
     (dies.die 4).noted = [] ∧ d.noted ≠ [] ∧ d.notedAt = 0 ∧ 4 < 7 ∧ (4 = 4 ∧ 8 < 9)) ∧
    (run.someRoute 0 (crosses 1 14) = true ∧ run.someRoute 0 (crosses 5 1) = false ∧ (run.part 0).ending = none) ∧
    ((dies.die 5).mix.bound = false ∧ (dies.die 14).mix.bound = true ∧ dies.healthy 14 = true ∧
      ({ dies with dies := amSet dies.dies 14 { dies.die 14 with mix := { (dies.die 14).mix with health := .failed } } } : Hw).master 0 = 0) ∧
    ((dies.part 7).kernel = none ∧ (run.part 0).kernel.isSome = true ∧ isSw 0 = true ∧ 0 ≠ 14) ∧
    -- a bank of the write-back buffer with five words, and a write-back of a read
    (let l := (List.range 4).map fun i => (spadKey 448 (16 * i), 0, false)
     ((dies.updDie 14 fun d => { d with wbuf := (spadKey 448 64, 0, false) :: l }).die 14).wbuf = [] ++ (spadKey 448 64, 0, false) :: l ∧
       4 ≤ l.countP (fun x => bankKey x.1 == bankKey (spadKey 448 64))) ∧
    -- seven and eight failures of a seam in a row
    (let f := fun (n : Nat) => amGet ({ seamFails := [(seamKey 1 14, (n, 0))] } : Package).seamFails (seamKey 1 14) (0, 0)
     (f 6).1 + 1 < 8 ∧ 8 ≤ (f 7).1 + 1 ∧ (f 7).2 = 0) ∧
    (dies.die 1).resetAsked = none ∧ ((dies.updDie 1 fun d => { d with resetAsked := some 0 }).die 1).resetAsked = some 0 ∧
    (run.routeThrough 0 2 = false ∧ run.routeThrough 0 1 = true ∧ run.keeps 0 1 = true ∧ lone.keeps 0 1 = false) := by decide +kernel

/-- A word that the scrub finds and cannot rebuild, its group's parity word being damaged too. -/
theorem wit_Reliability_poison :
    let w := sramKey 4 0
    let h : Hw := { dies with pkg := { bad := [w], badParity := [codedGroup w] } }
    h.scrubHits 4 = [(w, 0x04)] ∧ h.rebuilds w = false := by
  refine ⟨by decide +kernel, ?_⟩
  simp [Hw.rebuilds]

/-- A package in each step of its boot, whose time is over or not. Whether a bank's image passes its checks is a standard's function,
which has no value here (notes/assumptions/20.md). -/
theorem wit_PackageReset :
    let at_ := fun (n : Nat) (hs : List (Option (List Byte))) => ({ bootStep := n, bootDue := some 1, bootHeads := hs } : Package)
    Memory.wf State.reset.mem = true ∧ ({} : Package).bootDue = none ∧
    (0 < 1 ∧ 1 ≤ 1 ∧ (at_ 1 []).bootHeads = [] ∧ (at_ 1 [none]).bootHeads = [none] ∧ (at_ 6 []).bootStep = 6 ∧
      ∀ p, p < 8 → ∀ d ∈ ({ pkg := at_ 6 [] } : Hw).diesOf p, isSw d = false) ∧
    (imageSvn (leBytes 128 0) < imageSvn (leBytes 128 (2 ^ 64)) ∧ imageSvn (leBytes 128 0) ≤ imageSvn (leBytes 128 0)) := by decide +kernel

theorem wit_Attestation :
    5 ≤ ({ bootStep := 6 } : Package).bootStep ∧ ({ bootStep := 6 } : Package).recovery = false ∧ 1 ≠ 0 ∧ 6 < 7 ∧ 11 < 12 ∧ 12 ≠ 0xFF ∧
    (List.replicate 40 (0 : Byte)).length = 40 ∧ 0 < State.reset.chain.length := by
  refine ⟨by decide, by decide, by decide, by decide, by decide, by decide, by decide, ?_⟩
  unfold State.chain
  simp only [List.length_append, List.length_cons, List.length_nil]
  omega

/-- A page of memory of one kind. -/
theorem wit_ManagementPort_page : ∀ j, j < 4096 → (sramKey 4 0 + j) / 2 ^ 80 ∉ [10, 11, 12, 13, 14, 16, 17] := by
  intro j hj
  have h : (sramKey 4 0 + j) / 2 ^ 80 = 2 := by unfold sramKey locKey; omega
  rw [h]; decide

theorem wit_ManagementPort :
    let h := fun (k : Package) (q : Part) => ({ diesPart q with pkg := { k with bootStep := 6 } } : Hw)
    let b := h {} {}
    let run := h {} { kernel := some { used := [14, 34] }, routeDies := [0, 1, 2, 3, 14, 34] }
    (let p : Package := { bootStep := 1, bootDue := some 5, bootHeads := [none] }
     p.up = false ∧ p.bootHeads.length = 1 ∧ 0x100000 + (1 - 1) * 0x700000 ≤ 0x7FF000 ∧ 0x7FF000 < 0x800000 + (1 - 1) * 0x700000) ∧
    -- the firmware serves; the package is in recovery; its mix register is not written yet
    (5 ≤ b.pkg.bootStep ∧ b.pkg.recovery = false ∧ ({ bootStep := 1, recovery := true } : Package).recovery = true ∧
      ({ bootStep := 1 } : Package).recovery = false ∧ 1 < 5 ∧ 1 ≤ 1) ∧
    (47 < 48 ∧ b.pkg.up = true ∧ 1 ≤ b.pkg.bootStep ∧ Config.slotType 36 = .none ∧ Config.slotType 35 ≠ .none) ∧
    (isSw 1 = true ∧ run.through 1 ≠ [] ∧ b.through 1 = [] ∧ isSw 35 = false ∧ (b.die 35).mix.bound = false ∧ (b.die 14).mix.bound = true) ∧
    (b.pkg.frozen = false ∧ (h { frozen := true } {}).pkg.frozen = true ∧ (b.part 0).frozen = false ∧ ((h {} { frozen := true }).part 0).frozen = true) ∧
    (b.frozenKey (sramKey 4 0) = false ∧ (h { frozen := true } {}).frozenKey (sramKey 4 0) = true ∧
      sramKey 4 0 / 2 ^ 80 ∉ [10, 11, 12, 13, 14, 16, 17] ) ∧
    ((h { frozen := true } {}).frozenKey (accKey 14 2 4095) = true ∧ (List.replicate 1024 (0 : Byte)).length = 1024) ∧
    ((h { frozen := true } (grouped9 1)).frozenKey (locKey 16 0 0) = true ∧
      ((h { frozen := true } (grouped9 1)).part 0).groups.find? (fun g => g.num == 9) = some (ent9 1)) ∧
    ((h { frozen := true } {}).frozenKey (regKey mx 0) = true ∧ (h { frozen := true } {}).frozenKey (regKey mx 0x200) = true ∧
      (h { frozen := true } {}).frozenKey (regKey mx (8 * 31)) = true ∧ (leBytes 8 1).length = 8 ∧ mx < 2 ^ 20) ∧
    (b.canSwitch = false ∧ (h { modeAsked := some .guarded } {}).pkg.modeAsked = some .guarded ∧ b.pkg.modeSwitch = none ∧ ∀ q, q < 8 → (b.part q).idle = true) ∧
    (0xFFF000 % 4096 = 0 ∧ 0xFFF000 + 4096 ≤ Config.flashSize ∧ Config.flashSize < 0x1000000 + 4096 ∧ 1 % 4096 ≠ 0 ∧ (List.replicate 4096 (0 : Byte)).length = 4096) := by
  decide +kernel

/-- A graph context at node 5, whose 64 bytes are as given. -/
def graphAt (bs : List Byte) (x : GraphCtx → GraphCtx := id) : State :=
  { mem := Memory.writeBytes [] (graphNodeKey 5) bs
    hw := { diesPart {} with pkg := { graphs := (Vector.replicate 16 ({} : GraphCtx)).set 3 (x { node := 5, run := true }) } } }
/-- A node: type, next, alternative, and double words from byte 8 on. -/
def nodeBytes (type next alt : Nat) (ws : List Nat) : List Byte :=
  leBytes 8 (type + next * 2 ^ 8 + alt * 2 ^ 24) ++ ws.flatMap (leBytes 8)
def atNodeOk (s : State) (type : Nat) : Bool :=
  (s.hw.graph 3).run && (match s.node? 5 with | some n => !n.mbz && n.type == type | none => false)

theorem wit_GraphNodes :
    let a := 2 ^ 63 + 0x1000
    let s := fun type ws => graphAt (nodeBytes type 6 7 ws)
    let n := fun (s : State) => s.node? 5
    (3 < 16 ∧ ((graphAt [] fun x => { x with run := false }).hw.graph 3).run = false) ∧
    (List.range 8).all (fun t => atNodeOk (s t [a]) t) = true ∧ atNodeOk (s 9 []) 0 = false ∧
    (((s 1 [a]).packet? 0 a).isSome = true ∧ ((s 1 [a]).packet? 0 (a + 4)) = none ∧ (n (s 1 [a])).map (·.a16 % 2) = some 0 ∧
      (n (s 1 [a, 1])).map (·.a16 % 2) = some 1 ∧ (n (s 1 [a])).map (·.alt) = some 7 ∧ (n (graphAt (nodeBytes 1 6 0xFFFF [a]))).map (·.alt) = some 0xFFFF) ∧
    ((s 2 [a]).graphWord 3 a = some 0 ∧ (s 2 [a]).graphWord 3 (a + 4) = none ∧ graphCmp 0 (Nat.land 0 7) 0 = some true ∧ graphCmp 1 (Nat.land 0 7) 0 = some false) ∧
    (Nat.land 1 1 ≠ 0 ∧ Nat.land 0 1 = 0 ∧ (n (s 4 [a, 1, 1])).map (fun y => decide (y.iter < y.a24)) = some true ∧
      (n (s 4 [a, 1, 0])).map (fun y => decide (y.a24 ≤ y.iter)) = some true) ∧
    ((s 5 [a]).hw.launchKey 0 a 8 = some (hostKey 0x1000) ∧ (s 5 [0]).hw.launchKey 0 0 8 = none) ∧
    (XOp.ofMajor 0x7F = none ∧ XOp.ofMajor 0 = some .copy ∧ (n (s 6 [5])).map (fun y => (s 6 [4]).hw.xferOk 0 y .copy) = some false ∧
      (n (s 6 [4, 2 ^ 57 + 4 * 2 ^ 48, 2 ^ 57 + 4 * 2 ^ 48, 64])).map (fun y => (s 6 [4]).hw.xferOk 0 y .copy) = some true) ∧
    (let full := fun (n : Nat) => ({ s 6 [4] with hw := (s 6 [4]).hw.updQueue 4 0 fun _ => { cmds := List.replicate n (cmd0 .copy false) } } : State)
     (full 31).xferTurn 3 4 0 = true ∧ (full 32).xferTurn 3 4 0 = false) := by decide +kernel

theorem wit_Rounding :
    0 < 1 ∧ 5 % 2 ^ 1 ≠ 0 ∧ 2 * (5 % 2 ^ 1) = 2 ^ 1 ∧ 2 * (5 % 2 ^ 2) < 2 ^ 2 ∧ 2 ^ 2 < 2 * (7 % 2 ^ 2) ∧ 1 < 2 ^ b64.width ∧
    ∃ s m e, b32.unpack 0x7F7FFFFF = .fin s m e := by
  refine ⟨by decide, by decide, by decide, by decide, by decide, by decide, ⟨_, _, _, rfl⟩⟩

theorem wit_DecodeReadsEncode :
    let g : Group := ⟨true, .vadd 1 2 3 (some 3) none⟩
    (encode g).isSome = true ∧ g.instr.wf = true ∧ g.instr.cls.runsOn .v = true ∧ (encode ⟨false, .wcinv⟩).isSome = true ∧
    Instr.wcinv.cls.runsOn .g = true ∧ (encode ⟨false, .copy 1 2 3⟩).isSome = true ∧ (Instr.copy 1 2 3).cls.runsOn .seq = true := by decide +kernel

/-- A strand before `addi x5, x0, -1`, at its turn. -/
def turn (f : Strand → Strand := id) (w : Nat := 0x03283FF0) (strict : Bool := false) : State :=
  { mem := Memory.writeBytes [] (codeKey 0 0) (leBytes 4 w)
    hw := { dies with phase := 9, todo := [mx], strands := [(mx, f { status := .running, codeLen := 4 })]
                      parts := (Vector.replicate 8 ({} : Part)).set 0 { kernel := some { strict := strict } } } }
/-- The same with two cores of an array before `lease x5`, in a strict kernel. -/
def leaseTurn : State :=
  let s := turn id 0xE0280000 true
  let st : Strand := { status := .running, codeLen := 4 }
  { s with hw := { s.hw with todo := [mx + 4, mx], strands := [(mx, st), (mx + 4, st)] } }

theorem wit_StepRunsDecodedInstruction :
    let s := turn
    let m := (s.hw.die 0)
    (s.hw.pkg.frozen = false ∧ ({ s.hw with agenda := [.status] } : Hw).agenda = .status :: [] ∧ s.hw.agenda = [] ∧ 9 ≤ s.hw.phase ∧ s.hw.todo = mx :: []) ∧
    s.hw.canIssue mx = true ∧ (turn fun st => { st with notBefore := 1 }).hw.canIssue mx = false ∧ s.hw.member mx = false ∧
    yields mx { s with hw := { s.hw with todo := [] } } = false ∧
    (let t := leaseTurn
     t.hw.canIssue (mx + 4) = true ∧ yields (mx + 4) { t with hw := { t.hw with todo := [mx] } } = true) ∧
    (let w : Pend := { part := 0, wall := false, due := 9, seq := 0, act := .x mx false 5 1 }
     let h : Hw := { s.hw with cur := mx, pend := [w], strands := [(mx, { status := .running, codeLen := 4, inTrap := true, hooks := [(0, true)] })]
                               parts := (turn id 0 true).hw.parts }
     h.clashes (.addi 5 0 (-1) none) = true ∧ h.clashes (.addi 6 0 (-1) none) = false) ∧
    fetch s.mem s.hw mx = .group ⟨false, .addi 5 0 (-1) none⟩ 4 0 ∧ fetch (turn id 0xFFFFFFFF).mem s.hw mx = .fault .illegal ∧
    (({ s with hw := { s.hw with todo := [] } } : State).issuing mx 4 0).hw.before mx (.addi 5 0 (-1) none) = none ∧
    (((turn fun st => { st with viewTrap := some 9 }).hw.strand mx).viewTrap.isSome = true) ∧ ({ s.hw with todo := [] } : Hw).todo = [] ∧
    ((s.hw.strand mx).mode = .kernel ∧ (s.hw.strand mx).codeLen ≠ 0) ∧ m.mix.bound = true := by decide +kernel

/-- The state that the issue of the group of strand k comes to, where it decodes and passes the checks that come before its effect. -/
noncomputable def issued (k : Nat) (s : State) : Option State :=
  match fetch s.mem s.hw k with
  | .group g len pre =>
    let t := (s.foresee k g.instr).issuing k len pre
    if t.hw.before k g.instr = none ∧ t.hw.clashes g.instr = false then (match exec g.instr t with | .next u => some u | _ => none) else none
  | .fault _ => none
theorem issues_of_issued {k : Nat} {s u : State} (e : issued k s = some u) : Issues s k (.next u) := by
  unfold issued at e
  split at e
  next g len pre hf =>
    dsimp only at e
    split at e
    next hb =>
      split at e
      next v hv =>
        cases e
        refine ⟨fun g' len' pre' h => ?_, fun f h => ?_⟩
        · rw [hf] at h; cases h
          exact ⟨fun _ _ => hv.symm, fun _ hc => absurd hc (by simp [hb.2]), fun x hx => absurd hx (by simp [hb.1])⟩
        · rw [hf] at h; cases h
      next => cases e
    next => cases e
  next => cases e
/-- What a bundle's words come to, one after another. -/
noncomputable def together (s : State) : List Nat → Option State
  | [] => some s
  | k :: ks => match issued k (s.updHw fun h => h.updStrand k fun st => { st with wait := .none }) with
    | some u => together u ks
    | none => none
theorem lockStep_of_together {ks : List Nat} : ∀ {s t : State}, together s ks = some t → LockStep s ks t := by
  induction ks with
  | nil => intro s t e; cases e; rfl
  | cons k ks ih =>
    intro s t e
    simp only [together] at e
    split at e
    next u hu => exact ⟨u, issues_of_issued hu, ih e⟩
    next => cases e
theorem exists_lockStep {s : State} {ks : List Nat} (p : State → Bool) (e : (together s ks).any p = true) : ∃ t, LockStep s ks t ∧ p t = true := by
  cases ht : together s ks with
  | none => simp [ht] at e
  | some t => exact ⟨t, lockStep_of_together ht, by simpa [ht] using e⟩

/-- Two strands of a core, members of its bundle, before words of their own with the S bit set; a queue of the switch die is full. -/
def bundleTurn (w1 w2 : List Nat) : State :=
  let st : Strand := { status := .running, codeLen := 4 * w1.length, kb := bk [(5, 0x0204000000000000), (9, 4)] }
  let at2 : Nat := 4 * w1.length
  { mem := Memory.writeBytes [] (codeKey 0 0) ((w1 ++ w2).flatMap (leBytes 4))
    hw := { withQueue 4 0 (List.replicate 32 (cmd0 .xstat false)) with
      phase := 9, todo := [mx, mx + 1], cores := [(448, { team := some (0, 0), syncmask := 3 })]
      strands := [(mx, st), (mx + 1, { st with pc := BitVec.ofNat 64 at2, codeStart := at2, codeLen := 4 * w2.length })]
      parts := (Vector.replicate 8 ({} : Part)).set 0 { kernel := some {}, routeDies := [0, 1, 2, 3, 4, 14] } } }

/-- Bundles of two `addi`; of an `addi` and a `trap`; and of an `addi` and an `enq` to the full queue. -/
theorem wit_StepRunsDecodedInstruction_bundles :
    let s1 := fun (s : State) => { s with hw := { s.hw with todo := [mx + 1] } }
    let s0 := fun (s : State) => { s with hw := { s.hw with todo := [mx + 1].filter fun i => !([mx, mx + 1].contains i) } }
    let all := bundleTurn [0x03283FF4] [0x03283FF4]
    let trap := bundleTurn [0x03283FF4] [0x00000A14]
    let full := bundleTurn [0x03283FF4] [0x43024005, 0x98298E00]
    (∀ s ∈ [all, trap, full], s.hw.pkg.frozen = false ∧ s.hw.agenda = [] ∧ s.hw.todo = mx :: [mx + 1] ∧ s.hw.members mx = [mx, mx + 1] ∧
      s.hw.canIssue mx = true ∧ yields mx (s1 s) = false ∧ s.hw.member mx = true ∧ nextSync s.mem s.hw mx = true ∧
      ∀ i ∈ [mx, mx + 1], (s1 s).hw.joins s.mem mx i = true ∧ s.hw.owesLost i = false ∧ s.hw.owesView i = false) ∧
    (∃ t, LockStep (s0 all) [mx, mx + 1] t ∧ ([mx, mx + 1].all fun i =>
      (t.hw.strand i).mode == .kernel && (t.hw.strand i).held.isNone && (t.hw.strand i).wait == .none) = true) ∧
    (∃ t, LockStep (s0 trap) [mx, mx + 1] t ∧ ((t.hw.strand mx).mode == .kernel && (t.hw.strand (mx + 1)).mode == .supervisor &&
      [mx, mx + 1].all fun i => (t.hw.strand i).held.isNone) = true) ∧
    ∃ t, LockStep (s0 full) [mx, mx + 1] t ∧ (((t.hw.strand (mx + 1)).wait == .space 1 (4 * 16)) &&
      [mx, mx + 1].all fun i => (t.hw.strand i).mode == .kernel && (t.hw.strand i).held.isNone) = true := by
  refine ⟨by decide +kernel, exists_lockStep _ ?_, exists_lockStep _ ?_, exists_lockStep _ ?_⟩ <;> decide +kernel

theorem wit_StepKeepsMemoryCanonical : State.reset.Canonical ∧ ∃ t, step State.reset = .next t := by
  constructor
  · rfl
  · exact ⟨_, rfl⟩

/-! ### Decoding -/

/-- Every word of a list decodes, on its unit and in supervisor mode, to the group beside it. -/
noncomputable def allRead (l : List (UnitClass × List Nat × Group)) : Bool :=
  l.all fun r => decide (decodeGroup r.1 true (codeOf r.2.1) 0 = .group r.2.2 (4 * r.2.1.length) (if r.2.2.instr.pfx?.isSome then 4 else 0))

/-- The words that the encoding and instruction chapters write out (R149's disassembly and the examples of the class chapters). -/
theorem test_decode_spec_words : allRead [
    (.v, [0x0D200001, 0x00004000], ⟨false, .li 4 0x4000⟩),
    (.v, [0x22000041, 0x00000008], ⟨false, .loopi 0 4 8⟩),
    (.v, [0x2D310000], ⟨false, .ldZ32 6 4 0⟩),
    (.v, [0x09398020], ⟨false, .slli 7 6 2⟩),
    (.v, [0x014A4CE0], ⟨false, .maxu 9 9 6⟩),
    (.v, [0x04000002, 0x01294E08], ⟨false, .add 5 5 7 (some ⟨0, 1, false, false, 0⟩)⟩),
    (.v, [0x19280020], ⟨false, .bne 5 0 2⟩),
    (.v, [0x1F000040], ⟨false, .call 4⟩),
    (.v, [0x32281000], ⟨false, .st64 5 0 256⟩),
    (.v, [0x0A414200], ⟨false, .srli 8 5 32⟩),
    (.v, [0x01295040], ⟨false, .xor 5 5 8⟩),
    (.v, [0x20000020], ⟨false, .ret⟩),
    (.v, [0x44000010], ⟨false, .retire⟩)] = true := by decide +kernel

/-- The same, from the examples of the class chapters. -/
theorem test_decode_spec_examples : allRead [
    (.m, [0x11190011, 0x0000023C], ⟨false, .bextiS 3 4 8 60⟩),
    (.m, [0x3E0000D0], ⟨false, .fence 3 1⟩),
    (.m, [0x40025820], ⟨false, .barrw 9 12⟩),
    (.m, [0x46280080], ⟨false, .csrr 5 0x008⟩),
    (.m, [0x43024001, 0x80298E00], ⟨false, .enq 9 ⟨.copy, 5, 6, 7⟩⟩),
    (.g, [0x80121001, 0x00002F00], ⟨false, .vld 1 4 2 2 15⟩),
    (.m, [0x8E412020], ⟨false, .vlmul 4 1 2 none⟩),
    (.v, [0x88123B00], ⟨false, .vadd 1 2 3 (some 3) none⟩),
    (.m, [0x44F80002, 0xE4298818], ⟨false, .mread 5 6 2 false false (some ⟨2, 1, false, false, 0x3E⟩)⟩),
    (.m, [0xE4298810], ⟨false, .mread 5 6 2 false false none⟩),
    (.m, [0xE0280000], ⟨false, .lease 5⟩),
    (.m, [0xE0000010], ⟨false, .lrel⟩),
    (.m, [0xE4014800], ⟨false, .mzero 5 2⟩),
    (.g, [0xE1298E00], ⟨false, .gbmand 5 6 7⟩),
    (.g, [0xE3298E80], ⟨false, .gisect 5 6 7 8⟩),
    (.g, [0xE6240240], ⟨false, .gtopk 2 4 9⟩),
    (.g, [0xE7240010], ⟨false, .gsortk 2 4 true⟩),
    (.seq, [0x80298E00], ⟨false, .copy 5 6 7⟩),
    (.seq, [0x98298E00], ⟨false, .xstat 5 6 7⟩)] = true := by decide +kernel

/-- Words that the examples of the vector, matrix and gather chapters write out. -/
theorem test_decode_spec_more : allRead [
    (.v, [0x22080021, 0x00000004], ⟨false, .loopi 1 2 4⟩),
    (.v, [0x42000030], ⟨false, .chkpt 3⟩),
    (.v, [0x88312000], ⟨false, .vadd 3 1 2 none none⟩),
    (.v, [0x8C725020], ⟨false, .vcvt 7 2 5 false false 2 none⟩),
    (.v, [0x8D819200], ⟨false, .vqnt 8 1 9 2 none⟩),
    (.v, [0x8F320020], ⟨false, .vsumr 3 2 none none⟩),
    (.v, [0x915820F0], ⟨false, .vtbl 5 8 2 0 false 15⟩),
    (.v, [0x9243A180], ⟨false, .vpart 4 7 8 3⟩),
    (.v, [0x94614000], ⟨false, .vgath 6 1 4 false⟩),
    (.g, [0xE3190A60], ⟨false, .gisect 3 4 5 6⟩)] = true := by decide +kernel

/-- A reserved fence kind, unlisted majors (one of another class's), a prefix on an instruction that takes none, and an enq whose
second word is no X word. -/
theorem test_decode_refusals :
    decodeGroup .v true (codeOf [0x3E000000]) 0 = .fault .reserved ∧ decodeGroup .v true (codeOf [0x96000000]) 0 = .fault .illegal ∧
    decodeGroup .g true (codeOf [0xEA000000]) 0 = .fault .illegal ∧ decodeGroup .v true (codeOf [0xE0000000]) 0 = .fault .illegal ∧
    decodeGroup .m true (codeOf [0x04000002, 0x01294E28]) 0 = .fault .reserved ∧ decodeGroup .seq true (codeOf [0x87000000]) 0 = .fault .illegal ∧
    decodeGroup .m true (codeOf [0x43024001, 0x00298E00]) 0 = .fault .reserved := by decide +kernel

/-! One word for every row of the opcode table that has an encoding, its operand fields filled with values of their own. -/

theorem test_decode_int_1 : allRead [
    (.v, [0x00000000], ⟨false, .nop⟩),
    (.v, [0x00DACE14], ⟨true, .trap 0x6D67⟩),
    (.v, [0x00DACE20], ⟨false, .brk 0x6D67⟩),
    (.v, [0x00000034], ⟨true, .sret⟩),
    (.v, [0x00000040], ⟨false, .wcinv⟩),
    (.v, [0x01AB4C04], ⟨true, .add 21 13 6 none⟩),
    (.v, [0x01AB4C10], ⟨false, .sub 21 13 6 none⟩),
    (.v, [0x01AB4C24], ⟨true, .and 21 13 6⟩),
    (.v, [0x01AB4C30], ⟨false, .or 21 13 6⟩),
    (.v, [0x01AB4C44], ⟨true, .xor 21 13 6⟩),
    (.v, [0x01AB4C50], ⟨false, .andn 21 13 6⟩),
    (.v, [0x01AB4C64], ⟨true, .sll 21 13 6⟩),
    (.v, [0x01AB4C70], ⟨false, .srl 21 13 6⟩),
    (.v, [0x01AB4C84], ⟨true, .sra 21 13 6⟩),
    (.v, [0x01AB4C90], ⟨false, .slt 21 13 6⟩),
    (.v, [0x01AB4CA4], ⟨true, .sltu 21 13 6⟩),
    (.v, [0x01AB4CB0], ⟨false, .min 21 13 6⟩),
    (.v, [0x01AB4CC4], ⟨true, .max 21 13 6⟩),
    (.v, [0x01AB4CD0], ⟨false, .minu 21 13 6⟩),
    (.v, [0x01AB4CE4], ⟨true, .maxu 21 13 6⟩),
    (.v, [0x01AB4CF0], ⟨false, .mul 21 13 6 none⟩),
    (.v, [0x01AB4D04], ⟨true, .mulh 21 13 6⟩),
    (.v, [0x01AB4D10], ⟨false, .mulhu 21 13 6⟩),
    (.v, [0x02AB4C04], ⟨true, .div 21 13 6⟩),
    (.v, [0x02AB4C10], ⟨false, .divu 21 13 6⟩),
    (.v, [0x02AB4C24], ⟨true, .rem 21 13 6⟩),
    (.v, [0x02AB4C30], ⟨false, .remu 21 13 6⟩),
    (.v, [0x03AB7674], ⟨true, .addi 21 13 0x367 none⟩),
    (.v, [0x04AB7670], ⟨false, .andi 21 13 0x367⟩),
    (.v, [0x05AB7674], ⟨true, .ori 21 13 0x367⟩)] = true := by decide +kernel

theorem test_decode_int_2 : allRead [
    (.v, [0x06AB7670], ⟨false, .xori 21 13 0x367⟩),
    (.v, [0x07AB7674], ⟨true, .slti 21 13 0x367⟩),
    (.v, [0x08AB7670], ⟨false, .sltiu 21 13 0x367⟩),
    (.v, [0x09AB4254], ⟨true, .slli 21 13 0x25⟩),
    (.v, [0x0AAB4250], ⟨false, .srli 21 13 0x25⟩),
    (.v, [0x0BAB4254], ⟨true, .srai 21 13 0x25⟩),
    (.v, [0x0CAED670], ⟨false, .lui 21 0x6D67⟩),
    (.v, [0x0DA80005, 0xA5C96B35], ⟨true, .li 21 0xA5C96B35⟩),
    (.v, [0x0EA80001, 0xA5C96B35], ⟨false, .lih 21 0xA5C96B35⟩),
    (.v, [0x0FAED674], ⟨true, .adpc 21 0x6D67⟩),
    (.v, [0x10AB4C00], ⟨false, .bextZ 21 13 6⟩),
    (.v, [0x10AB4C14], ⟨true, .bextS 21 13 6⟩),
    (.v, [0x10AB4C20], ⟨false, .bins 21 13 6⟩),
    (.v, [0x11AB4005, 0x000009E7], ⟨true, .bextiZ 21 13 39 39⟩),
    (.v, [0x11AB4011, 0x000009E7], ⟨false, .bextiS 21 13 39 39⟩),
    (.v, [0x11AB4025, 0x000009E7], ⟨true, .binsi 21 13 39 39⟩),
    (.v, [0x12AB4000], ⟨false, .clz 21 13⟩),
    (.v, [0x12AB4014], ⟨true, .ctz 21 13⟩),
    (.v, [0x12AB4020], ⟨false, .popc 21 13⟩),
    (.v, [0x12AB4034], ⟨true, .brev 21 13⟩),
    (.v, [0x13AB4C00], ⟨false, .shadd1 21 13 6⟩),
    (.v, [0x13AB4C14], ⟨true, .shadd2 21 13 6⟩),
    (.v, [0x13AB4C20], ⟨false, .shadd3 21 13 6⟩)] = true := by decide +kernel

theorem test_decode_control_1 : allRead [
    (.v, [0x18AB7670], ⟨false, .beq 21 13 0x367⟩),
    (.v, [0x19AB7674], ⟨true, .bne 21 13 0x367⟩),
    (.v, [0x1AAB7670], ⟨false, .blt 21 13 0x367⟩),
    (.v, [0x1BAB7674], ⟨true, .bge 21 13 0x367⟩),
    (.v, [0x1CAB7670], ⟨false, .bltu 21 13 0x367⟩),
    (.v, [0x1DAB7674], ⟨true, .bgeu 21 13 0x367⟩),
    (.v, [0x1E92D670], ⟨false, .jmp 0x92D67⟩),
    (.v, [0x1F92D674], ⟨true, .call 0x92D67⟩),
    (.v, [0x20034000], ⟨false, .jr 13⟩),
    (.v, [0x20034014], ⟨true, .callr 13⟩),
    (.v, [0x20000020], ⟨false, .ret⟩),
    (.v, [0x21134005, 0xA5C96B35], ⟨true, .loop 2 13 0xA5C96B35⟩),
    (.v, [0x220ED671, 0xA5C96B35], ⟨false, .loopi 1 0x6D67 0xA5C96B35⟩),
    (.v, [0x28AB7674], ⟨true, .ldS8 21 13 0x367⟩),
    (.v, [0x29AB7670], ⟨false, .ldZ8 21 13 0x367⟩),
    (.v, [0x2AAB7674], ⟨true, .ldS16 21 13 0x367⟩),
    (.v, [0x2BAB7670], ⟨false, .ldZ16 21 13 0x367⟩),
    (.v, [0x2CAB7674], ⟨true, .ldS32 21 13 0x367⟩),
    (.v, [0x2DAB7670], ⟨false, .ldZ32 21 13 0x367⟩),
    (.v, [0x2EAB7674], ⟨true, .ld64 21 13 0x367⟩),
    (.v, [0x2FAB7670], ⟨false, .st8 21 13 0x367⟩),
    (.v, [0x30AB7674], ⟨true, .st16 21 13 0x367⟩),
    (.v, [0x31AB7670], ⟨false, .st32 21 13 0x367⟩),
    (.v, [0x32AB7674], ⟨true, .st64 21 13 0x367⟩),
    (.v, [0x33AB4001, 0xB92D6707], ⟨false, .ldgS8 21 13 0xB92D67 7⟩),
    (.v, [0x33AB4015, 0xB92D6707], ⟨true, .ldgZ8 21 13 0xB92D67 7⟩),
    (.v, [0x33AB4021, 0xB92D6707], ⟨false, .ldgS16 21 13 0xB92D67 7⟩),
    (.v, [0x33AB4035, 0xB92D6707], ⟨true, .ldgZ16 21 13 0xB92D67 7⟩),
    (.v, [0x33AB4041, 0xB92D6707], ⟨false, .ldgS32 21 13 0xB92D67 7⟩),
    (.v, [0x33AB4055, 0xB92D6707], ⟨true, .ldgZ32 21 13 0xB92D67 7⟩)] = true := by decide +kernel

theorem test_decode_control_2 : allRead [
    (.v, [0x33AB4061, 0xB92D6707], ⟨false, .ldg64 21 13 0xB92D67 7⟩),
    (.v, [0x34AB4005, 0xB92D6707], ⟨true, .stg8 21 13 0xB92D67 7⟩),
    (.v, [0x34AB4011, 0xB92D6707], ⟨false, .stg16 21 13 0xB92D67 7⟩),
    (.v, [0x34AB4025, 0xB92D6707], ⟨true, .stg32 21 13 0xB92D67 7⟩),
    (.v, [0x34AB4031, 0xB92D6707], ⟨false, .stg64 21 13 0xB92D67 7⟩)] = true := by decide +kernel

theorem test_decode_atomics_1 : allRead [
    (.v, [0x35AB4C00], ⟨false, .aadd8 21 13 6⟩),
    (.v, [0x35AB4C14], ⟨true, .aswp8 21 13 6⟩),
    (.v, [0x35AB4C20], ⟨false, .aand8 21 13 6⟩),
    (.v, [0x35AB4C34], ⟨true, .aor8 21 13 6⟩),
    (.v, [0x35AB4C40], ⟨false, .axor8 21 13 6⟩),
    (.v, [0x35AB4C54], ⟨true, .amin8 21 13 6⟩),
    (.v, [0x35AB4C60], ⟨false, .amax8 21 13 6⟩),
    (.v, [0x35AB4C74], ⟨true, .aminu8 21 13 6⟩),
    (.v, [0x35AB4C80], ⟨false, .amaxu8 21 13 6⟩),
    (.v, [0x35AB4C94], ⟨true, .acas8 21 13 6⟩),
    (.v, [0x36AB4C00], ⟨false, .aadd16 21 13 6⟩),
    (.v, [0x36AB4C14], ⟨true, .aswp16 21 13 6⟩),
    (.v, [0x36AB4C20], ⟨false, .aand16 21 13 6⟩),
    (.v, [0x36AB4C34], ⟨true, .aor16 21 13 6⟩),
    (.v, [0x36AB4C40], ⟨false, .axor16 21 13 6⟩),
    (.v, [0x36AB4C54], ⟨true, .amin16 21 13 6⟩),
    (.v, [0x36AB4C60], ⟨false, .amax16 21 13 6⟩),
    (.v, [0x36AB4C74], ⟨true, .aminu16 21 13 6⟩),
    (.v, [0x36AB4C80], ⟨false, .amaxu16 21 13 6⟩),
    (.v, [0x36AB4C94], ⟨true, .acas16 21 13 6⟩),
    (.v, [0x37AB4C00], ⟨false, .aadd32 21 13 6⟩),
    (.v, [0x37AB4C14], ⟨true, .aswp32 21 13 6⟩),
    (.v, [0x37AB4C20], ⟨false, .aand32 21 13 6⟩),
    (.v, [0x37AB4C34], ⟨true, .aor32 21 13 6⟩),
    (.v, [0x37AB4C40], ⟨false, .axor32 21 13 6⟩),
    (.v, [0x37AB4C54], ⟨true, .amin32 21 13 6⟩),
    (.v, [0x37AB4C60], ⟨false, .amax32 21 13 6⟩),
    (.v, [0x37AB4C74], ⟨true, .aminu32 21 13 6⟩),
    (.v, [0x37AB4C80], ⟨false, .amaxu32 21 13 6⟩),
    (.v, [0x37AB4C94], ⟨true, .acas32 21 13 6⟩)] = true := by decide +kernel

theorem test_decode_atomics_2 : allRead [
    (.v, [0x38AB4C00], ⟨false, .aadd64 21 13 6⟩),
    (.v, [0x38AB4C14], ⟨true, .aswp64 21 13 6⟩),
    (.v, [0x38AB4C20], ⟨false, .aand64 21 13 6⟩),
    (.v, [0x38AB4C34], ⟨true, .aor64 21 13 6⟩),
    (.v, [0x38AB4C40], ⟨false, .axor64 21 13 6⟩),
    (.v, [0x38AB4C54], ⟨true, .amin64 21 13 6⟩),
    (.v, [0x38AB4C60], ⟨false, .amax64 21 13 6⟩),
    (.v, [0x38AB4C74], ⟨true, .aminu64 21 13 6⟩),
    (.v, [0x38AB4C80], ⟨false, .amaxu64 21 13 6⟩),
    (.v, [0x38AB4C94], ⟨true, .acas64 21 13 6⟩),
    (.v, [0x39AB4C01, 0xB92D6707], ⟨false, .aaddG32 21 13 6 0xB92D67 7⟩),
    (.v, [0x39AB4C15, 0xB92D6707], ⟨true, .aswpG32 21 13 6 0xB92D67 7⟩),
    (.v, [0x39AB4C21, 0xB92D6707], ⟨false, .aandG32 21 13 6 0xB92D67 7⟩),
    (.v, [0x39AB4C35, 0xB92D6707], ⟨true, .aorG32 21 13 6 0xB92D67 7⟩),
    (.v, [0x39AB4C41, 0xB92D6707], ⟨false, .axorG32 21 13 6 0xB92D67 7⟩),
    (.v, [0x39AB4C55, 0xB92D6707], ⟨true, .aminG32 21 13 6 0xB92D67 7⟩),
    (.v, [0x39AB4C61, 0xB92D6707], ⟨false, .amaxG32 21 13 6 0xB92D67 7⟩),
    (.v, [0x39AB4C75, 0xB92D6707], ⟨true, .aminuG32 21 13 6 0xB92D67 7⟩),
    (.v, [0x39AB4C81, 0xB92D6707], ⟨false, .amaxuG32 21 13 6 0xB92D67 7⟩),
    (.v, [0x39AB4C95, 0xB92D6707], ⟨true, .acasG32 21 13 6 0xB92D67 7⟩),
    (.v, [0x3AAB4C01, 0xB92D6707], ⟨false, .aaddG64 21 13 6 0xB92D67 7⟩),
    (.v, [0x3AAB4C15, 0xB92D6707], ⟨true, .aswpG64 21 13 6 0xB92D67 7⟩),
    (.v, [0x3AAB4C21, 0xB92D6707], ⟨false, .aandG64 21 13 6 0xB92D67 7⟩),
    (.v, [0x3AAB4C35, 0xB92D6707], ⟨true, .aorG64 21 13 6 0xB92D67 7⟩),
    (.v, [0x3AAB4C41, 0xB92D6707], ⟨false, .axorG64 21 13 6 0xB92D67 7⟩),
    (.v, [0x3AAB4C55, 0xB92D6707], ⟨true, .aminG64 21 13 6 0xB92D67 7⟩),
    (.v, [0x3AAB4C61, 0xB92D6707], ⟨false, .amaxG64 21 13 6 0xB92D67 7⟩),
    (.v, [0x3AAB4C75, 0xB92D6707], ⟨true, .aminuG64 21 13 6 0xB92D67 7⟩),
    (.v, [0x3AAB4C81, 0xB92D6707], ⟨false, .amaxuG64 21 13 6 0xB92D67 7⟩),
    (.v, [0x3AAB4C95, 0xB92D6707], ⟨true, .acasG64 21 13 6 0xB92D67 7⟩)] = true := by decide +kernel

theorem test_decode_sync : allRead [
    (.v, [0x3C034C00], ⟨false, .swset 13 6⟩),
    (.v, [0x3D014004], ⟨true, .waitK 5⟩),
    (.v, [0x3D034C10], ⟨false, .waitG 13 6⟩),
    (.v, [0x3E000124], ⟨true, .fence 4 2⟩),
    (.v, [0x3F001E70], ⟨false, .afence 7 39⟩),
    (.v, [0x4039C004], ⟨true, .barr 231⟩),
    (.v, [0x4039EA10], ⟨false, .barw 231 21⟩),
    (.v, [0x4039EA24], ⟨true, .barrw 231 21⟩),
    (.v, [0x4192D670], ⟨false, .anchor 0x92D67⟩),
    (.v, [0x428A5C14], ⟨true, .chkpt 0x8A5C1⟩),
    (.v, [0x43034001, 0x92034C00], ⟨false, .enq 13 ⟨.viewJoin, 0, 13, 6⟩⟩),
    (.v, [0x44000004], ⟨true, .drain⟩),
    (.v, [0x44000010], ⟨false, .retire⟩),
    (.v, [0x45034004], ⟨true, .twait 13⟩),
    (.v, [0x45034010], ⟨false, .waitw 13⟩),
    (.v, [0x46A88014], ⟨true, .csrr 21 0x801⟩),
    (.v, [0x47A89A30], ⟨false, .csrw 21 0x9A3⟩)] = true := by decide +kernel

theorem test_decode_vec_data : allRead [
    (.g, [0x80C69801, 0x92D67F00], ⟨false, .vld 12 13 3 0x92D67 15⟩),
    (.g, [0x81C68005, 0x92D67F00], ⟨true, .vst 12 13 0x92D67 15⟩),
    (.g, [0x82568001, 0x92D67000], ⟨false, .kld 5 13 0x92D67⟩),
    (.g, [0x82568015, 0x92D67000], ⟨true, .kst 5 13 0x92D67⟩),
    (.g, [0x83268001, 0x92D67000], ⟨false, .bld 2 13 0x92D67⟩),
    (.g, [0x83268015, 0x92D67000], ⟨true, .bst 2 13 0x92D67⟩),
    (.g, [0x84C6C801, 0xB92D6707], ⟨false, .vldg 12 13 9 0xB92D67 7⟩),
    (.g, [0x85C68005, 0xB92D6707], ⟨true, .vstg 12 13 0xB92D67 7⟩),
    (.g, [0x86960B00], ⟨false, .vmov 9 6 (some 3)⟩),
    (.g, [0x86963B14], ⟨true, .vsel 9 6 3 (some 3)⟩),
    (.g, [0x86C68820], ⟨false, .vsplat 12 13 2⟩),
    (.g, [0x86C69834], ⟨true, .vins 12 13 6⟩),
    (.g, [0x86C69840], ⟨false, .vext 12 13 6⟩),
    (.g, [0x87963B04], ⟨true, .vand 9 6 3 (some 3)⟩),
    (.g, [0x87963B10], ⟨false, .vor 9 6 3 (some 3)⟩),
    (.g, [0x87963B24], ⟨true, .vxor 9 6 3 (some 3)⟩),
    (.g, [0x87960B30], ⟨false, .vnot 9 6 (some 3)⟩),
    (.g, [0x87963B44], ⟨true, .vsll 9 6 3 (some 3)⟩),
    (.g, [0x87963B50], ⟨false, .vsrl 9 6 3 (some 3)⟩),
    (.g, [0x87963B64], ⟨true, .vsra 9 6 3 (some 3)⟩)] = true := by decide +kernel

theorem test_decode_vec_arith_1 : allRead [
    (.g, [0x88963B00], ⟨false, .vadd 9 6 3 (some 3) none⟩),
    (.g, [0x88963B14], ⟨true, .vsub 9 6 3 (some 3) none⟩),
    (.g, [0x88963B20], ⟨false, .vmul 9 6 3 (some 3) none⟩),
    (.g, [0x88963B34], ⟨true, .vfma 9 6 3 (some 3) none⟩),
    (.g, [0x88963B40], ⟨false, .vfms 9 6 3 (some 3) none⟩),
    (.g, [0x88963B54], ⟨true, .vmin 9 6 3 (some 3) none⟩),
    (.g, [0x88963B60], ⟨false, .vmax 9 6 3 (some 3) none⟩),
    (.g, [0x88963B74], ⟨true, .vdiv 9 6 3 (some 3) none⟩),
    (.g, [0x88960B80], ⟨false, .vsqrt 9 6 (some 3) none⟩),
    (.g, [0x88960B94], ⟨true, .vrsqrt 9 6 (some 3) none⟩),
    (.g, [0x89963B00], ⟨false, .viadd 9 6 3 (some 3) none⟩),
    (.g, [0x89963B14], ⟨true, .visub 9 6 3 (some 3) none⟩),
    (.g, [0x89963B20], ⟨false, .vimul 9 6 3 (some 3) none⟩),
    (.g, [0x89963B34], ⟨true, .vimad 9 6 3 (some 3) none⟩),
    (.g, [0x89963B40], ⟨false, .vimin 9 6 3 (some 3) none⟩),
    (.g, [0x89963B54], ⟨true, .vimax 9 6 3 (some 3) none⟩),
    (.g, [0x89963B60], ⟨false, .viminu 9 6 3 (some 3) none⟩),
    (.g, [0x89963B74], ⟨true, .vimaxu 9 6 3 (some 3) none⟩),
    (.g, [0x89960B80], ⟨false, .viabs 9 6 (some 3) none⟩),
    (.g, [0x8A563B04], ⟨true, .vceq 5 6 3 (some 3)⟩),
    (.g, [0x8A563B10], ⟨false, .vcne 5 6 3 (some 3)⟩),
    (.g, [0x8A563B24], ⟨true, .vclt 5 6 3 (some 3)⟩),
    (.g, [0x8A563B30], ⟨false, .vcle 5 6 3 (some 3)⟩),
    (.g, [0x8A563B44], ⟨true, .vcgt 5 6 3 (some 3)⟩),
    (.g, [0x8A563B50], ⟨false, .vcge 5 6 3 (some 3)⟩),
    (.g, [0x8B563004], ⟨true, .kand 5 6 3⟩),
    (.g, [0x8B563010], ⟨false, .kor 5 6 3⟩),
    (.g, [0x8B563024], ⟨true, .kxor 5 6 3⟩),
    (.g, [0x8B560030], ⟨false, .knot 5 6⟩),
    (.g, [0x8B5A8044], ⟨true, .kpop 5 21⟩)] = true := by decide +kernel

theorem test_decode_vec_arith_2 : allRead [
    (.g, [0x8B5A8050], ⟨false, .kffs 5 21⟩)] = true := by decide +kernel

theorem test_decode_vec_shape_1 : allRead [
    (.g, [0x8C966CA0], ⟨false, .vcvt 9 6 6 true true 10 none⟩),
    (.g, [0x8D963204], ⟨true, .vqnt 9 6 3 2 none⟩),
    (.g, [0x8D963210], ⟨false, .vdqnt 9 6 3 2 none⟩),
    (.g, [0x8E960104], ⟨true, .vtolns 9 6 true none⟩),
    (.g, [0x8E963110], ⟨false, .vfromlns 9 6 3 true none⟩),
    (.g, [0x8E963024], ⟨true, .vlmul 9 6 3 none⟩),
    (.g, [0x8E963030], ⟨false, .vldiv 9 6 3 none⟩),
    (.g, [0x8E960044], ⟨true, .vlsqrt 9 6 none⟩),
    (.g, [0x8E960050], ⟨false, .vlrsqrt 9 6 none⟩),
    (.g, [0x8E963064], ⟨true, .vlpow 9 6 3 none⟩),
    (.g, [0x8F962D00], ⟨false, .vrotr 9 6 45⟩),
    (.g, [0x8F962D14], ⟨true, .vbcr 9 6 45⟩),
    (.g, [0x8F960B20], ⟨false, .vsumr 9 6 (some 3) none⟩),
    (.g, [0x8F960B34], ⟨true, .vmaxr 9 6 (some 3) none⟩),
    (.g, [0x8F960B40], ⟨false, .vminr 9 6 (some 3) none⟩),
    (.g, [0x90960D04], ⟨true, .vrotc 9 6 13⟩),
    (.g, [0x90960D10], ⟨false, .vbcc 9 6 13⟩),
    (.g, [0x90960B24], ⟨true, .vsumc 9 6 (some 3) none⟩),
    (.g, [0x90960B30], ⟨false, .vmaxc 9 6 (some 3) none⟩),
    (.g, [0x90960B44], ⟨true, .vminc 9 6 (some 3) none⟩),
    (.g, [0x91993BF0], ⟨false, .vtbl 9 9 3 5 true 15⟩),
    (.g, [0x92948284], ⟨true, .vpart 9 9 0 5⟩),
    (.g, [0x9396FB00], ⟨false, .vcomp 9 6 15 (some 3)⟩),
    (.g, [0x9396FB14], ⟨true, .vexpd 9 6 15 (some 3)⟩),
    (.g, [0x94963100], ⟨false, .vgath 9 6 3 true⟩),
    (.g, [0x94963114], ⟨true, .vscat 9 6 3 true⟩),
    (.v, [0x95C68000], ⟨false, .soCfg 12 13⟩),
    (.v, [0x95069814], ⟨true, .soRte 13 6⟩),
    (.v, [0x95069820], ⟨false, .soThr 13 6⟩),
    (.v, [0x95C68034], ⟨true, .soSend 12 13⟩)] = true := by decide +kernel

theorem test_decode_vec_shape_2 : allRead [
    (.v, [0x95CA8040], ⟨false, .soRecv 12 21⟩),
    (.v, [0x950A9854], ⟨true, .soStat 21 6⟩)] = true := by decide +kernel

theorem test_decode_matrix : allRead [
    (.m, [0xE0A80000], ⟨false, .lease 21⟩),
    (.m, [0xE0000014], ⟨true, .lrel⟩),
    (.m, [0xE16D5C01, 0x70E78000], ⟨false, .mbld 13 21 1 true true 7 0 231 true⟩),
    (.m, [0xE26EB005, 0x383CFCE0], ⟨true, .mmma 13 26 true true 3 4 false true 231 231 none⟩),
    (.m, [0xE3680001, 0xA5C96B35], ⟨false, .mlat 13 0xA5C96B35⟩),
    (.m, [0xE4068804], ⟨true, .mzero 26 2⟩),
    (.m, [0xE46E9610], ⟨false, .mread 13 26 5 true false none⟩),
    (.m, [0xE46EAC24], ⟨true, .mwrite 13 26 11⟩),
    (.m, [0xE46E8030], ⟨false, .mscale 13 26 none⟩),
    (.m, [0xE5068104], ⟨true, .mtile 26 true⟩),
    (.m, [0xE6A80000], ⟨false, .mprog 21⟩),
    (.m, [0xE7327C35, 0x8801AD67], ⟨true, .mgemv 6 9 30 3 8 0x801 0xAD67 none⟩),
    (.m, [0xE8A80100], ⟨false, .mstat 21 true⟩)] = true := by decide +kernel

theorem test_decode_gather : allRead [
    (.g, [0xE0AB4C01, 0xF002012B], ⟨false, .gemb 21 13 6 7 2 0x2 0x12B⟩),
    (.g, [0xE1AB4C04], ⟨true, .gbmand 21 13 6⟩),
    (.g, [0xE2AB4C00], ⟨false, .gpopx 21 13 6⟩),
    (.g, [0xE3AB4D34], ⟨true, .gisect 21 13 6 19⟩),
    (.g, [0xE4C56980], ⟨false, .gscadd 12 5 13 6⟩),
    (.g, [0xE5056984], ⟨true, .ghist 5 13 6⟩),
    (.g, [0xE6A50180], ⟨false, .gtopk 10 5 6⟩),
    (.g, [0xE7A50014], ⟨true, .gsortk 10 5 true⟩),
    (.g, [0xE8034C00], ⟨false, .gcfg 13 6⟩),
    (.g, [0xE9A80204], ⟨true, .gstat 21 true⟩)] = true := by decide +kernel

theorem test_decode_transfer : allRead [
    (.seq, [0x80AB4C00], ⟨false, .copy 21 13 6⟩),
    (.seq, [0x81AB4C00], ⟨false, .copyc 21 13 6⟩),
    (.seq, [0x82AB4C00], ⟨false, .csum 21 13 6⟩),
    (.seq, [0x83AB4C00], ⟨false, .fill 21 13 6⟩),
    (.seq, [0x84AB4C00], ⟨false, .publish 21 13 6⟩),
    (.seq, [0x85034C00], ⟨false, .prefetch 13 6⟩),
    (.seq, [0x86AB4C00], ⟨false, .migr 21 13 6⟩),
    (.seq, [0x88AB4C00], ⟨false, .cred 21 13 6⟩),
    (.seq, [0x89AB4C00], ⟨false, .crs 21 13 6⟩),
    (.seq, [0x8AAB4C00], ⟨false, .cag 21 13 6⟩),
    (.seq, [0x8BAB4C00], ⟨false, .cbc 21 13 6⟩),
    (.seq, [0x8CAB4C00], ⟨false, .ca2a 21 13 6⟩),
    (.seq, [0x90AB4C00], ⟨false, .viewRd 21 13 6⟩),
    (.seq, [0x91034C00], ⟨false, .viewAck 13 6⟩),
    (.seq, [0x92034C00], ⟨false, .viewJoin 13 6⟩),
    (.seq, [0x93AB4C00], ⟨false, .viewAdm 21 13 6⟩),
    (.seq, [0x98AB4C00], ⟨false, .xstat 21 13 6⟩)] = true := by decide +kernel

/-! ### Well-formedness -/

/-- For each check of `Instr.wf`, a term that it refuses. -/
theorem test_wf_refuses : ([
    .add 1 2 3 (some ⟨1, 0, false, false, 0⟩), .slli 1 2 64, .srli 1 2 1023, .srai 1 2 64, .waitK 8, .fence 0 0, .fence 5 1,
    .enq 1 ⟨.prefetch, 1, 2, 3⟩, .enq 1 ⟨.viewAck, 1, 2, 3⟩, .vsplat 1 2 13, .vld 1 2 15 0 0, .vldg 1 2 14 0 0,
    .vadd 1 2 3 none (some ⟨7, 0, false, false, 0⟩), .vadd 1 2 3 none (some ⟨0, 5, false, false, 0⟩),
    .viadd 1 2 3 none (some ⟨0, 0, true, false, 0⟩), .vcvt 1 2 0 false false 0 none, .vcvt 1 2 2 true false 0 none, .vcvt 1 2 13 false false 0 none,
    .vqnt 1 2 3 0 (some ⟨0, 1, false, false, 0⟩), .vlmul 1 2 3 (some ⟨1, 0, false, false, 0⟩)] : List Instr).all (fun i => !i.wf) = true := by
  decide +kernel

theorem test_wf_refuses_more : ([
    .vdqnt 1 2 3 0 (some ⟨7, 0, false, false, 0⟩), .vfromlns 1 2 8 false none, .vfromlns 1 2 2 true none, .vsumr 1 2 none (some ⟨7, 0, false, false, 0⟩),
    .vrotr 1 2 64, .vbcr 1 2 64, .vrotc 1 2 16, .vbcc 1 2 16, .vtbl 1 12 2 4 false 0, .mzero 1 3, .mwrite 1 2 0,
    .mread 1 2 7 false false none, .mread 1 2 2 true false none, .mread 1 2 2 false true none, .mread 1 2 11 false false (some ⟨0, 1, false, false, 0⟩),
    .mscale 1 2 (some ⟨7, 0, false, false, 0⟩), .mbld 1 2 3 false true 5 0 0 false, .mbld 1 2 0 false true 2 0 0 false, .mbld 1 2 1 false true 5 1 0 false,
    .mbld 1 2 0 false false 2 0 0 false, .mbld 1 0 0 false false 1 0 0 false] : List Instr).all (fun i => !i.wf) = true := by decide +kernel

theorem test_wf_refuses_rest : ([
    .mmma 1 2 false false 1 0 false false 0 0 none, .mmma 1 2 false false 2 5 false false 0 0 none, .mmma 1 2 false false 2 1 true false 0 0 none,
    .mmma 1 2 false false 2 0 false false 0 1 none, .mmma 1 2 false false 2 1 false false 0 0 (some ⟨0, 1, false, false, 0⟩),
    .mgemv 1 2 3 4 2 1 0 none, .mgemv 1 2 3 4 3 0 0 none, .gtopk 1 2 3, .gsortk 3 2 false, .gemb 1 2 3 0 3 0 0, .gemb 1 2 3 0 0 1 1,
    .gemb 1 2 3 0 1 1 2] : List Instr).all (fun i => !i.wf) = true ∧
    (([.slli 1 2 63, .waitK 7, .fence 4 3, .vrotr 1 2 63, .vtbl 1 12 2 3 false 0, .mgemv 1 2 3 4 3 1 0 none, .gemb 1 2 3 0 1 1 3] : List Instr).all
      fun i => i.wf) = true := by decide +kernel

/-! ### Formats and addresses, from the examples of the spec -/

/-- R54, R55: 0.3, 500 and 100,000 in the 8-bit formats. -/
theorem test_fp8 :
    b32.cvt e4m3 false .rne 0 0x3E99999A = (0x2A, fNX) ∧ (b32.cvt e4m3 false .rne 0 0x43FA0000).1 = 0x7E ∧
    (b32.cvt e4m3 true .rne 0 0x43FA0000).1 = 0x7F ∧ (b32.cvt e5m2 false .rne 0 0x47C35000).1 = 0x7B ∧
    (b32.cvt e5m2 true .rne 0 0x47C35000).1 = 0x7C := by decide +kernel

/-- R72, R73: 3.0 in LNS32, and 0x00600000 in binary32. -/
theorem test_lns : (toLns (b32.unpack 0x40400000)).1.bits = 0x00657007 ∧
    (b32.deliver false .rne 0 { v := fromLns (Lns.ofNat 0x00600000) }).1 = 0x403504F3 := by decide +kernel

/-- R57: block scale 0x6A is 1.3125 (in units of 1/128). -/
theorem test_scale : scaleUnits 0x6A = 168 := by decide

/-- The BF16 additions of the example under R206. -/
theorem test_bf16_add :
    bf16.deliver false .rne 0 (exAdd .rne (bf16.unpack 0x3F80) (bf16.unpack 0x3B80)) = (0x3F80, fNX) ∧
    (bf16.deliver false .rne 0 (exAdd .rne (bf16.unpack 0xC040) (bf16.unpack 0x4040))).1 = 0 := by decide +kernel

/-- R96: byte 0x32500 under STRIPE4K and HASH, byte 0x34567 under HASH. -/
theorem test_interleave :
    placeOf [4, 5, 6, 7, 8, 9, 10, 11] 1 0x32500 4 = (6, 0x6500) ∧ placeOf [4, 5, 6, 7, 8, 9, 10, 11] 2 0x32500 4 = (5, 0x6400) ∧
    placeOf [4, 5, 6, 7, 8, 9, 10, 11] 2 0x34567 4 = (9, 0x6867) := by decide +kernel

/-- The routes of the topology example. -/
theorem test_routes :
    let all := allSlots.filter populated
    (routeOf all [] 10 18 = some [10, 18] ∧ routeOf all [] 10 19 = some [10, 3, 19] ∧ routeOf all [] 4 28 = some [4, 0, 28] ∧
      routeOf all [] 4 17 = some [4, 0, 2, 17]) ∧ latencyOf [10, 18] = 12 ∧ latencyOf [10, 3, 19] = 28 ∧ latencyOf [4, 0, 2, 17] = 44 := by
  decide +kernel

/-- R307: the checksum of the copyc example, in one part and in two, and of the corrupted run. -/
theorem test_fold :
    sumWord (foldSum (0, 0) [1, 0, 2, 0, 3, 0, 4, 0]) = 0x0014000A ∧ foldSum (0, 0) [1, 0, 2, 0] = (3, 4) ∧
    sumWord (foldSum (3, 4) [3, 0, 4, 0]) = 0x0014000A := by decide +kernel

/-- R291: word 0 of the INT8 example adds −12 and −5. -/
theorem test_intersect :
    let m := [(0x1100, 0x02FD0507), (0x1140, 0x0409FF06)].foldl (fun m (x : Nat × Nat) =>
      Memory.writeBytes m (spadKey 1088 x.1) (leBytes 4 x.2).reverse) []
    let x : Isect := { id := 0, strand := gs, issued := 0, dest := 3, bf16 := false, w := 2, bma := 0x1000, bmb := 0x1010, vala := 0x1100, valb := 0x1140, acc := 0 }
    (isectWord m 1088 x 0xB 0xE).acc = BitVec.ofInt 64 (-17) ∧ (isectWord m 1088 { x with oa := 3, ob := 3 } 0x10 0x1).acc = 0 := by decide +kernel

/-! ### Steps -/

/-- The next state of a step from reset with a word of 32 * ws bits placed, when registers of its strand hold values. -/
noncomputable def stepped (l : List (XReg × W64)) (ws w : Nat) : Option State :=
  let s := State.reset.withFetchWord (32 * ws) w
  match step { s with hw := { s.hw with strands := s.hw.strands.map fun k => (k.1, { k.2 with kb := l.foldl (fun b p => b.writeX p.1 p.2) k.2.kb }) } } with
  | .next t => some t
  | _ => none
/-- What the step scheduled: ticks from now, and the effect. -/
noncomputable def effects (l : List (XReg × W64)) (ws w : Nat) : Option (List (Nat × PendAct)) :=
  (stepped l ws w).map fun t => t.hw.pend.map fun p => (p.due, p.act)
/-- What the step left of the strand: mode, pc, SEPC and cause. -/
noncomputable def after (l : List (XReg × W64)) (ws w : Nat) : Option (Mode × W64 × W64 × BitVec 8) :=
  (stepped l ws w).map fun t => let st := t.hw.st; (st.mode, st.pc, st.sepc, st.cause)

/-- R160, example: bexti.s x3, x4, 60, 8 and, with width 4, the sign. -/
theorem test_step_bexti :
    effects [(4, 0xF000000000000000)] 2 0x0000023C11190011 = some [(1, .x mx false 3 0xF)] ∧
    effects [(4, 0xF000000000000000)] 2 0x0000013C11190011 = some [(1, .x mx false 3 0xFFFFFFFFFFFFFFFF)] := by decide +kernel

/-- R157, example: 100 divided by zero lands all ones 18 ticks later, with DZ. -/
theorem test_step_div_by_zero :
    effects [(1, 100), (2, 0)] 1 0x02184400 = some [(18, .x mx false 3 0xFFFFFFFFFFFFFFFF), (18, .flags mx fDZ)] := by decide +kernel

/-- addi x5, x0, -1. -/
theorem test_step_addi : effects [] 1 0x03283FF0 = some [(1, .x mx false 5 0xFFFFFFFFFFFFFFFF)] := by decide +kernel

/-- bne x5, x0, +2 words: taken and not. -/
theorem test_step_bne :
    (after [(5, 1)] 1 0x19280020).map (fun x => x.2.1) = some 8 ∧ (after [] 1 0x19280020).map (fun x => x.2.1) = some 4 := by decide +kernel

/-- trap 5 and an illegal word enter the supervisor with SEPC at the group (R359). -/
theorem test_step_traps :
    (after [] 1 0x00000A10).map (fun x => (x.1, x.2.2)) = some (Mode.supervisor, 0, Cause.trap) ∧
    (after [] 1 0x14000000).map (fun x => (x.1, x.2.2)) = some (Mode.supervisor, 0, Cause.illegal) := by decide +kernel

/-- sret returns to kernel mode at SEPC. -/
theorem test_step_sret : (after [] 1 0x00000030).map (fun x => (x.1, x.2.1)) = some (Mode.kernel, 0) := by decide +kernel

/-- aadd.8 x1, [x11], x2 (the example under R174; five ticks for less than a word). -/
theorem test_step_atomic :
    effects [(11, 0x800), (2, 0x20)] 1 0x350AC400 = some [(5, .atomic 448 0 0x800 1 .add 0x20 0 (some (mx, false, 1)))] := by decide +kernel

end Sys2Proof.Tests
end

section
/-! SUPPORT. What scheduled writes do when they land (R7, R82-R84, R99, R137, R173): masked elements, a store beside the memory,
one equation for each kind of write, the lining trap. -/
namespace Sys2Proof.Machine
open Sys2Proof Sys2Proof.Claims

/-! ### Elements under a mask -/

theorem testBit_packNat {w : Nat} (hw : 0 < w) (xs : List Nat) (i : Nat) :
    (packNat w xs).testBit i = (xs.getD (i / w) 0).testBit (i % w) := by
  induction xs generalizing i with
  | nil => rw [List.getD_nil, Nat.zero_testBit]; exact Nat.zero_testBit i
  | cons x xs ih =>
    have hcons : packNat w (x :: xs) = 2 ^ w * packNat w xs + x % 2 ^ w := Nat.add_comm _ _
    rw [hcons, Nat.testBit_two_pow_mul_add _ (Nat.mod_lt x (Nat.two_pow_pos w))]
    split
    · next h => rw [Nat.testBit_mod_two_pow, decide_eq_true h, Bool.true_and, Nat.div_eq_of_lt h, Nat.mod_eq_of_lt h]; rfl
    · next h =>
      have hle : w ≤ i := Nat.le_of_not_lt h
      rw [ih, ← Nat.mod_eq_sub_mod hle, Nat.div_eq_sub_div hw hle, List.getD_cons_succ]

/-- Elements of w bits that are all ones where f holds and all zeros elsewhere. -/
theorem testBit_packNat_ones {w : Nat} (hw : 0 < w) (m : Nat) (f : Nat → Bool) (i : Nat) (hi : i < w * m) :
    (packNat w ((List.range m).map fun n => if f n then 2 ^ w - 1 else 0)).testBit i = f (i / w) := by
  have hlt : i / w < m := Nat.div_lt_of_lt_mul hi
  rw [testBit_packNat hw, List.getD_eq_getElem?_getD, List.getElem?_map, List.getElem?_range hlt, Option.map_some, Option.getD_some]
  cases f (i / w) with
  | false => exact Nat.zero_testBit _
  | true => exact (Nat.testBit_two_pow_sub_one w (i % w)).trans (decide_eq_true (Nat.mod_lt i hw))

theorem getLsbD_allSlotsMask {n : Nat} (hn : n < 1024) : allSlotsMask.getLsbD n = true := by
  rw [allSlotsMask, BitVec.getLsbD_allOnes, decide_eq_true hn]

theorem getLsbD_spreadBytes (m : BitVec 1024) (i : Nat) (hi : i < 8192) :
    (spreadBytes m).getLsbD i = m.getLsbD (i / 8) := by
  rw [spreadBytes, BitVec.getLsbD_ofNat, decide_eq_true hi, Bool.true_and]
  exact testBit_packNat_ones (by decide) 1024 m.getLsbD i hi

theorem getLsbD_spread (m : BitVec 1024) (i : Nat) (hi : i < 32768) :
    (spread m).getLsbD i = m.getLsbD (i / 32) := by
  unfold spread
  split
  · next hall =>
    rw [hall, getLsbD_allSlotsMask (Nat.div_lt_of_lt_mul hi), BitVec.getLsbD_allOnes, decide_eq_true hi]
  · rw [packReg, BitVec.getLsbD_ofNat, decide_eq_true hi, Bool.true_and]
    exact testBit_packNat_ones (by decide) 1024 m.getLsbD i hi

/-- A replacement under a selector: each bit is that of `new` where the selector holds, and of `old` elsewhere. -/
theorem getLsbD_masked {N : Nat} (old new sel : BitVec N) (i : Nat) (hi : i < N) :
    ((old &&& ~~~ sel) ||| (new &&& sel)).getLsbD i = if sel.getLsbD i then new.getLsbD i else old.getLsbD i := by
  rw [BitVec.getLsbD_or, BitVec.getLsbD_and, BitVec.getLsbD_and, BitVec.getLsbD_not, decide_eq_true hi]
  cases sel.getLsbD i <;> cases old.getLsbD i <;> cases new.getLsbD i <;> rfl

theorem getLsbD_merge (old new : BitVec 32768) (m : BitVec 1024) (i : Nat) (hi : i < 32768) :
    (merge old new m).getLsbD i = if m.getLsbD (i / 32) then new.getLsbD i else old.getLsbD i := by
  unfold merge
  split
  · next hall => rw [hall, getLsbD_allSlotsMask (Nat.div_lt_of_lt_mul hi), if_pos rfl]
  · rw [getLsbD_masked _ _ _ i hi, getLsbD_spread m i hi]

/-- Where each bit of a word is chosen by the mask bit of its element of w bits, so is each element. -/
theorem extractLsb'_eq_ite {N w n : Nat} {x new old : BitVec N} {m : BitVec 1024} (hn : w * n + w ≤ N)
    (h : ∀ i, i < N → x.getLsbD i = if m.getLsbD (i / w) then new.getLsbD i else old.getLsbD i) :
    x.extractLsb' (w * n) w = if m.getLsbD n then new.extractLsb' (w * n) w else old.extractLsb' (w * n) w := by
  apply BitVec.eq_of_getLsbD_eq
  intro i hi
  have hdiv : (w * n + i) / w = n := by
    rw [Nat.mul_add_div (by omega), Nat.div_eq_of_lt hi, Nat.add_zero]
  rw [BitVec.getLsbD_extractLsb', h _ (by omega), hdiv]
  split <;> rw [BitVec.getLsbD_extractLsb', decide_eq_true hi, Bool.true_and]

theorem VecReg.slot_land (v : VecReg) (data : BitVec 32768) (slots : BitVec 1024) (tag : Option Tag) (n : Nat) (hn : n < 1024) :
    (v.land data slots tag).slot n = if slots.getLsbD n then elemAt data 32 n else v.slot n := by
  have h := extractLsb'_eq_ite (w := 32) (n := n) (by omega) (getLsbD_merge v.data data slots)
  show ((merge v.data data slots).extractLsb' (32 * n) 32).toNat = _
  rw [h]
  split <;> rfl

/-- The bytes of a byte register after a masked write. -/
theorem extractLsb'_maskedBytes (old data : BitVec 8192) (bytes : BitVec 1024) (n : Nat) (hn : n < 1024) :
    ((old &&& ~~~ spreadBytes bytes) ||| (data &&& spreadBytes bytes)).extractLsb' (8 * n) 8 =
      if bytes.getLsbD n then data.extractLsb' (8 * n) 8 else old.extractLsb' (8 * n) 8 := by
  refine extractLsb'_eq_ite (by omega) fun i hi => ?_
  rw [getLsbD_masked _ _ _ i hi, getLsbD_spreadBytes bytes i hi]

/-! ### What a store does beside the memory (R84, R120, R408) -/

/-- Whether a store of n bytes at key k leaves the error of word b: it does not cover the word. -/
def keepsWord (k n b : Nat) : Bool := !(decide (k ≤ b) && decide (b + wordBytes b ≤ k + n))

@[simp] theorem keepsWord_iff (k n b : Nat) : keepsWord k n b = true ↔ ¬ (k ≤ b ∧ b + wordBytes b ≤ k + n) := by
  simp only [keepsWord, Bool.not_eq_true', Bool.and_eq_false_imp, decide_eq_true_eq, decide_eq_false_iff_not, not_and]

theorem Hw.clearBad_eq (h : Hw) (k n : Nat) :
    h.clearBad k n = h.updPkg fun p =>
      { p with bad := p.bad.filter (keepsWord k n), single := p.single.filter (keepsWord k n)
               poison := p.poison.filter (keepsWord k n) } := by
  unfold Hw.clearBad
  split
  · next hnone =>
    obtain ⟨hb, hs, hp⟩ := hnone
    have hsame : ∀ b s q, h.pkg.bad = b → h.pkg.single = s → h.pkg.poison = q →
        h = { h with pkg := { h.pkg with bad := b, single := s, poison := q } } := by
      rintro _ _ _ rfl rfl rfl; rfl
    simpa only [Hw.updPkg, hb, hs, hp, List.filter_nil] using hsame [] [] [] hb hs hp
  · rfl

/-- The collectives of a group, and of a partition, whose input a store of n bytes at key k meets have had it written. -/
def FabGroup.soil (f : FabGroup) (k n : Nat) : FabGroup :=
  { f with colls := f.colls.map fun c =>
    { c with dirty := c.dirty || c.inKeys.any fun r => decide (r.1 < k + n) && decide (k < r.1 + r.2) } }
def Part.soil (p : Part) (k n : Nat) : Part := { p with fabs := p.fabs.map fun f => f.soil k n }

theorem FabGroup.soil_of_no_colls {f : FabGroup} (k n : Nat) (h : f.colls = []) : f.soil k n = f := by
  rw [FabGroup.soil, h, List.map_nil, ← h]

theorem Part.soil_of_no_colls {p : Part} (k n : Nat) (h : (p.fabs.all fun f => f.colls.isEmpty) = true) : p.soil k n = p := by
  have hid : ∀ f ∈ p.fabs, f.soil k n = f := fun f hf =>
    FabGroup.soil_of_no_colls k n (List.isEmpty_iff.1 (List.all_eq_true.1 h f hf))
  unfold Part.soil
  rw [List.map_congr_left hid, List.map_id']

theorem Hw.soil_eq (h : Hw) (k n : Nat) : h.soil k n = { h with parts := h.parts.map fun p => p.soil k n } := by
  unfold Hw.soil
  split
  · next hnone =>
    have hid : (h.parts.map fun p => p.soil k n) = h.parts := by
      ext i hi
      have hmem : h.parts[i] ∈ h.parts.toList := Vector.mem_toList_iff.2 (Vector.getElem_mem hi)
      rw [Vector.getElem_map, Part.soil_of_no_colls k n (List.all_eq_true.1 hnone _ hmem)]
    rw [hid]
  · rfl

theorem Hw.part_soil (h : Hw) (k n p : Nat) : (h.soil k n).part p = (h.part p).soil k n := by
  rw [Hw.soil_eq]
  show (h.parts.map fun p => p.soil k n)[(Fin.ofNat 8 p).val] = _
  rw [Vector.getElem_map]; rfl

theorem Hw.spoil_shape (h : Hw) (k n : Nat) : h.spoil k n = { h with dies := (h.spoil k n).dies } := by
  unfold Hw.spoil
  dsimp only
  split <;> rfl

/-- Of a die, a store can change but the tiles of its arrays: those of an array whose samples it meets are spoiled. -/
theorem Hw.die_spoil (h : Hw) (k n d : Nat) :
    (h.spoil k n).die d = { h.die d with arrays := ((h.spoil k n).die d).arrays } ∧ ∀ i : Fin 3,
      let x := (h.die d).arrays.get i
      ((h.spoil k n).die d).arrays.get i = x ∨ ((h.spoil k n).die d).arrays.get i =
        { x with tile := x.tile.map (·.hit k n), tileIssued := x.tileIssued.map (·.hit k n) } := by
  unfold Hw.spoil
  dsimp only
  split
  · rw [Hw.die_setDie]
    split
    · next hd =>
      subst hd
      refine ⟨rfl, fun i => ?_⟩
      rw [vget_set]
      split
      · next hi => subst hi; exact .inr rfl
      · exact .inl rfl
    · exact ⟨rfl, fun _ => .inl rfl⟩
  · exact ⟨rfl, fun _ => .inl rfl⟩

theorem Hw.stored_shape (h : Hw) (k n : Nat) :
    h.stored k n = { h with pkg := (h.stored k n).pkg, dies := (h.stored k n).dies, parts := (h.stored k n).parts } := by
  unfold Hw.stored
  rw [Hw.soil_eq, Hw.spoil_shape, Hw.clearBad_eq]; rfl

theorem Hw.pkg_stored (h : Hw) (k n : Nat) :
    (h.stored k n).pkg = { h.pkg with bad := h.pkg.bad.filter (keepsWord k n), single := h.pkg.single.filter (keepsWord k n)
                                      poison := h.pkg.poison.filter (keepsWord k n) } := by
  unfold Hw.stored
  rw [Hw.soil_eq, Hw.spoil_shape, Hw.clearBad_eq]; rfl

theorem Hw.die_clearBad (h : Hw) (k n d : Nat) : (h.clearBad k n).die d = h.die d := by rw [Hw.clearBad_eq]; rfl

theorem Hw.die_stored (h : Hw) (k n d : Nat) : (h.stored k n).die d = ((h.clearBad k n).spoil k n).die d := by
  unfold Hw.stored
  rw [Hw.soil_eq]; rfl

theorem Hw.part_stored (h : Hw) (k n p : Nat) : (h.stored k n).part p = (h.part p).soil k n := by
  unfold Hw.stored
  rw [Hw.part_soil, Hw.spoil_shape, Hw.clearBad_eq]; rfl

@[simp] theorem Hw.pclk_stored (h : Hw) (k n p : Nat) : ((h.stored k n).part p).pclk = (h.part p).pclk := by
  rw [Hw.part_stored]; rfl
@[simp] theorem Hw.wtick_stored (h : Hw) (k n : Nat) : (h.stored k n).wtick = h.wtick := by rw [Hw.stored_shape]
@[simp] theorem Hw.pend_stored (h : Hw) (k n : Nat) : (h.stored k n).pend = h.pend := by rw [Hw.stored_shape]

/-- Bytes stored at a key, as the statements say it. -/
theorem stored_writeBytes (s : State) (key : Nat) (bs : List Byte) (n : Nat) (hn : n = bs.length) (hm : Memory.wf s.mem = true) :
    Stored s { mem := Memory.writeBytes s.mem key bs, hw := s.hw.stored key n } key bs := by
  subst hn
  have hword : ∀ l w, w ∈ List.filter (keepsWord key bs.length) l ↔
      w ∈ l ∧ ¬ (key ≤ w ∧ w + wordBytes w ≤ key + bs.length) := fun l w => by
    rw [List.mem_filter, keepsWord_iff]
  refine ⟨Hw.stored_shape _ _ _, ?_⟩
  dsimp only
  rw [Hw.pkg_stored]
  refine ⟨rfl, hword _, hword _, hword _, ?_, Hw.part_stored _ _ _, ?_, ?_⟩
  · intro d
    have h := Hw.die_spoil (s.hw.clearBad key bs.length) key bs.length d
    rw [Hw.die_clearBad] at h
    rw [Hw.die_stored]
    exact h
  · intro j hj
    show (Memory.writeBytes s.mem key bs).read (key + j) = _
    rw [Memory.read_writeBytes _ _ _ hm, if_pos (Nat.le_add_right _ _), Nat.add_sub_cancel_left,
      List.getD_eq_getElem?_getD, List.getD_eq_getElem?_getD, List.getElem?_eq_getElem hj, Option.getD_some, Option.getD_some]
  · intro a ha
    show (Memory.writeBytes s.mem key bs).read a = _
    rw [Memory.read_writeBytes _ _ _ hm]
    split
    · rw [List.getD_eq_getElem?_getD, List.getElem?_eq_none (by omega), Option.getD_none]
    · rfl

/-! ### What each write does when it lands -/

section
variable {q : Pend}

theorem State.land_x (s : State) {k : Nat} {sup : Bool} {r : XReg} {v : W64} (h : q.act = .x k sup r v) :
    s.land q = s.updHw fun h => h.updStrand k fun st => st.setBank sup ((st.bankOf sup).writeX r v) := by
  unfold State.land; rw [h]
theorem State.land_v (s : State) {k : Nat} {r : VRegNo} {data : BitVec 32768} {slots : BitVec 1024} {tag : Option Tag}
    (h : q.act = .v k r data slots tag) :
    s.land q = s.updHw fun h => h.updStrand k fun st => { st with v := st.v.set r ((st.v.get r).land data slots tag) } := by
  unfold State.land; rw [h]
theorem State.land_k (s : State) {k : Nat} {r : KRegNo} {v : BitVec 1024} (h : q.act = .k k r v) :
    s.land q = s.updHw fun h => h.updStrand k fun st => { st with k := st.k.set r v } := by
  unfold State.land; rw [h]
theorem State.land_b (s : State) {k : Nat} {r : BRegNo} {data : BitVec 8192} {bytes : BitVec 1024} (h : q.act = .b k r data bytes) :
    s.land q = s.updHw fun h => h.updStrand k fun st =>
      { st with b := st.b.set r ((st.b.get r &&& ~~~ spreadBytes bytes) ||| (data &&& spreadBytes bytes)) } := by
  unfold State.land; rw [h]
theorem State.land_flags (s : State) {k : Nat} {b : BitVec 6} (h : q.act = .flags k b) :
    s.land q = s.updHw fun h => h.updStrand k fun st => { st with flags := st.flags ||| b } := by
  unfold State.land; rw [h]
theorem State.land_store (s : State) {core port off : Nat} {bs : List Byte} (h : q.act = .store core port off bs) :
    s.land q = { mem := Memory.writeBytes s.mem (spadKey core off) bs, hw := s.hw.stored (spadKey core off) bs.length } := by
  unfold State.land; rw [h]
theorem State.land_swset (s : State) {core port off target : Nat} (h : q.act = .swset core port off target) :
    s.land q =
      { mem := Memory.writeBytes s.mem (spadKey core off)
          ([0, 0, 0, 0] ++ Memory.readBytes s.mem (spadKey core off + 4) 4 ++ [0, 0, 0, 0] ++ leBytes 4 target)
        hw := s.hw.stored (spadKey core off) 16 } := by
  unfold State.land; rw [h]; rfl
theorem State.land_lining (s : State) {k : Nat} {pc : W64} {info : Nat} {mates : List (Nat × W64)} (h : q.act = .lining k pc info mates) :
    s.land q = s.updHw fun h => h.liningTrap k pc info mates := by
  unfold State.land; rw [h]
theorem State.land_vstRead (s : State) {k : Nat} {r : VRegNo} {i core port off n : Nat} (h : q.act = .vstRead k r i core port off n) :
    s.land q = s.updHw fun h => h.follow q 3 (.store core port off (regBytes ((h.strand k).v.get r).data (1024 * i) n)) := by
  unfold State.land; rw [h]
end

/-- What an atomic leaves: the bytes of its new value. -/
def State.atomicStored (s : State) (core off n : Nat) (op : AtomOp) (y cmp : Nat) : State :=
  let k := spadKey core off
  { mem := Memory.writeBytes s.mem k (leBytes n (atomNew op n (Memory.readNat s.mem k n) y cmp)), hw := s.hw.stored k n }

theorem State.land_atomic_none (s : State) {q : Pend} {core port off n : Nat} {op : AtomOp} {y cmp : Nat}
    (h : q.act = .atomic core port off n op y cmp none) : s.land q = s.atomicStored core off n op y cmp := by
  unfold State.land; rw [h]; rfl
theorem State.land_atomic_some (s : State) {q : Pend} {core port off n : Nat} {op : AtomOp} {y cmp k : Nat} {sup : Bool} {r : XReg}
    (h : q.act = .atomic core port off n op y cmp (some (k, sup, r))) :
    s.land q = (s.atomicStored core off n op y cmp).updHw fun h => { h with
      pend := h.pend ++ [{ q with act := .x k sup r (BitVec.ofNat 64 (Memory.readNat s.mem (spadKey core off) n)) }] } := by
  unfold State.land; rw [h]; rfl

theorem stored_atomicStored (s : State) (core off n : Nat) (op : AtomOp) (y cmp : Nat) (hm : Memory.wf s.mem = true) :
    Stored s (s.atomicStored core off n op y cmp) (spadKey core off)
      (leBytes n (atomNew op n (Memory.readNat s.mem (spadKey core off) n) y cmp)) :=
  stored_writeBytes s _ _ n (leBytes_length _ _).symm hm

/-! ### Registers -/

theorem oneStrand_updStrand (s : State) (k : Nat) (f : Strand → Strand) :
    OneStrand s (s.updHw fun h => h.updStrand k f) k (f (s.hw.strand k)) := by
  refine ⟨rfl, ?_, fun j hj => ?_⟩
  · rw [State.updHw_hw, Hw.strand_updStrand, if_pos rfl]
  · rw [State.updHw_hw, Hw.strand_updStrand, if_neg (Ne.symm hj)]

@[simp] theorem Strand.bankOf_setBank (st : Strand) (sup : Bool) (b : Bank) : (st.setBank sup b).bankOf sup = b := by
  cases sup <;> rfl

theorem Bank.readX_writeX_eq_ite (b : Bank) (r x : XReg) (v : W64) :
    (b.writeX r v).readX x = if x = r ∧ r ≠ 0 then v else b.readX x := by
  by_cases hr : r = 0
  · rw [hr, Bank.writeX_zero, if_neg (show ¬(x = 0 ∧ (0 : XReg) ≠ 0) from fun h => h.2 rfl)]
  · by_cases hx : x = r
    · rw [hx, Bank.readX_writeX, if_neg hr, if_pos rfl, if_pos ⟨rfl, hr⟩]
    · rw [Bank.readX_writeX, if_neg (Ne.symm hx), if_neg (show ¬(x = r ∧ r ≠ 0) from fun h => hx h.1)]
      by_cases h0 : x = 0
      · subst h0; rfl
      · rw [if_neg h0]

/-- A register write changes nothing else of its bank. -/
theorem Bank.writeX_shape (b : Bank) (r : XReg) (v : W64) : b.writeX r v = { b with x := (b.writeX r v).x } := by
  unfold Bank.writeX; split <;> rfl

theorem xWriteLands (s : State) (q : Pend) (k : Nat) (sup : Bool) (r : XReg) (v : W64) (h : q.act = .x k sup r v) :
    let st := s.hw.strand k
    ∃ st', OneStrand s (s.land q) k st' ∧ st' = st.setBank sup (st'.bankOf sup) ∧
      (∀ x : XReg, (st'.bankOf sup).readX x = if x = r ∧ r ≠ 0 then v else (st.bankOf sup).readX x) ∧
      (st'.bankOf sup).tok = (st.bankOf sup).tok ∧ (st'.bankOf sup).rets = (st.bankOf sup).rets ∧
      (st'.bankOf sup).loops = (st.bankOf sup).loops := by
  intro st
  refine ⟨_, State.land_x s h ▸ oneStrand_updStrand s k _, ?_⟩
  rw [Strand.bankOf_setBank]
  refine ⟨rfl, fun x => Bank.readX_writeX_eq_ite _ _ _ _, ?_⟩
  rw [Bank.writeX_shape]
  exact ⟨rfl, rfl, rfl⟩

theorem vectorWriteLands (s : State) (q : Pend) (k : Nat) (r : VRegNo) (data : BitVec 32768) (slots : BitVec 1024) (tag : Option Tag)
    (h : q.act = .v k r data slots tag) :
    let st := s.hw.strand k
    ∃ st', OneStrand s (s.land q) k st' ∧ st' = { st with v := st'.v } ∧
      (∀ j : VRegNo, j ≠ r → st'.v.get j = st.v.get j) ∧ (st'.v.get r).tag = tag.getD (st.v.get r).tag ∧
      ∀ n, n < 1024 → (st'.v.get r).slot n = if slots.getLsbD n then elemAt data 32 n else (st.v.get r).slot n := by
  intro st
  refine ⟨_, State.land_v s h ▸ oneStrand_updStrand s k _, rfl, fun j hj => ?_, ?_, fun n hn => ?_⟩
  · rw [vget_set, if_neg (Ne.symm hj)]
  · rw [vget_set, if_pos rfl]; rfl
  · rw [vget_set, if_pos rfl, VecReg.slot_land _ _ _ _ n hn]

theorem maskWriteLands (s : State) (q : Pend) (k : Nat) (r : KRegNo) (v : BitVec 1024) (h : q.act = .k k r v) :
    let st := s.hw.strand k
    ∃ st', OneStrand s (s.land q) k st' ∧ st' = { st with k := st'.k } ∧ st'.k.get r = v ∧
      ∀ j : KRegNo, j ≠ r → st'.k.get j = st.k.get j := by
  intro st
  refine ⟨_, State.land_k s h ▸ oneStrand_updStrand s k _, rfl, ?_, fun j hj => ?_⟩
  · rw [vget_set, if_pos rfl]
  · rw [vget_set, if_neg (Ne.symm hj)]

theorem byteWriteLands (s : State) (q : Pend) (k : Nat) (r : BRegNo) (data : BitVec 8192) (bytes : BitVec 1024)
    (h : q.act = .b k r data bytes) :
    let st := s.hw.strand k
    ∃ st', OneStrand s (s.land q) k st' ∧ st' = { st with b := st'.b } ∧ (∀ j : BRegNo, j ≠ r → st'.b.get j = st.b.get j) ∧
      ∀ n, n < 1024 → (st'.b.get r).extractLsb' (8 * n) 8 =
        if bytes.getLsbD n then data.extractLsb' (8 * n) 8 else (st.b.get r).extractLsb' (8 * n) 8 := by
  intro st
  refine ⟨_, State.land_b s h ▸ oneStrand_updStrand s k _, rfl, fun j hj => ?_, fun n hn => ?_⟩
  · rw [vget_set, if_neg (Ne.symm hj)]
  · rw [vget_set, if_pos rfl, extractLsb'_maskedBytes _ _ _ n hn]

theorem flagsWriteLands (s : State) (q : Pend) (k : Nat) (b : BitVec 6) (h : q.act = .flags k b) :
    OneStrand s (s.land q) k { s.hw.strand k with flags := (s.hw.strand k).flags ||| b } :=
  State.land_flags s h ▸ oneStrand_updStrand s k _

/-! ### The lining trap (R29, R409) -/

theorem Hw.record_shape (h : Hw) (slot sev unit addr code : Nat) (detail : Option Nat) :
    h.record slot sev unit addr code detail = { h with dies := (h.record slot sev unit addr code detail).dies } := by
  unfold Hw.record; split <;> rfl
@[simp] theorem Hw.strand_record (h : Hw) (slot sev unit addr code : Nat) (detail : Option Nat) (j : Nat) :
    (h.record slot sev unit addr code detail).strand j = h.strand j :=
  Hw.strand_of_strands (Hw.record_strands h slot sev unit addr code detail) j

theorem Strand.not_abortedNow_of_kernel {st : Strand} (w : Nat) (hm : st.mode = .kernel) : st.abortedNow w = false := by
  have hsup : st.sup = false := by rw [Strand.sup, hm]; rfl
  rw [Strand.abortedNow, hsup]; rfl

/-- Strand k takes the lining trap at its group, and the event is recorded. -/
def Hw.liningEntry (h : Hw) (k : Nat) (pc : W64) (info : Nat) : Hw :=
  (h.record (slotOf k) 2 0x0A 0 0 (some info)).updStrand k fun st =>
    ({ st with pc := pc } : Strand).enterTrap h.wtick k { cause := Cause.lining, info := info }

theorem Hw.liningEntry_shape (h : Hw) (k : Nat) (pc : W64) (info : Nat) :
    h.liningEntry k pc info = { h with strands := (h.liningEntry k pc info).strands
                                       dies := (h.record (slotOf k) 2 0x0A 0 0 (some info)).dies } := by
  unfold Hw.liningEntry
  rw [Hw.record_shape]; rfl
@[simp] theorem Hw.strand_liningEntry_same (h : Hw) (k : Nat) (pc : W64) (info : Nat) :
    (h.liningEntry k pc info).strand k =
      ({ h.strand k with pc := pc } : Strand).enterTrap h.wtick k { cause := Cause.lining, info := info } := by
  rw [Hw.liningEntry, Hw.strand_updStrand, if_pos rfl, Hw.strand_record]
theorem Hw.strand_liningEntry_ne (h : Hw) {k j : Nat} (pc : W64) (info : Nat) (hj : j ≠ k) :
    (h.liningEntry k pc info).strand j = h.strand j := by
  rw [Hw.liningEntry, Hw.strand_updStrand, if_neg (Ne.symm hj), Hw.strand_record]

/-- What the lining trap of strand k is to a member of its bundle, at the member's group. -/
def Strand.liningAbort (w k info : Nat) (x : Nat × W64) (st : Strand) : Strand :=
  if x.1 = k then { st with bnd := true }
  else if st.status == .running && st.mode == .kernel then
    { ({ st with pc := x.2 } : Strand).enterTrap w x.1 { cause := Cause.bundle, info := info } with
      clu := BitVec.ofNat 2 (clusterOf k), bnd := true }
  else st

/-- An update of the strands of a list, one after another. -/
def Hw.updEach (f : Nat → Nat × W64 → Strand → Strand) (h : Hw) (l : List (Nat × W64)) : Hw :=
  l.foldl (fun g x => g.updStrand x.1 (f g.wtick x)) h

theorem Hw.updEach_shape (f : Nat → Nat × W64 → Strand → Strand) (h : Hw) (l : List (Nat × W64)) :
    h.updEach f l = { h with strands := (h.updEach f l).strands } := by
  induction l generalizing h with
  | nil => rfl
  | cons x l ih => exact ih (h.updStrand x.1 (f h.wtick x))

theorem Hw.strand_updEach_of_notMem (f : Nat → Nat × W64 → Strand → Strand) (h : Hw) (l : List (Nat × W64)) {j : Nat}
    (hj : j ∉ l.map (·.1)) : (h.updEach f l).strand j = h.strand j := by
  induction l generalizing h with
  | nil => rfl
  | cons x l ih =>
    rw [List.map_cons, List.mem_cons, not_or] at hj
    show ((h.updStrand x.1 (f h.wtick x)).updEach f l).strand j = _
    rw [ih _ hj.2, Hw.strand_updStrand, if_neg (Ne.symm hj.1)]

theorem Hw.strand_updEach_of_mem (f : Nat → Nat × W64 → Strand → Strand) (h : Hw) (l : List (Nat × W64)) {x : Nat × W64}
    (hl : (l.map (·.1)).Nodup) (hx : x ∈ l) : (h.updEach f l).strand x.1 = f h.wtick x (h.strand x.1) := by
  induction l generalizing h with
  | nil => cases hx
  | cons y l ih =>
    rw [List.map_cons, List.nodup_cons] at hl
    show ((h.updStrand y.1 (f h.wtick y)).updEach f l).strand x.1 = _
    rcases List.mem_cons.1 hx with rfl | hx
    · rw [Hw.strand_updEach_of_notMem _ _ _ hl.1, Hw.strand_updStrand, if_pos rfl]
    · have hne : y.1 ≠ x.1 := fun e => hl.1 (e ▸ List.mem_map_of_mem hx)
      rw [ih _ hl.2 hx, Hw.strand_updStrand, if_neg hne]; rfl

/-- The divergences of a bundle that are still pending when one of them has trapped. -/
def isLiningOf (mates : List (Nat × W64)) (q : Pend) : Bool :=
  match q.act with
  | .lining _ _ _ m => m == mates
  | _ => false

theorem amSet_amSet {α : Type} (l : List (Nat × α)) (k : Nat) (a b : α) : amSet (amSet l k a) k b = amSet l k b := by
  induction l with
  | nil => simp only [amSet, Nat.lt_irrefl, if_false, if_true]
  | cons p t ih =>
    obtain ⟨j, c⟩ := p
    by_cases hlt : k < j
    · simp only [amSet, hlt, Nat.lt_irrefl, if_false, if_true]
    · by_cases heq : k = j
      · subst heq; simp only [amSet, Nat.lt_irrefl, if_false, if_true]
      · simp only [amSet, hlt, heq, if_false, ih]

theorem Hw.updStrand_updStrand (h : Hw) (k : Nat) (f g : Strand → Strand) :
    (h.updStrand k f).updStrand k g = h.updStrand k fun st => g (f st) := by
  show { h with strands := amSet (amSet h.strands k _) k _ } = { h with strands := amSet h.strands k _ }
  rw [amSet_amSet, Hw.strand_updStrand, if_pos rfl]

/-- In kernel mode the trap and its record are the trap of the strand at the group that wrote the result. -/
theorem Hw.trapOf_lining (h : Hw) {k : Nat} (pc : W64) (info : Nat) (hm : (h.strand k).mode = .kernel) :
    ((h.record (slotOf k) 2 0x0A 0 0 (some info)).updStrand k fun st => { st with pc := pc }).trapOf k
      { cause := Cause.lining, info := info } = h.liningEntry k pc info := by
  have hk : (((h.record (slotOf k) 2 0x0A 0 0 (some info)).updStrand k fun st => { st with pc := pc }).strand k).mode = .kernel := by
    rw [Hw.strand_updStrand, if_pos rfl, Hw.strand_record]; exact hm
  rw [Hw.trapOf_kernel _ _ _ hk, Hw.updStrand_updStrand, Hw.updStrand_wtick, Hw.record_wtick]; rfl

theorem Hw.liningTrap_alone (h : Hw) {k : Nat} (pc : W64) (info : Nat) (hm : (h.strand k).mode = .kernel) :
    h.liningTrap k pc info [] = h.liningEntry k pc info := by
  have hnot := fun w => Strand.not_abortedNow_of_kernel w hm
  simp only [Hw.liningTrap, Hw.strand_record, hnot, Bool.false_eq_true, if_false, if_true, Hw.trapOf_lining h pc info hm]

/-- The lining trap of a strand in a bundle: its own entry, and the abort of the other members. -/
def Hw.liningBundle (h : Hw) (k : Nat) (pc : W64) (info : Nat) (mates : List (Nat × W64)) : Hw :=
  let g : Hw := { h.liningEntry k pc info with pend := h.pend.filter fun q => !isLiningOf mates q }
  g.updEach (fun w => Strand.liningAbort w k info) mates

theorem Hw.liningTrap_bundle (h : Hw) {k : Nat} (pc : W64) (info : Nat) {mates : List (Nat × W64)} (hne : mates ≠ [])
    (hm : (h.strand k).mode = .kernel) : h.liningTrap k pc info mates = h.liningBundle k pc info mates := by
  have hnot := fun w => Strand.not_abortedNow_of_kernel w hm
  have hpend : (h.liningEntry k pc info).pend = h.pend := by rw [Hw.liningEntry_shape]
  have hfilter : (fun q : Pend => match q.act with | .lining _ _ _ ms => ms != mates | _ => true) = fun q => !isLiningOf mates q := by
    funext q
    unfold isLiningOf
    cases q.act <;> rfl
  simp only [Hw.liningTrap, Hw.strand_record, hnot, Bool.false_eq_true, if_false, hne, Hw.trapOf_lining h pc info hm, hpend]
  rw [Hw.liningBundle, ← hfilter]; rfl

section
variable (h : Hw) (k : Nat) (pc : W64) (info : Nat) (mates : List (Nat × W64))

theorem Hw.liningBundle_shape :
    h.liningBundle k pc info mates =
      { h with strands := (h.liningBundle k pc info mates).strands, pend := h.pend.filter fun q => !isLiningOf mates q
               dies := (h.record (slotOf k) 2 0x0A 0 0 (some info)).dies } := by
  unfold Hw.liningBundle
  rw [Hw.updEach_shape, Hw.liningEntry_shape]

theorem Hw.strand_liningBundle_of_notMem {j : Nat} (hk : k ∈ mates.map (·.1)) (hj : j ∉ mates.map (·.1)) :
    (h.liningBundle k pc info mates).strand j = h.strand j := by
  have hne : j ≠ k := fun e => hj (e ▸ hk)
  rw [Hw.liningBundle, Hw.strand_updEach_of_notMem _ _ _ hj]
  exact (Hw.strand_of_strands rfl j).trans (Hw.strand_liningEntry_ne h pc info hne)

theorem Hw.strand_liningBundle_of_mem {x : Nat × W64} (hnd : (mates.map (·.1)).Nodup) (hx : x ∈ mates) :
    (h.liningBundle k pc info mates).strand x.1 =
      Strand.liningAbort h.wtick k info x ((h.liningEntry k pc info).strand x.1) := by
  rw [Hw.liningBundle, Hw.strand_updEach_of_mem _ _ _ hnd hx, Hw.liningEntry_shape]; rfl

theorem Hw.strand_liningBundle_same (hnd : (mates.map (·.1)).Nodup) (hk : k ∈ mates.map (·.1)) :
    (h.liningBundle k pc info mates).strand k =
      { ({ h.strand k with pc := pc } : Strand).enterTrap h.wtick k { cause := Cause.lining, info := info } with bnd := true } := by
  obtain ⟨x, hx, rfl⟩ := List.mem_map.1 hk
  rw [Hw.strand_liningBundle_of_mem _ _ _ _ _ hnd hx, Strand.liningAbort, if_pos rfl, Hw.strand_liningEntry_same]

theorem Hw.strand_liningBundle_mate {x : Nat × W64} (hnd : (mates.map (·.1)).Nodup) (hx : x ∈ mates) (hk : x.1 ≠ k)
    (hr : (h.strand x.1).status = .running) (hm : (h.strand x.1).mode = .kernel) :
    (h.liningBundle k pc info mates).strand x.1 =
      { ({ h.strand x.1 with pc := x.2 } : Strand).enterTrap h.wtick x.1 { cause := Cause.bundle, info := info } with
        clu := BitVec.ofNat 2 (clusterOf k), bnd := true } := by
  rw [Hw.strand_liningBundle_of_mem _ _ _ _ _ hnd hx, Hw.strand_liningEntry_ne _ _ _ hk, Strand.liningAbort, if_neg hk,
    if_pos (by rw [hr, hm]; rfl)]
end

theorem State.land_lining_alone (s : State) {q : Pend} {k : Nat} {pc : W64} {info : Nat} (h : q.act = .lining k pc info [])
    (hm : (s.hw.strand k).mode = .kernel) : s.land q = { s with hw := s.hw.liningEntry k pc info } := by
  rw [State.land_lining s h, ← Hw.liningTrap_alone s.hw pc info hm]; rfl
theorem State.land_lining_bundle (s : State) {q : Pend} {k : Nat} {pc : W64} {info : Nat} {mates : List (Nat × W64)}
    (h : q.act = .lining k pc info mates) (hne : mates ≠ []) (hm : (s.hw.strand k).mode = .kernel) :
    s.land q = { s with hw := s.hw.liningBundle k pc info mates } := by
  rw [State.land_lining s h, ← Hw.liningTrap_bundle s.hw pc info hne hm]; rfl

theorem registerWritesLand : RegisterWritesLand := by
  intro s q k st
  refine ⟨xWriteLands s q k, vectorWriteLands s q k, maskWriteLands s q k, byteWriteLands s q k, flagsWriteLands s q k, ?_, ?_⟩
  · intro pc info h hm t w
    have ht : t = { s with hw := s.hw.liningEntry k pc info } := State.land_lining_alone s h hm
    clear_value t
    subst ht
    refine ⟨?_, ?_, Hw.strand_liningEntry_same _ _ _ _, fun j hj => Hw.strand_liningEntry_ne _ _ _ hj⟩
    · dsimp only; rw [Hw.liningEntry_shape]
    · dsimp only; rw [Hw.liningEntry_shape]
  · intro pc info mates h hne hnd hk hm t w mine
    have ht : t = { s with hw := s.hw.liningBundle k pc info mates } := State.land_lining_bundle s h hne hm
    clear_value t
    subst ht
    refine ⟨?_, ?_, ?_, Hw.strand_liningBundle_same _ _ _ _ _ hnd hk,
      fun x hx => Hw.strand_liningBundle_mate _ _ _ _ _ hnd hx,
      fun j hj => Hw.strand_liningBundle_of_notMem _ _ _ _ _ hk hj⟩
    · dsimp only; rw [Hw.liningBundle_shape]
    · dsimp only; rw [Hw.liningBundle_shape]
    · dsimp only; rw [Hw.liningBundle_shape]; rfl

/-- The bytes of a register from KiB i on, as elements. -/
theorem regBytes_kib (data : BitVec 32768) (i n : Nat) :
    regBytes data (1024 * i) n = (List.range n).map fun j => BitVec.ofNat 8 (elemAt data 8 (1024 * i + j)) := by
  unfold regBytes elemAt
  simp only [BitVec.ofNat_toNat, BitVec.setWidth_eq]

theorem scratchpadWritesLand : ScratchpadWritesLand := by
  intro s q core port off hm
  refine ⟨fun bs h => ?_, fun target h => ?_, fun n op y cmp h => ?_, fun k r i n h => ?_, fun n op y cmp k sup r h => ?_⟩
  · exact State.land_store s h ▸ stored_writeBytes s _ bs _ rfl hm
  · refine State.land_swset s h ▸ stored_writeBytes s _ _ 16 ?_ hm
    simp only [Memory.readBytes, List.length_append, List.length_cons, List.length_nil, List.length_map, List.length_range,
      leBytes_length]
  · exact State.land_atomic_none s h ▸ stored_atomicStored s core off n op y cmp hm
  · refine ⟨_, State.land_vstRead s h, rfl, ?_⟩
    rw [← regBytes_kib]
    exact landings_append _ _
  · exact ⟨_, stored_atomicStored s core off n op y cmp hm, State.land_atomic_some s h⟩

/-- Settles O25: each kind of write by the equation of its landing. -/
theorem writesLand : Obligations.WritesLand := ⟨registerWritesLand, scratchpadWritesLand⟩

end Sys2Proof.Machine
end

section
/-! SUPPORT. The decoder on the words that the spec writes out. -/
namespace Sys2Proof.Machine
open Sys2Proof Sys2Proof.Claims

/-- Settles O56: the decoder is evaluated on each word in turn. -/
theorem decodeSamples : Obligations.DecodeSamples := by
  unfold Obligations.DecodeSamples decodes
  decide +kernel

end Sys2Proof.Machine
end

section
/-! SUPPORT. The landing event of a tick (R7, R83, R137, R173): which writes are due, the order of issue within a place, and one
place after another. -/
namespace Sys2Proof.Machine
open Sys2Proof Sys2Proof.Claims

/-! ### Other pending writes, the same clocks -/

/-- The machine, and the state, with other pending writes. -/
def Hw.withPend (h : Hw) (l : List Pend) : Hw := { h with pend := l }
def State.withPend (s : State) (l : List Pend) : State := { s with hw := s.hw.withPend l }
/-- A write that lands in a partition's event of this tick, and one that lands there at place r. -/
def Hw.lands (h : Hw) (p : Nat) (q : Pend) : Bool := q.act.rank.isSome && h.isDue p q
def Hw.landsAt (h : Hw) (p r : Nat) (q : Pend) : Bool := q.act.rank == some r && h.isDue p q

@[simp] theorem State.withPend_mk (m : Memory) (h : Hw) (l : List Pend) : (State.mk m h).withPend l = State.mk m (h.withPend l) := rfl
@[simp] theorem State.withPend_mem (s : State) (l : List Pend) : (s.withPend l).mem = s.mem := rfl
@[simp] theorem State.withPend_hw (s : State) (l : List Pend) : (s.withPend l).hw = s.hw.withPend l := rfl
@[simp] theorem Hw.withPend_pend (h : Hw) (l : List Pend) : (h.withPend l).pend = l := rfl
theorem State.withPend_pend (s : State) (l : List Pend) : (s.withPend l).hw.pend = l := rfl
@[simp] theorem State.withPend_withPend (s : State) (l m : List Pend) : (s.withPend l).withPend m = s.withPend m := rfl
@[simp] theorem State.withPend_self (s : State) : s.withPend s.hw.pend = s := rfl
theorem State.landsAt_withPend (s : State) (l : List Pend) : (s.withPend l).hw.landsAt = s.hw.landsAt := rfl

theorem Hw.landsAt_eq (h : Hw) (p r : Nat) (q : Pend) : h.landsAt p r q = (q.act.rank == some r && h.lands p q) := by
  unfold Hw.landsAt Hw.lands
  cases hr : q.act.rank == some r with
  | false => rfl
  | true => rw [eq_of_beq hr]; rfl

/-- The clocks on which writes are due are the same. -/
def SameClocks (g h : Hw) : Prop := g.wtick = h.wtick ∧ ∀ p, (g.part p).pclk = (h.part p).pclk

theorem SameClocks.isDue {g h : Hw} (e : SameClocks g h) : g.isDue = h.isDue := by
  obtain ⟨hw, hp⟩ := e
  funext p q
  rw [Hw.isDue, Hw.isDue, hw, hp]
theorem SameClocks.lands {g h : Hw} (e : SameClocks g h) : g.lands = h.lands := by
  funext p q
  rw [Hw.lands, Hw.lands, e.isDue]
theorem SameClocks.landsAt {g h : Hw} (e : SameClocks g h) : g.landsAt = h.landsAt := by
  funext p r q
  rw [Hw.landsAt, Hw.landsAt, e.isDue]
theorem SameClocks.trans {f g h : Hw} (a : SameClocks f g) (b : SameClocks g h) : SameClocks f h :=
  ⟨a.1.trans b.1, fun p => (a.2 p).trans (b.2 p)⟩

theorem sameClocks_stored (h : Hw) (k n : Nat) : SameClocks (h.stored k n) h := ⟨h.wtick_stored k n, h.pclk_stored k n⟩

theorem Hw.clearBad_withPend (h : Hw) (l : List Pend) (k n : Nat) : (h.withPend l).clearBad k n = (h.clearBad k n).withPend l := by
  rw [Hw.clearBad_eq, Hw.clearBad_eq]; rfl
theorem Hw.spoil_withPend (h : Hw) (l : List Pend) (k n : Nat) : (h.withPend l).spoil k n = (h.spoil k n).withPend l := by
  have hdie : ∀ d, (h.withPend l).die d = h.die d := fun _ => rfl
  simp only [Hw.spoil, hdie]
  split <;> rfl
theorem Hw.soil_withPend (h : Hw) (l : List Pend) (k n : Nat) : (h.withPend l).soil k n = (h.soil k n).withPend l := by
  rw [Hw.soil_eq, Hw.soil_eq]; rfl
theorem Hw.stored_withPend (h : Hw) (l : List Pend) (k n : Nat) : (h.withPend l).stored k n = (h.stored k n).withPend l := by
  rw [Hw.stored, Hw.stored, Hw.clearBad_withPend, Hw.spoil_withPend, Hw.soil_withPend]

/-- A write whose value was fixed at its issue does not see the pending writes. -/
theorem State.land_withPend (s : State) (l : List Pend) (q : Pend) (hq : plain q.act = true) :
    (s.withPend l).land q = (s.land q).withPend l := by
  cases h : q.act with
  | x k sup r v => rw [State.land_x _ h, State.land_x _ h]; rfl
  | v k r data slots tag => rw [State.land_v _ h, State.land_v _ h]; rfl
  | k k r v => rw [State.land_k _ h, State.land_k _ h]; rfl
  | b k r data bytes => rw [State.land_b _ h, State.land_b _ h]; rfl
  | flags k b => rw [State.land_flags _ h, State.land_flags _ h]; rfl
  | store core port off bs =>
    rw [State.land_store _ h, State.land_store _ h, State.withPend_hw, State.withPend_mem, Hw.stored_withPend, State.withPend_mk]
  | swset core port off target =>
    rw [State.land_swset _ h, State.land_swset _ h, State.withPend_hw, State.withPend_mem, Hw.stored_withPend, State.withPend_mk]
  | _ => simp only [plain, h, Bool.false_eq_true] at hq

theorem sameClocks_land (s : State) (q : Pend) (hq : plain q.act = true) : SameClocks (s.land q).hw s.hw := by
  cases h : q.act with
  | x k sup r v => rw [State.land_x _ h]; exact ⟨rfl, fun _ => rfl⟩
  | v k r data slots tag => rw [State.land_v _ h]; exact ⟨rfl, fun _ => rfl⟩
  | k k r v => rw [State.land_k _ h]; exact ⟨rfl, fun _ => rfl⟩
  | b k r data bytes => rw [State.land_b _ h]; exact ⟨rfl, fun _ => rfl⟩
  | flags k b => rw [State.land_flags _ h]; exact ⟨rfl, fun _ => rfl⟩
  | store core port off bs => rw [State.land_store _ h]; exact sameClocks_stored _ _ _
  | swset core port off target => rw [State.land_swset _ h]; exact sameClocks_stored _ _ _
  | _ => simp only [plain, h, Bool.false_eq_true] at hq

theorem foldl_land_withPend (s : State) (l : List Pend) (qs : List Pend) (hq : ∀ q ∈ qs, plain q.act = true) :
    qs.foldl State.land (s.withPend l) = (qs.foldl State.land s).withPend l := by
  induction qs generalizing s with
  | nil => rfl
  | cons q qs ih =>
    obtain ⟨hq0, hqs⟩ := List.forall_mem_cons.1 hq
    rw [List.foldl_cons, List.foldl_cons, State.land_withPend s l q hq0, ih _ hqs]

theorem sameClocks_foldl_land (s : State) (qs : List Pend) (hq : ∀ q ∈ qs, plain q.act = true) :
    SameClocks (qs.foldl State.land s).hw s.hw := by
  induction qs generalizing s with
  | nil => exact ⟨rfl, fun _ => rfl⟩
  | cons q qs ih =>
    obtain ⟨hq0, hqs⟩ := List.forall_mem_cons.1 hq
    exact (ih _ hqs).trans (sameClocks_land s q hq0)

/-! ### Issue order -/

theorem Pend.before_of_plain {q : Pend} (x : Pend) (hq : plain q.act = true) : q.before x = decide (q.seq < x.seq) := by
  unfold Pend.before
  split
  · next h _ => simp only [plain, h, Bool.false_eq_true] at hq
  · rfl

theorem insertPend_perm (q : Pend) (l : List Pend) : (insertPend q l).Perm (q :: l) := by
  induction l with
  | nil => exact .refl _
  | cons x t ih =>
    rw [insertPend]
    split
    · exact .refl _
    · exact (ih.cons x).trans (.swap q x t)

theorem insertPend_sorted {q : Pend} {l : List Pend} (hq : plain q.act = true) (hl : l.Pairwise fun a b => a.seq ≤ b.seq) :
    (insertPend q l).Pairwise fun a b => a.seq ≤ b.seq := by
  induction l with
  | nil => exact List.pairwise_singleton _ _
  | cons x t ih =>
    obtain ⟨hx, ht⟩ := List.pairwise_cons.1 hl
    rw [insertPend, Pend.before_of_plain x hq]
    split
    · next hlt =>
      have hqx : q.seq < x.seq := of_decide_eq_true hlt
      exact List.pairwise_cons.2 ⟨List.forall_mem_cons.2 ⟨Nat.le_of_lt hqx, fun y hy => Nat.le_trans (Nat.le_of_lt hqx) (hx y hy)⟩, hl⟩
    · next hge =>
      have hxq : x.seq ≤ q.seq := Nat.le_of_not_lt fun h => hge (decide_eq_true h)
      refine List.pairwise_cons.2 ⟨fun y hy => ?_, ih ht⟩
      rcases List.mem_cons.1 ((insertPend_perm q t).mem_iff.1 hy) with rfl | hy
      · exact hxq
      · exact hx y hy

/-- Pending writes in issue order. -/
def sortPend (l : List Pend) : List Pend := l.foldl (fun l q => insertPend q l) []

theorem foldl_insertPend (l acc : List Pend) (hl : ∀ q ∈ l, plain q.act = true) (ha : acc.Pairwise fun a b => a.seq ≤ b.seq) :
    (l.foldl (fun l q => insertPend q l) acc).Perm (l ++ acc) ∧
      (l.foldl (fun l q => insertPend q l) acc).Pairwise fun a b => a.seq ≤ b.seq := by
  induction l generalizing acc with
  | nil => exact ⟨.refl _, ha⟩
  | cons q l ih =>
    obtain ⟨hq, hl'⟩ := List.forall_mem_cons.1 hl
    obtain ⟨hperm, hsort⟩ := ih _ hl' (insertPend_sorted hq ha)
    exact ⟨hperm.trans (((insertPend_perm q acc).append_left l).trans List.perm_middle), hsort⟩

theorem eq_of_seq_eq {m : List Pend} (hm : m.Pairwise fun a b => a.seq < b.seq) {a b : Pend} (ha : a ∈ m) (hb : b ∈ m)
    (h : a.seq = b.seq) : a = b := by
  induction m with
  | nil => cases ha
  | cons x m ih =>
    obtain ⟨hx, hm⟩ := List.pairwise_cons.1 hm
    rcases List.mem_cons.1 ha with rfl | ha' <;> rcases List.mem_cons.1 hb with rfl | hb'
    · rfl
    · exact absurd h (Nat.ne_of_lt (hx b hb'))
    · exact absurd h.symm (Nat.ne_of_lt (hx a ha'))
    · exact ih hm ha' hb'

/-- Writes in strictly ascending issue order are what the sort makes of any arrangement of them. -/
theorem sortPend_eq {l m : List Pend} (hp : l.Perm m) (hm : m.Pairwise fun a b => a.seq < b.seq) (hl : ∀ q ∈ m, plain q.act = true) :
    sortPend l = m := by
  obtain ⟨hperm, hsort⟩ := foldl_insertPend l [] (fun q hq => hl q (hp.mem_iff.1 hq)) .nil
  rw [List.append_nil] at hperm
  refine List.Perm.eq_of_pairwise (fun a b ha hb hab hba => ?_) hsort (hm.imp Nat.le_of_lt) (hperm.trans hp)
  exact eq_of_seq_eq hm ((hperm.trans hp).mem_iff.1 ha) hb (Nat.le_antisymm hab hba)

/-! ### One place after another -/

theorem State.landRank_eq (p : Nat) (s : State) (r : Nat) :
    State.landRank p s r = (sortPend (s.hw.pend.filter (s.hw.landsAt p r))).foldl State.land
      (s.withPend (s.hw.pend.filter fun q => !s.hw.landsAt p r q)) := rfl

theorem State.landRank_none {p r : Nat} {s : State} (h : s.hw.pend.filter (s.hw.landsAt p r) = []) : State.landRank p s r = s := by
  have hall : (s.hw.pend.filter fun q => !s.hw.landsAt p r q) = s.hw.pend :=
    List.filter_eq_self.2 fun q hq => by
      rw [Bool.eq_false_iff.2 (List.filter_eq_nil_iff.1 h q hq)]; rfl
  rw [State.landRank_eq, h, hall]; rfl

theorem State.landRank_one {p r : Nat} {s : State} {q : Pend} (h : s.hw.pend.filter (s.hw.landsAt p r) = [q]) :
    State.landRank p s r = (s.withPend (s.hw.pend.filter fun x => !s.hw.landsAt p r x)).land q := by
  rw [State.landRank_eq, h]; rfl

theorem State.landRanks_none {p : Nat} {s : State} {l : List Nat} (h : ∀ r ∈ l, s.hw.pend.filter (s.hw.landsAt p r) = []) :
    l.foldl (State.landRank p) s = s := by
  induction l with
  | nil => rfl
  | cons r l ih =>
    obtain ⟨hr, hl⟩ := List.forall_mem_cons.1 h
    rw [List.foldl_cons, State.landRank_none hr, ih hl]

theorem exec_timedWriteLanding {p : Nat} (s : State) (hp : p < 8) :
    exec (.timedWriteLanding p) s = .next ((List.range 12).foldl (State.landRank p) s) := by
  have harm : exec (.timedWriteLanding p) s = execTimedWriteLanding p s := rfl
  rw [harm, execTimedWriteLanding, inPart_next hp]

theorem State.filter_landsAt (s : State) (p r : Nat) :
    s.hw.pend.filter (s.hw.landsAt p r) = (s.hw.pend.filter (s.hw.lands p)).filter (fun q => q.act.rank == some r) := by
  rw [List.filter_filter]
  exact List.filter_congr fun q _ => s.hw.landsAt_eq p r q

theorem State.filter_not_landsAt {s : State} {p r : Nat} (h : ∀ q ∈ s.hw.pend, s.hw.lands p q = true → q.act.rank = some r) :
    (s.hw.pend.filter fun q => !s.hw.landsAt p r q) = s.hw.pend.filter fun q => !s.hw.lands p q := by
  refine List.filter_congr fun q hq => congrArg _ ?_
  rw [Hw.landsAt_eq]
  cases hl : s.hw.lands p q with
  | false => rw [Bool.and_false]
  | true => rw [h q hq hl, beq_self_eq_true]; rfl

/-- With one write due, the places before its own do nothing. -/
theorem State.landRanks_single {s : State} {p r : Nat} {q : Pend} (hd : s.hw.pend.filter (s.hw.lands p) = [q])
    (hr : q.act.rank = some r) {before after : List Nat} (hb : r ∉ before) :
    (before ++ r :: after).foldl (State.landRank p) s =
      after.foldl (State.landRank p) ((s.withPend (s.hw.pend.filter fun x => !s.hw.lands p x)).land q) := by
  have hat : ∀ i, s.hw.pend.filter (s.hw.landsAt p i) = if i = r then [q] else [] := by
    intro i
    rw [State.filter_landsAt, hd, List.filter_cons, List.filter_nil, hr]
    by_cases hi : i = r
    · rw [hi, if_pos (beq_self_eq_true _), if_pos rfl]
    · rw [if_neg hi, if_neg fun e => hi (Option.some.inj (eq_of_beq e)).symm]
  have honly : ∀ x ∈ s.hw.pend, s.hw.lands p x = true → x.act.rank = some r := by
    intro x hx hl
    have hxq : x ∈ [q] := hd ▸ List.mem_filter.2 ⟨hx, hl⟩
    rw [List.mem_singleton.1 hxq, hr]
  have hbefore : before.foldl (State.landRank p) s = s :=
    State.landRanks_none fun i hi => (hat i).trans (if_neg fun (e : i = r) => hb (e ▸ hi))
  rw [List.foldl_append, hbefore, List.foldl_cons, State.landRank_one ((hat r).trans (if_pos rfl)), State.filter_not_landsAt honly]

theorem range_split {r n : Nat} (hr : r < n) : List.range n = List.range r ++ r :: List.range' (r + 1) (n - r - 1) := by
  obtain ⟨d, rfl⟩ : ∃ d, n = r + (d + 1) := ⟨n - r - 1, by omega⟩
  have hd : r + (d + 1) - r - 1 = d := by omega
  rw [hd, List.range_eq_range', List.range_eq_range', ← List.range'_append_1, List.range'_succ, Nat.zero_add]

/-- The places of a tick, with that of an access to the scratchpad and, later, that of register writes. -/
theorem range_split_registers {r : Nat} (hr : r < 8) :
    List.range 12 = List.range r ++ r :: (List.range' (r + 1) (7 - r) ++ 8 :: [9, 10, 11]) := by
  have htail : List.range' (r + 1) (12 - r - 1) = List.range' (r + 1) (7 - r) ++ List.range' 8 4 := by
    have happend := List.range'_append_1 (s := r + 1) (m := 7 - r) (n := 4)
    have hstart : r + 1 + (7 - r) = 8 := by omega
    have hlen : 7 - r + 4 = 12 - r - 1 := by omega
    rw [hstart, hlen] at happend
    exact happend.symm
  rw [range_split (show r < 12 by omega), htail]; rfl

/-- One write due, and nothing due among what is pending after it: it lands. -/
theorem landing_single {s : State} {p : Nat} {q : Pend} (hp : p < 8) (hd : s.hw.pend.filter (s.hw.lands p) = [q])
    {r : Nat} (hr : r < 12) (hq : q.act.rank = some r)
    (hafter : let one := (s.withPend (s.hw.pend.filter fun x => !s.hw.lands p x)).land q
      ∀ x ∈ one.hw.pend, x.act.rank = none ∨ one.hw.isDue p x = false) :
    exec (.timedWriteLanding p) s = .next ((s.withPend (s.hw.pend.filter fun x => !s.hw.lands p x)).land q) := by
  rw [exec_timedWriteLanding s hp, range_split hr, State.landRanks_single hd hq List.not_mem_range_self]
  congr 1
  refine State.landRanks_none fun i _ => List.filter_eq_nil_iff.2 fun x hx hl => ?_
  rw [Hw.landsAt, Bool.and_eq_true, beq_iff_eq] at hl
  rcases hafter x hx with hn | hn
  · rw [hl.1] at hn; cases hn
  · rw [hl.2] at hn; cases hn

/-- The register write of the old value of an atomic, on the atomic's clock and at its tick. -/
def Pend.oldValue (q : Pend) (k : Nat) (sup : Bool) (r : XReg) (old : Nat) : Pend :=
  { q with act := .x k sup r (BitVec.ofNat 64 old) }

/-- One atomic with a destination due: the write of its old value lands after it, in the same event. -/
theorem landing_atomic {s : State} {p : Nat} {q : Pend} (hp : p < 8) (hd : s.hw.pend.filter (s.hw.lands p) = [q])
    {core port off n : Nat} {op : AtomOp} {y cmp k : Nat} {sup : Bool} {r : XReg}
    (hq : q.act = .atomic core port off n op y cmp (some (k, sup, r))) (hport : port < 6) :
    let rest := s.hw.pend.filter fun x => !s.hw.lands p x
    ∀ one, one = (s.withPend rest).land q → exec (.timedWriteLanding p) s =
      .next ((one.withPend rest).land (q.oldValue k sup r (Memory.readNat s.mem (spadKey core off) n))) := by
  intro rest one hdef
  let w := q.oldValue k sup r (Memory.readNat s.mem (spadKey core off) n)
  have hone : one = ((s.withPend rest).atomicStored core off n op y cmp).withPend (rest ++ [w]) := by
    rw [hdef, State.land_atomic_some _ hq]
    show State.withPend _ (((s.withPend rest).hw.stored (spadKey core off) n).pend ++ [w]) = _
    rw [Hw.pend_stored]; rfl
  have hclocks : SameClocks one.hw s.hw := by
    rw [hone]; exact sameClocks_stored (s.hw.withPend rest) _ _
  have hpend : one.hw.pend = rest ++ [w] := by rw [hone]; rfl
  have hqd : s.hw.lands p q = true := (List.mem_filter.1 (hd ▸ List.mem_singleton_self q)).2
  have hdue : s.hw.isDue p q = true := by
    rw [Hw.lands, Bool.and_eq_true] at hqd
    exact hqd.2
  have hw : s.hw.lands p w = true := hdue
  have hrest : ∀ x ∈ rest, s.hw.lands p x = false := fun x hx => by
    simpa only [Bool.not_eq_eq_eq_not, Bool.not_true] using (List.mem_filter.1 hx).2
  have hnone : rest.filter (s.hw.lands p) = [] := List.filter_eq_nil_iff.2 fun x hx => Bool.eq_false_iff.1 (hrest x hx)
  have hkept : (rest.filter fun x => !s.hw.lands p x) = rest :=
    List.filter_eq_self.2 fun x hx => by rw [hrest x hx]; rfl
  have hdone : one.hw.pend.filter (one.hw.lands p) = [w] := by
    rw [hclocks.lands, hpend, List.filter_append, hnone, List.filter_cons_of_pos hw]; rfl
  have hrestone : (one.hw.pend.filter fun x => !one.hw.lands p x) = rest := by
    rw [hclocks.lands, hpend, List.filter_append, hkept,
      List.filter_cons_of_neg (by rw [hw]; decide), List.filter_nil, List.append_nil]
  have hrank : q.act.rank = some (2 + port) := by rw [hq]; rfl
  have hbefore : 8 ∉ List.range' (2 + port + 1) (7 - (2 + port)) := fun h => by
    have := List.mem_range'_1.1 h
    omega
  have hlast : SameClocks ((one.withPend rest).land w).hw s.hw :=
    (sameClocks_land (one.withPend rest) w rfl).trans hclocks
  have hpendlast : ((one.withPend rest).land w).hw.pend = rest := by
    rw [State.land_withPend one rest w rfl]; rfl
  rw [exec_timedWriteLanding s hp, range_split_registers (show 2 + port < 8 by omega),
    State.landRanks_single hd hrank List.not_mem_range_self, ← hdef, State.landRanks_single hdone rfl hbefore, hrestone]
  refine congrArg _ (State.landRanks_none fun i _ => ?_)
  rw [State.filter_landsAt, hlast.lands, hpendlast, hnone, List.filter_nil]

/-! ### Several writes due -/

/-- A write whose place comes before the n-th. -/
def Pend.rankBelow (n : Nat) (q : Pend) : Bool := q.act.rank.any fun r => decide (r < n)

theorem Pend.rankBelow_of_rank {q : Pend} {r : Nat} (h : q.act.rank = some r) (n : Nat) : q.rankBelow n = decide (r < n) := by
  rw [Pend.rankBelow, h]; rfl
theorem Pend.rankBelow_zero (q : Pend) : q.rankBelow 0 = false := by
  cases h : q.act.rank with
  | none => rw [Pend.rankBelow, h]; rfl
  | some r => rw [Pend.rankBelow_of_rank h, decide_eq_false (Nat.not_lt_zero r)]
theorem Pend.rankBelow_succ (q : Pend) (n : Nat) : q.rankBelow (n + 1) = (q.rankBelow n || q.act.rank == some n) := by
  cases h : q.act.rank with
  | none => rw [Pend.rankBelow, Pend.rankBelow, h]; rfl
  | some r =>
    rw [Pend.rankBelow_of_rank h, Pend.rankBelow_of_rank h, Bool.eq_iff_iff]
    simp only [decide_eq_true_eq, Bool.or_eq_true, beq_iff_eq, Option.some.injEq]
    omega

theorem landsBefore_rank {a b : Pend} {i : Nat} (h : landsBefore a b) (ha : a.act.rank = some i) :
    ∃ j, b.act.rank = some j ∧ i ≤ j ∧ (i = j → a.seq < b.seq) := by
  obtain ⟨i', j, hi, hj, -, -, hord⟩ := h
  obtain rfl : i' = i := Option.some.inj (hi.symm.trans ha)
  exact ⟨j, hj, by omega, by omega⟩

/-- In landing order, the writes before place n + 1 are those before place n and then those of place n. -/
theorem filter_rankBelow_succ {l : List Pend} (hl : l.Pairwise landsBefore) (n : Nat) :
    l.filter (Pend.rankBelow (n + 1)) = l.filter (Pend.rankBelow n) ++ l.filter (fun q => q.act.rank == some n) := by
  induction l with
  | nil => rfl
  | cons a l ih =>
    obtain ⟨ha, hl⟩ := List.pairwise_cons.1 hl
    have ih := ih hl
    by_cases hr : a.act.rank = some n
    · have hbelow : a.rankBelow n = false := by
        rw [Pend.rankBelow_of_rank hr, decide_eq_false (Nat.lt_irrefl n)]
      have hrest : l.filter (Pend.rankBelow n) = [] := by
        refine List.filter_eq_nil_iff.2 fun b hb => ?_
        obtain ⟨j, hj, hnj, -⟩ := landsBefore_rank (ha b hb) hr
        rw [Pend.rankBelow_of_rank hj, decide_eq_true_eq]
        exact Nat.not_lt.2 hnj
      simp only [List.filter_cons, Pend.rankBelow_succ, hr, beq_self_eq_true, hbelow, Bool.or_true, Bool.false_eq_true, if_true,
        if_false, hrest, ih, List.nil_append]
    · have hne : (a.act.rank == some n) = false := beq_eq_false_iff_ne.2 hr
      cases hbelow : a.rankBelow n with
      | false => simp only [List.filter_cons, Pend.rankBelow_succ, hne, hbelow, Bool.or_false, Bool.false_eq_true, if_false, ih]
      | true =>
        simp only [List.filter_cons, Pend.rankBelow_succ, hne, hbelow, Bool.or_false, Bool.false_eq_true, if_true, if_false, ih,
          List.cons_append]

/-- The writes of one place stand in issue order. -/
theorem pairwise_seq_of_rank {l : List Pend} (hl : l.Pairwise landsBefore) (n : Nat) :
    (l.filter fun q => q.act.rank == some n).Pairwise fun a b => a.seq < b.seq := by
  refine (hl.filter _).imp_of_mem fun {a b} ha hb hab => ?_
  obtain ⟨j, hj, -, hseq⟩ := landsBefore_rank hab (eq_of_beq (List.mem_filter.1 ha).2)
  exact hseq (Option.some.inj ((eq_of_beq (List.mem_filter.1 hb).2).symm.trans hj))

/-- The places below n: what is due there has landed, in the order of `l`. -/
theorem State.landRanks_below {s : State} {p : Nat} {l : List Pend} (hperm : (s.hw.pend.filter (s.hw.lands p)).Perm l)
    (hl : l.Pairwise landsBefore) (hplain : ∀ q ∈ l, plain q.act = true) (n : Nat) :
    (List.range n).foldl (State.landRank p) s =
      ((l.filter (Pend.rankBelow n)).foldl State.land s).withPend
        (s.hw.pend.filter fun q => !(q.rankBelow n && s.hw.lands p q)) := by
  induction n with
  | zero =>
    have hnone : l.filter (Pend.rankBelow 0) = [] :=
      List.filter_eq_nil_iff.2 fun q _ => by rw [Pend.rankBelow_zero]; exact Bool.false_ne_true
    have hall : (s.hw.pend.filter fun q => !(q.rankBelow 0 && s.hw.lands p q)) = s.hw.pend :=
      List.filter_eq_self.2 fun q _ => by rw [Pend.rankBelow_zero]; rfl
    rw [hnone, hall]; rfl
  | succ n ih =>
    have hbelow : ∀ q ∈ l.filter (Pend.rankBelow n), plain q.act = true := fun q hq => hplain q (List.mem_filter.1 hq).1
    have hat : ∀ q ∈ l.filter (fun q => q.act.rank == some n), plain q.act = true := fun q hq => hplain q (List.mem_filter.1 hq).1
    have hclocks := sameClocks_foldl_land s _ hbelow
    have hnow : (s.hw.pend.filter fun q => s.hw.landsAt p n q && !(q.rankBelow n && s.hw.lands p q)) =
        (s.hw.pend.filter (s.hw.lands p)).filter fun q => q.act.rank == some n := by
      rw [← State.filter_landsAt]
      refine List.filter_congr fun q _ => ?_
      by_cases hr : q.act.rank = some n
      · rw [Pend.rankBelow_of_rank hr, decide_eq_false (Nat.lt_irrefl n), Bool.false_and]; exact Bool.and_true _
      · have hat : s.hw.landsAt p n q = false := by rw [Hw.landsAt, beq_eq_false_iff_ne.2 hr, Bool.false_and]
        rw [hat]; rfl
    have hleft : (s.hw.pend.filter fun q => !s.hw.landsAt p n q && !(q.rankBelow n && s.hw.lands p q)) =
        s.hw.pend.filter fun q => !(q.rankBelow (n + 1) && s.hw.lands p q) := by
      refine List.filter_congr fun q _ => ?_
      rw [Hw.landsAt_eq, Pend.rankBelow_succ]
      cases q.act.rank == some n <;> cases q.rankBelow n <;> cases s.hw.lands p q <;> rfl
    have hsort := sortPend_eq (hperm.filter fun q => q.act.rank == some n) (pairwise_seq_of_rank hl n) hat
    rw [List.range_succ, List.foldl_append, ih, List.foldl_cons, List.foldl_nil, State.landRank_eq, State.landsAt_withPend,
      hclocks.landsAt, State.withPend_pend, State.withPend_withPend, List.filter_filter, List.filter_filter, hnow, hleft, hsort,
      foldl_land_withPend _ _ _ hat, ← List.foldl_append, ← filter_rankBelow_succ hl]

/-- Any number of writes whose values were fixed at their issue: they land in order. -/
theorem landing_several {s : State} {p : Nat} {l : List Pend} (hp : p < 8) (hperm : (s.hw.pend.filter (s.hw.lands p)).Perm l)
    (hl : l.Pairwise landsBefore) (hplain : ∀ q ∈ l, plain q.act = true) (hlen : 2 ≤ l.length) :
    exec (.timedWriteLanding p) s = .next (l.foldl State.land (s.withPend (s.hw.pend.filter fun q => !s.hw.lands p q))) := by
  have hall : ∀ q ∈ l, q.rankBelow 12 = true := by
    match l, hlen, hl with
    | a :: b :: t, _, hl =>
      obtain ⟨ha, -⟩ := List.pairwise_cons.1 hl
      intro q hq
      rcases List.mem_cons.1 hq with rfl | hq
      · obtain ⟨i, j, hi, -, hi12, -⟩ := ha b (List.mem_cons_self)
        rw [Pend.rankBelow_of_rank hi, decide_eq_true hi12]
      · obtain ⟨i, j, -, hj, -, hj12, -⟩ := ha q hq
        rw [Pend.rankBelow_of_rank hj, decide_eq_true hj12]
  have hleft : (s.hw.pend.filter fun q => !(q.rankBelow 12 && s.hw.lands p q)) = s.hw.pend.filter fun q => !s.hw.lands p q := by
    refine List.filter_congr fun q hq => congrArg _ ?_
    cases hd : s.hw.lands p q with
    | false => rw [Bool.and_false]
    | true => rw [hall q (hperm.mem_iff.1 (List.mem_filter.2 ⟨hq, hd⟩))]; rfl
  rw [exec_timedWriteLanding s hp, State.landRanks_below hperm hl hplain, List.filter_eq_self.2 hall, hleft,
    foldl_land_withPend _ _ _ hplain]

/-- Settles O26: a write alone in its place, an atomic and its old value, several writes by their places and issue order, none. -/
theorem timedWriteLanding : Obligations.TimedWriteLanding := by
  intro s p hp isDue rest
  refine ⟨fun q hq => ?_, fun l hperm hl hplain hlen => landing_several hp hperm hl hplain hlen, fun hnone => ?_⟩
  · intro one
    have hone : one = (s.withPend rest).land q := rfl
    clear_value one
    refine ⟨?_, fun core port off n op y cmp k sup r hact hport => landing_atomic hp hq hact hport one hone⟩
    rintro ⟨r, hr, hrank⟩ hafter
    subst hone
    exact landing_single hp hq hr hrank hafter
  · refine ⟨s, ?_, rfl⟩
    rw [exec_timedWriteLanding s hp]
    refine congrArg _ (State.landRanks_none fun r _ => ?_)
    rw [State.filter_landsAt]
    exact congrArg (List.filter _) hnone

end Sys2Proof.Machine
end
